-- ==== Sys2Proof/Word.lean ====
section
/-! DEFINITION. The word types of the Fjofer F9 (R5, R6, R15, R24): names for the widths the spec uses. -/

namespace Sys2Proof

/-- A byte of memory (R5). -/
abbrev Byte := BitVec 8
/-- A lane's frame register (Table 1.1). -/
abbrev W32 := BitVec 32
/-- A scalar register (Table 1.1). -/
abbrev W64 := BitVec 64
/-- A ring row (R24), a buffer record (R20) or a spill-stack entry (R30). -/
abbrev W128 := BitVec 128
/-- A 64-byte memory or fetch line (R65); byte `i` is bits `8i+7:8i`. -/
abbrev LineBits := BitVec 512
/-- A virtual address (Table 1.3: 57 bits). -/
abbrev VA := BitVec 57
/-- One bit for each lane of a warp (R17). -/
abbrev Mask32 := BitVec 32
/-- One bit for each slice of a warp (R11). -/
abbrev Mask8 := BitVec 8

end Sys2Proof
end

