-- ==== Sys2Proof/Syntax.lean ====
section
/-! DEFINITION. The instructions and events of the F9 as data: the header of Table 3.2, the operand specifier of
Table 3.12, the six formats of Tables 3.4 to 3.9, and one constructor of `Instr` for each row of the table of
operations and events. An instruction constructor carries its header and its format fields; an event constructor
carries the names of what it concerns (core, warp slot, ...) and, where an outside party acts, what that party gives. -/

namespace Sys2Proof

/-- An operand specifier byte (R80, Table 3.12). -/
inductive Operand where
  /-- 0x00-0x3F: a frame register. -/
  | f (i : Fin 64)
  /-- 0x40-0x5F: a scalar register. -/
  | s (i : Fin 32)
  /-- 0x60-0x6F: a buffer record. -/
  | b (i : Fin 16)
  /-- 0x70-0x77: a mask register. -/
  | m (i : Fin 8)
  /-- 0x78-0x7F: a predicate. -/
  | p (i : Fin 8)
  /-- 0x80-0xBF: an inline constant, by its code less 0x80 (Table 3.13). -/
  | c (i : Fin 64)
  deriving DecidableEq, Repr

/-- The instruction header less its opcode and its reserved bits (R72, Table 3.2). -/
structure Header where
  lvl : BitVec 2
  drain : BitVec 6
  settok : BitVec 3
  gneg : Bool
  guard : BitVec 3
  yield : Bool
  stall : BitVec 4
  deriving DecidableEq, Repr

/-- Format A, three-source ALU (Table 3.4). -/
structure FmtA where
  pdst : BitVec 3
  sat : Bool
  rm : BitVec 2
  type : BitVec 4
  subop : BitVec 4
  xmod : BitVec 8
  srcC : Operand
  srcB : Operand
  srcA : Operand
  dst : Operand
  deriving DecidableEq, Repr

/-- Format B, ALU with a 32-bit immediate (Table 3.5). -/
structure FmtB where
  pdst : BitVec 3
  rm : BitVec 2
  type : BitVec 4
  subop : BitVec 4
  imm : BitVec 32
  srcA : Operand
  dst : Operand
  deriving DecidableEq, Repr

/-- Format C, control (Table 3.6). -/
structure FmtC where
  subop : BitVec 4
  mode : BitVec 2
  k : BitVec 7
  size : BitVec 7
  offset : BitVec 24
  srcB : Operand
  srcA : Operand
  deriving DecidableEq, Repr

/-- Format D, memory (Table 3.7). -/
structure FmtD where
  scope : BitVec 3
  order : BitVec 2
  hbit : Bool
  size : BitVec 3
  subop : BitVec 4
  offset : BitVec 16
  data : Operand
  index : Operand
  buf : Operand
  dst : Operand
  deriving DecidableEq, Repr

/-- Format E, engine and system (Table 3.8). -/
structure FmtE where
  scope : BitVec 3
  subop : BitVec 4
  imm : BitVec 16
  srcC : Operand
  srcB : Operand
  srcA : Operand
  dst : Operand
  deriving DecidableEq, Repr

/-- Format G, stage (Table 3.9). -/
structure FmtG where
  aux : Operand
  subop : BitVec 4
  sparse : Bool
  split : Bool
  count : BitVec 7
  stride : BitVec 3
  acc : BitVec 5
  fmt : Operand
  opx : Operand
  opw : Operand
  deriving DecidableEq, Repr

/-- What an upstream PCIe request asks for (R378). -/
inductive PcieAccess where
  /-- A read of `n` bytes. -/
  | read (n : Nat)
  /-- A write of these bytes. -/
  | write (bytes : List Byte)
  /-- A transfer to another requester's port. -/
  | peer (target : Nat)
  deriving DecidableEq, Repr

/-- What a scrub read finds in the next line of its stack (R350, R351). -/
inductive ScrubFinding where
  | clean
  | corrected
  | uncorrectable
  deriving DecidableEq, Repr

/-- What a flit from another package carries into this one's homes (R177, R267, R379). -/
inductive FlitBody where
  /-- Nothing that a home of this package acts on. -/
  | other
  /-- A routed log record: the line, its byte mask and its bytes. -/
  | record (line : Nat) (mask : BitVec 64) (data : BitVec 512)
  /-- A remote atomic: request id, operation, bytes, address, operand and comparand. -/
  | atomic (req op size pa : Nat) (v cmp : W64)
  deriving DecidableEq, Repr

/-- A device register that an application core writes through its own mapping (R375, R376, R353). -/
inductive RegTarget where
  /-- An offset of the page of interface `vi` (Table 21.6). -/
  | vi (vi offset : Nat)
  /-- An offset of the debug block of core `core`, written through interface `vi` (R376). -/
  | debug (vi core offset : Nat)
  /-- The STOPTICK value of the package (R353). -/
  | stopTick
  /-- A requester ID to be tied to an ASID, through interface `vi` (R378). -/
  | requester (vi id : Nat)
  deriving DecidableEq, Repr

/-- A firmware or service image as presented to the security controller (R382, Table 21.8): the first 1,024 bytes as
fields, the signatures and the payload as bytes. -/
structure Image where
  magic : BitVec 32
  kind : BitVec 8
  svn : BitVec 8
  reserved6 : BitVec 16
  length : W64
  digest : List Byte
  rsaModulus : List Byte
  rsaExponent : BitVec 32
  slhKey : List Byte
  reserved500 : List Byte
  rsaSignature : List Byte
  slhSignature : List Byte
  payload : List Byte
  deriving DecidableEq, Repr

/-- A boot image and its alternate copy (R382). -/
structure BootImage where
  main : Image
  alternate : Image
  deriving DecidableEq, Repr

/-- What a power-on finds: the boot images, and the limit the board declares, if it declares one (R368, R382). -/
structure BootLoad where
  images : List BootImage
  board : Option Nat
  deriving DecidableEq, Repr

/-- An image brought to the security controller, and the ASID it is for where it is a service image (R382). -/
structure AsidImage where
  image : Image
  asid : BitVec 16
  deriving DecidableEq, Repr

/-- A core as a debug access names it: its number, and the interface through which the access comes (R376). -/
structure CoreVia where
  vi : Nat
  core : Nat
  deriving DecidableEq, Repr

/-- A flit as a port receives it: its sequence number and what it carries (R379). -/
structure Flit where
  seq : Nat
  body : FlitBody
  deriving DecidableEq, Repr

/-- The table of operations and events: one constructor for each row. -/
inductive Instr where
  /-- NOP (R133): Does nothing beyond its header's stall, wait, yield and dropped token. -/
  | nop (h : Header) (o : FmtA)
  /-- MOV (R100): Copies a value, or moves one 64-bit half of a buffer record to or from an s-register. -/
  | mov (h : Header) (o : FmtA)
  /-- MOVI (R101): Writes an extended 32-bit immediate to the destination. -/
  | movi (h : Header) (o : FmtB)
  /-- MOVIH (R101): Writes an immediate to bits 63:32 of the destination and leaves bits 31:0 unchanged. -/
  | movih (h : Header) (o : FmtB)
  /-- ADD (R96): Integer add, optionally with carry-in, saturation and a carry predicate. -/
  | add (h : Header) (o : FmtA)
  /-- ADDI (R96): Integer add of a 32-bit immediate. -/
  | addi (h : Header) (o : FmtB)
  /-- SUB (R96): Integer subtract, optionally with borrow-in, saturation and a borrow predicate. -/
  | sub (h : Header) (o : FmtA)
  /-- NEG (R96): Integer negation. -/
  | neg (h : Header) (o : FmtA)
  /-- MUL (R96): Integer multiply, keeping the low bits or saturating. -/
  | mul (h : Header) (o : FmtA)
  /-- MULI (R96): Integer multiply by an immediate. -/
  | muli (h : Header) (o : FmtB)
  /-- MULHI (R96): Writes the upper w bits of the 2w-bit integer product. -/
  | mulhi (h : Header) (o : FmtA)
  /-- MAD (R96): Integer multiply-add with a single wrap or clamp. -/
  | mad (h : Header) (o : FmtA)
  /-- MADW (R97): Widening 32x32+64 multiply-add, result modulo 2^64. -/
  | madw (h : Header) (o : FmtA)
  /-- MIN (R96): Writes the smaller of two integers. -/
  | minI (h : Header) (o : FmtA)
  /-- MAX (R96): Writes the larger of two integers. -/
  | maxI (h : Header) (o : FmtA)
  /-- ABS (R96): Writes the integer absolute value. -/
  | absI (h : Header) (o : FmtA)
  /-- CLAMP (R96): Clamps an integer between a low and a high bound. -/
  | clamp (h : Header) (o : FmtA)
  /-- AND (R98): Bitwise AND. -/
  | andB (h : Header) (o : FmtA)
  /-- ANDI (R98): Bitwise AND with an immediate. -/
  | andi (h : Header) (o : FmtB)
  /-- OR (R98): Bitwise OR. -/
  | orB (h : Header) (o : FmtA)
  /-- ORI (R98): Bitwise OR with an immediate. -/
  | ori (h : Header) (o : FmtB)
  /-- XOR (R98): Bitwise XOR. -/
  | xorB (h : Header) (o : FmtA)
  /-- XORI (R98): Bitwise XOR with an immediate. -/
  | xori (h : Header) (o : FmtB)
  /-- NOT (R98): Bitwise complement. -/
  | notB (h : Header) (o : FmtA)
  /-- ANDN (R98): Bitwise AND with the complement of the second source. -/
  | andn (h : Header) (o : FmtA)
  /-- SHL (R98): Shift left by a register amount. -/
  | shl (h : Header) (o : FmtA)
  /-- SHR (R98): Logical or arithmetic shift right by a register amount. -/
  | shr (h : Header) (o : FmtA)
  /-- SHI (R98): Shift left or right by an immediate amount. -/
  | shi (h : Header) (o : FmtB)
  /-- ROL (R98): Rotate left. -/
  | rol (h : Header) (o : FmtA)
  /-- ROR (R98): Rotate right. -/
  | ror (h : Header) (o : FmtA)
  /-- BFE (R99): Extracts and extends a bit field. -/
  | bfe (h : Header) (o : FmtA)
  /-- BFI (R99): Inserts a bit field into a value. -/
  | bfi (h : Header) (o : FmtA)
  /-- POPC (R98): Counts the set bits. -/
  | popc (h : Header) (o : FmtA)
  /-- CLZ (R98): Counts the leading zeros. -/
  | clz (h : Header) (o : FmtA)
  /-- BREV (R98): Reverses the bit order. -/
  | brev (h : Header) (o : FmtA)
  /-- SEL (R102): Selects one of two sources per lane by a predicate. -/
  | sel (h : Header) (o : FmtA)
  /-- SETP (R103): Integer compare into a predicate, optionally ANDed with another predicate. -/
  | setp (h : Header) (o : FmtA)
  /-- SETPI (R103): Integer compare with an immediate into a predicate. -/
  | setpi (h : Header) (o : FmtB)
  /-- LEA (R104): Computes a 64-bit address from a base plus a shifted index. -/
  | lea (h : Header) (o : FmtA)
  /-- RDLANE (R106): Reads one lane's register into a scalar. -/
  | rdlane (h : Header) (o : FmtA)
  /-- WRLANE (R106): Writes a scalar into one executing lane's register. -/
  | wrlane (h : Header) (o : FmtA)
  /-- SEXT (R105): Sign-extends a value to a wider width. -/
  | sext (h : Header) (o : FmtA)
  /-- ZEXT (R105): Zero-extends a value to a wider width. -/
  | zext (h : Header) (o : FmtA)
  /-- PLOP (R108): Logical operation over predicates per lane. -/
  | plop (h : Header) (o : FmtA)
  /-- PMOV (R109): Moves between a predicate and a frame register or mask bit. -/
  | pmov (h : Header) (o : FmtA)
  /-- MLOP (R108): Bitwise logical operation over 32-bit masks. -/
  | mlop (h : Header) (o : FmtA)
  /-- MMOV (R109): Moves a mask to or from an m-register under the gang ownership rule. -/
  | mmov (h : Header) (o : FmtA)
  /-- BALLOT (R109): Gathers a predicate over the gang's executing lanes into a mask. -/
  | ballot (h : Header) (o : FmtA)
  /-- ANY (R109): ORs a predicate over the contributing lanes of a scope. -/
  | anyP (h : Header) (o : FmtA)
  /-- ALL (R109): ANDs a predicate over the contributing lanes of a scope. -/
  | allP (h : Header) (o : FmtA)
  /-- MFIRST (R109): Writes the index of a mask's lowest set bit. -/
  | mfirst (h : Header) (o : FmtA)
  /-- MCOUNT (R109): Writes the number of set bits of a mask. -/
  | mcount (h : Header) (o : FmtA)
  /-- MTOP (R109): Writes the index of a mask's highest set bit. -/
  | mtop (h : Header) (o : FmtA)
  /-- MSETI (R109): Sets, ORs or clears mask bits from an immediate. -/
  | mseti (h : Header) (o : FmtB)
  /-- PSETI (R109): Sets each executing lane's predicate from an immediate bit. -/
  | pseti (h : Header) (o : FmtB)
  /-- BR (R114): Branches each slice by an offset after deciding taken per slice, parting the gang. -/
  | br (h : Header) (o : FmtC)
  /-- BRX (R115): Branches each taken slice to an address in a register. -/
  | brx (h : Header) (o : FmtC)
  /-- CALL (R117): Opens an overlapping callee frame in each calling slice and transfers to the target. -/
  | call (h : Header) (o : FmtC)
  /-- CALLI (R119): Calls a per-lane target, serving one target group and opening a group frame. -/
  | calli (h : Header) (o : FmtC)
  /-- TCALL (R121): Replaces the current frame by a resized one and transfers to a direct target. -/
  | tcall (h : Header) (o : FmtC)
  /-- TCALL_INDIRECT (R121): Replaces the current frame and transfers to the address in an s-register. -/
  | tcallIndirect (h : Header) (o : FmtC)
  /-- RET (R118): Closes the current frame, restores m0 and returns, or exits at DEPTH 0. -/
  | ret (h : Header) (o : FmtC)
  /-- FRAME (R122): Resizes the current frame in place. -/
  | frame (h : Header) (o : FmtC)
  /-- REGANG (R116): Stops the gang to wait at the REGANG point. -/
  | regang (h : Header) (o : FmtC)
  /-- REGANG_POINT (R116): When every live slice waits at a REGANG, joins them into one gang or raises REGANG. -/
  | regangPoint (core slot : Nat)
  /-- GATE (R124): Checks and enters a resident service in another domain through a gate frame, or refuses with status. -/
  | gate (h : Header) (o : FmtC)
  /-- GRET (R128): Closes the gate frame, copies results, quenches and returns to the caller's domain. -/
  | gret (h : Header) (o : FmtC)
  /-- YIELD (R129): With PREQ set, stops the gang to await the workgroup's save. -/
  | yield (h : Header) (o : FmtC)
  /-- EXIT (R130): Ends each slice, discarding its frames, and ends the warp with its last slice. -/
  | exit (h : Header) (o : FmtC)
  /-- TRAP (R131): Raises TRAPI to the supervisor handler with a code. -/
  | trap (h : Header) (o : FmtC)
  /-- BKPT (R131): Raises BKPT and halts the whole warp. -/
  | bkpt (h : Header) (o : FmtC)
  /-- WAITK (R132): Stalls the gang until a token counter falls to a level. -/
  | waitk (h : Header) (o : FmtC)
  /-- SUPRET (R134): Ends a supervisor handler and resumes the slices at RESUME. -/
  | supret (h : Header) (o : FmtC)
  /-- FADD (R141): Floating-point add, correctly rounded. -/
  | fadd (h : Header) (o : FmtA)
  /-- FSUB (R141): Floating-point subtract. -/
  | fsub (h : Header) (o : FmtA)
  /-- FMUL (R141): Floating-point multiply. -/
  | fmul (h : Header) (o : FmtA)
  /-- FFMA (R141): Fused multiply-add with one rounding. -/
  | ffma (h : Header) (o : FmtA)
  /-- FMIN (R143): Returns the smaller operand under the NaN rules. -/
  | fmin (h : Header) (o : FmtA)
  /-- FMAX (R143): Returns the larger operand under the NaN rules. -/
  | fmax (h : Header) (o : FmtA)
  /-- FABS (R144): Clears the sign bit. -/
  | fabs (h : Header) (o : FmtA)
  /-- FNEG (R144): Inverts the sign bit. -/
  | fneg (h : Header) (o : FmtA)
  /-- FSETP (R145): FP32 compare into a predicate. -/
  | fsetp (h : Header) (o : FmtA)
  /-- FCLASS (R146): Classifies an FP32 value into a class mask or a predicate. -/
  | fclass (h : Header) (o : FmtA)
  /-- FRCP (R148): Correctly rounded reciprocal. -/
  | frcp (h : Header) (o : FmtA)
  /-- FSQRT (R148): Correctly rounded square root. -/
  | fsqrt (h : Header) (o : FmtA)
  /-- FRSQ (R148): Faithfully rounded reciprocal square root. -/
  | frsq (h : Header) (o : FmtA)
  /-- FEXP2 (R148): Faithfully rounded power of two. -/
  | fexp2 (h : Header) (o : FmtA)
  /-- FLOG2 (R148): Faithfully rounded base-2 logarithm. -/
  | flog2 (h : Header) (o : FmtA)
  /-- FADDI (R141): Floating-point add of an immediate. -/
  | faddi (h : Header) (o : FmtB)
  /-- FMULI (R141): Floating-point multiply by an immediate. -/
  | fmuli (h : Header) (o : FmtB)
  /-- FDOT2 (R142): Two-term packed dot product plus FP32 addend, rounded once. -/
  | fdot2 (h : Header) (o : FmtA)
  /-- FRND (R147): Rounds to an integral value in the same format. -/
  | frnd (h : Header) (o : FmtA)
  /-- DADD (R149): FP64 add. -/
  | dadd (h : Header) (o : FmtA)
  /-- DSUB (R149): FP64 subtract. -/
  | dsub (h : Header) (o : FmtA)
  /-- DMUL (R149): FP64 multiply. -/
  | dmul (h : Header) (o : FmtA)
  /-- DFMA (R149): FP64 fused multiply-add. -/
  | dfma (h : Header) (o : FmtA)
  /-- DMIN (R149): FP64 minimum. -/
  | dmin (h : Header) (o : FmtA)
  /-- DMAX (R149): FP64 maximum. -/
  | dmax (h : Header) (o : FmtA)
  /-- DSETP (R149): FP64 compare into a predicate. -/
  | dsetp (h : Header) (o : FmtA)
  /-- DSQRT (R149): FP64 correctly rounded square root. -/
  | dsqrt (h : Header) (o : FmtA)
  /-- CVT (R150): Converts one value or packed half between formats. -/
  | cvt (h : Header) (o : FmtA)
  /-- PCVT (R151): Expands or packs 2, 4 or 8 BFP mantissas per lane. -/
  | pcvt (h : Header) (o : FmtA)
  /-- QBLK (R152): Requantizes a block spread across the warp into BFPn and its exponent. -/
  | qblk (h : Header) (o : FmtA)
  /-- XSHF (R153): Each lane reads a register of a source lane chosen by index, offset or XOR. -/
  | xshf (h : Header) (o : FmtA)
  /-- XBCAST (R154): Broadcasts one lane's register to every executing lane. -/
  | xbcast (h : Header) (o : FmtA)
  /-- XRED (R155): Reduces a value over a scope in a fixed tree. -/
  | xred (h : Header) (o : FmtA)
  /-- XSCAN (R155): Inclusive or exclusive prefix scan over a scope. -/
  | xscan (h : Header) (o : FmtA)
  /-- LD (R163): Loads through a buffer record from overlay, L1 copy or home view. -/
  | ld (h : Header) (o : FmtD)
  /-- LD_H (R164): Home-reading load that refreshes the unmarked bytes of any L1 copy. -/
  | ldH (h : Header) (o : FmtD)
  /-- ST (R165): Stores bytes into the core's overlay line and marks them. -/
  | st (h : Header) (o : FmtD)
  /-- LDS (R167): Loads from scratchpad or cluster scratchpad at the owning port. -/
  | lds (h : Header) (o : FmtD)
  /-- STS (R167): Stores to scratchpad or cluster scratchpad in place. -/
  | sts (h : Header) (o : FmtD)
  /-- LDL (R168): Copies bytes per lane from a record address into scratchpad. -/
  | ldl (h : Header) (o : FmtD)
  /-- ATOM (R172): Performs an atomic at the home of the line with optional release and acquire. -/
  | atom (h : Header) (o : FmtD)
  /-- ATOMS (R174): Performs an atomic at the scratchpad port. -/
  | atoms (h : Header) (o : FmtD)
  /-- ACQ (R176): Reads named tidemarks and replays, patches or invalidates L1 copies. -/
  | acq (h : Header) (o : FmtD)
  /-- REL (R177): Waits for the warp's stores and, at wider scopes, seals and publishes the log. -/
  | rel (h : Header) (o : FmtD)
  /-- FENCE (R178): Acts as REL followed by ACQ of the scope. -/
  | fence (h : Header) (o : FmtD)
  /-- SEAL (R179): Closes the open segment and writes it with its digest to the log area. -/
  | seal (h : Header) (o : FmtD)
  /-- XKICK (R213): Checks and posts a scratchpad request block to the copy engine. -/
  | xkick (h : Header) (o : FmtE)
  /-- LBINIT (R223): Initialises a landing barrier. -/
  | lbinit (h : Header) (o : FmtE)
  /-- LBARRIVE (R223): Applies a count to a landing barrier after ordering earlier scratchpad writes. -/
  | lbarrive (h : Header) (o : FmtE)
  /-- LBWAIT (R223): Holds the gang until the landing barrier's phase differs. -/
  | lbwait (h : Header) (o : FmtE)
  /-- LANDING_RELEASE (R223): A barrier phase flip lets a gang held at LBWAIT go. -/
  | landingRelease (core slot low : Nat)
  /-- RINGGET (R225): Takes the next filled ring slot, waiting while none is filled. -/
  | ringget (h : Header) (o : FmtE)
  /-- RINGGET_FREE (R225): Takes the next free ring slot, waiting while the ring is full. -/
  | ringgetFree (h : Header) (o : FmtE)
  /-- RING_SLOT_TAKEN (R225): A waiting ring operation proceeds once its index condition holds. -/
  | ringSlotTaken (core slot low : Nat)
  /-- RINGPUT (R225): Frees a consumed ring slot by advancing ZIDX. -/
  | ringput (h : Header) (o : FmtE)
  /-- RINGPUT_FILL (R338): Marks a ring slot filled after ordering earlier scratchpad writes. -/
  | ringputFill (h : Header) (o : FmtE)
  /-- BARR (R226): Arrives at a workgroup barrier and waits for the count. -/
  | barr (h : Header) (o : FmtE)
  /-- BARRIER_RELEASE (R226): When the barrier count is met, all waiters leave together and the rollback interval opens. -/
  | barrierRelease (core group k : Nat)
  /-- LAUNCH (R227): Publishes and submits a launch block to a region queue, returning a status. -/
  | launch (h : Header) (o : FmtE)
  /-- RDCTR (R355): Reads a core or pipe counter. -/
  | rdctr (h : Header) (o : FmtE)
  /-- RDTICK (R228): Reads the global tick. -/
  | rdtick (h : Header) (o : FmtE)
  /-- MFS (R229): Reads a system register. -/
  | mfs (h : Header) (o : FmtE)
  /-- MTS (R229): Writes a system register under the access checks. -/
  | mts (h : Header) (o : FmtE)
  /-- MSHAPE (R186): Decides a shape grant and copies it into MTEAM. -/
  | mshape (h : Header) (o : FmtG)
  /-- MTEAM (R187): Writes the team fields of MTEAM. -/
  | mteam (h : Header) (o : FmtG)
  /-- MTEAM_RD (R187): Reads MTEAM into an s-register. -/
  | mteamRd (h : Header) (o : FmtG)
  /-- MSTRIDE (R188): Writes a butterfly stride register. -/
  | mstride (h : Header) (o : FmtG)
  /-- MFENCE (R199): Holds the gang until earlier writes have landed for later stages to read. -/
  | mfence (h : Header) (o : FmtG)
  /-- BFLY (R194): Team butterfly stage: arrives at the rendezvous latch after its checks. -/
  | bfly (h : Header) (o : FmtG)
  /-- BCHAIN (R201): Team chain of up to 8 stages with internal carries. -/
  | bchain (h : Header) (o : FmtG)
  /-- LATCH_OPEN (R197): When all team members have arrived, compares them and has the engine accept the instruction, or raises COLLECTIVE. -/
  | latchOpen (core slot : Nat)
  /-- MSCALE (R205): Copies bytes from scratchpad into scale memory. -/
  | mscale (h : Header) (o : FmtG)
  /-- MSCALE_OUT (R205): Copies bytes from scale memory into scratchpad. -/
  | mscaleOut (h : Header) (o : FmtG)
  /-- MWAIT (R200): Holds the gang until a token is zero and closes the undefined window. -/
  | mwait (h : Header) (o : FmtG)
  /-- MLOAD (R206): Widens a scratchpad tile exactly into the accumulator. -/
  | mload (h : Header) (o : FmtG)
  /-- MSTORE (R207): Writes an accumulator tile to scratchpad, rounding or requantizing. -/
  | mstore (h : Header) (o : FmtG)
  /-- MZERO (R208): Writes +0 to whole accumulator regions. -/
  | mzero (h : Header) (o : FmtG)
  /-- STAGE_CHUNK (R203): The matrix engine works a chunk of a stage instruction and writes its resume cursor. -/
  | stageChunk (core pairs : Nat)
  /-- STAGE_COMPLETE (R58): A stage instruction completes, ORs its flags into FSTATUS, ends its pins and decrements its token. -/
  | stageComplete (core : Nat)
  /-- RESULT_COMPLETE (R74): A variable-latency result is written and its token decremented. -/
  | resultComplete (core slot id : Nat)
  /-- COPY_CHUNK_START (R271): The copy engine starts a chunk in a free slot, taking a ring berth where needed. -/
  | copyChunkStart (core req : Nat)
  /-- COPY_CHUNK_LAND (R220): A chunk's writes land, counting landing barriers and advancing ring FIDX. -/
  | copyChunkLand (core chunk : Nat)
  /-- SPILL_LANDED (R331): A spill write lands, releasing held refills. -/
  | spillLanded (core slot slice : Nat)
  /-- UNDERTOW_REFILL (R32): Refills spilled rows below the current frame after a RET. -/
  | undertowRefill (core slot slice : Nat)
  /-- PENDING_FAULT_DELIVERY (R308): A held frame or copy fault is delivered when a gang holding the slice is about to issue. -/
  | pendingFaultDelivery (core slot low : Nat)
  /-- ISSUE_CYCLE (R300): Each arithmetic-clock cycle a pipe issues the oldest active warp's ready gang and counts the slot. -/
  | issueCycle (core pipe : Nat)
  /-- PENDING_STARVATION (R301): A pending warp ready for 4,096 cycles is exchanged with the youngest active warp. -/
  | pendingStarvation (core pipe : Nat)
  /-- FETCH_LINE_FILL (R71): An instruction line arrives from home into the instruction cache. -/
  | fetchLineFill (core slot low : Nat)
  /-- FORCED_PUBLICATION (R180): The log unit seals and publishes on overlay or log-area pressure or by its own choice. -/
  | forcedPublication (core : Nat)
  /-- SEGMENT_WRITE_DONE (R180): A sealed segment waiting for log-area room is written once the ebb engine frees space. -/
  | segmentWriteDone (core : Nat)
  /-- FOLD_NOTICE (R266): A home slice queues an arriving notice, invalidates copies and acknowledges. -/
  | foldNotice (core home : Nat)
  /-- NOTICE_ACK (R262): When every home has acknowledged, the log unit writes the tidemark and merges the overlay lines. -/
  | noticeAck (core : Nat)
  /-- EBB_FOLD (R266): The ebb engine folds the head record into home memory and advances EBBMARK. -/
  | ebbFold (home : Nat)
  /-- HOME_ATOMIC (R267): A home slice performs an arriving atomic after Fold, or answers from the replay cache. -/
  | homeAtomic (core slot id lane : Nat)
  /-- SHOOTDOWN_ACK (R313): A translation unit acknowledges once its loads returned and its records of the page are published. -/
  | shootdownAck (core : Nat)
  /-- REPLAY_ENTRY_EXPIRY (R267): A remote-atomic replay cache entry expires after 50 µs. -/
  | replayEntryExpiry (index : Nat)
  /-- ATOMUNK_WINDOW_CLOSE (R173): The 50 µs window of a remote atomic closes with an unknown outcome. -/
  | atomunkWindowClose (core slot id lane : Nat)
  /-- ROUTED_RECORD_ACK (R177): A remote home acknowledges routed records. -/
  | routedRecordAck (core : Nat)
  /-- APP_CORE_WRITE (R266): An in-place write by an application core or PCIe agent is applied at the home after Fold and shoot-down. -/
  | appCoreWrite (pa : Nat) (bytes : List Byte)
  /-- PCIE_REQUEST (R378): An upstream PCIe request is translated and served, or rejected. -/
  | pcieRequest (requester va : Nat) (access : PcieAccess)
  /-- DISPATCH_TURN (R291): The distributor chooses an eligible queue by stride and places its next workgroup. -/
  | dispatchTurn (cls : Nat)
  /-- CLASS_HOLD (R293): A least-pass queue that has not fitted for 65,536 ticks holds its class. -/
  | classHold (vi region : Nat)
  /-- DEPENDENCE_MET (R294): A dependence condition evaluated at its home holds, making a launch dispatchable or a waiter start. -/
  | dependenceMet (launch linear dep : Nat)
  /-- WORKGROUP_END (R241): After the last warp ends, the core publishes and adds to the completion and progress counters. -/
  | workgroupEnd (core group : Nat)
  /-- PREEMPT_REQUEST (R324): The distributor sets PREQ and starts the deadline. -/
  | preemptRequest (core group : Nat)
  /-- YIELD_SAVE (R129): When every live slice stands at a YIELD, the workgroup is saved with KIND 0. -/
  | yieldSave (core group : Nat)
  /-- FORCED_SAVE (R325): On deadline expiry, the workgroup is stopped, drained, published and saved. -/
  | forcedSave (core group : Nat)
  /-- WATCHDOG (R322): A gang waiting 2^26 cycles raises WATCHDOG and the workgroup is saved with KIND 3. -/
  | watchdog (core slot low : Nat)
  /-- RESUME (R317): Debug command resuming a halted warp's gangs at their PCs. -/
  | debugResume (core : CoreVia) (slot : Nat)
  /-- STEP (R317): Debug command resuming the stopping gang for one instruction then halting it. -/
  | debugStep (core : CoreVia) (slot : Nat)
  /-- KILL (R317): Debug command ending the whole launch and discarding its workgroups. -/
  | debugKill (core : CoreVia) (slot : Nat)
  /-- DACC_READ (R377): Debug access that reads one register of a halted warp into DDATA. -/
  | daccRead (core : CoreVia) (slot slice lane reg : Nat)
  /-- DACC_WRITE (R377): Debug access that writes DDATA into one register of a halted warp. -/
  | daccWrite (core : CoreVia) (slot slice lane reg : Nat)
  /-- COUNTER_FREEZE (R376): Writing the freeze word holds or releases every counter of a core. -/
  | counterFreeze (core : CoreVia) (hold : Bool)
  /-- TRACE_PERIODIC_SYNC (R358): A SYNC is written 65,536 ticks after the last while a traced slot holds a warp. -/
  | tracePeriodicSync (core : Nat)
  /-- TRACE_LOSS (R359): Once 2,048 bytes are free after drops, the unit writes LOSS and SYNC and resumes. -/
  | traceLoss (core : Nat)
  /-- SCRUB_READ (R350): The scrubber reads the next line at its target rate and corrects or poisons it. -/
  | scrubRead (stack : Nat) (found : ScrubFinding)
  /-- WEAR_REFRESH (R352): Each island's wear report is refreshed every 60 s, raising event 8 on WARN. -/
  | wearRefresh (island : Nat) (word : W64)
  /-- STOPTICK (R353): When the tick reaches STOPTICK, every clock domain is gated. -/
  | stoptick
  /-- CLOCK_RESTART (R353): On command, gated clocks restart and the device continues. -/
  | clockRestart
  /-- SUBMIT (R288): A write of a launch block address is read, checked and queued, updating SUBSTAT and SUBSEQ. -/
  | submit (vi va : Nat)
  /-- FDRELEASE (R282): A write of a fault-domain number releases its dispatch hold. -/
  | fdrelease (vi : Nat) (value : W64)
  /-- OVF_CLEAR (R374): Writing 1 to OVF clears the event-ring overflow flag. -/
  | ovfClear (vi : Nat)
  /-- CONFIG_BLOCK_WRITE (R375): A write to an interface configuration block takes effect for later launches. -/
  | configBlockWrite (vi offset : Nat) (value : W64)
  /-- DOMAIN_WORD_WRITE (R379): Writing the domain word assigns the package number while all ports are down. -/
  | domainWordWrite (value : W64)
  /-- REGISTER_WRITE (R375): A write to a device register with no behaviour of its own stores the value. -/
  | registerWrite (target : RegTarget) (value : W64)
  /-- LINK_TRAINING (R379): Link ends exchange package numbers and keep a clashing link down. -/
  | linkTraining (port peer : Nat)
  /-- FLIT_RECEIVE (R379): A received flit is checked by CRC and retried on failure. -/
  | flitReceive (port : Nat) (seq : Flit) (crcOk : Bool)
  /-- PEER_LOST (R380): 200 µs without acknowledgement declares the peer lost and ends its traffic. -/
  | peerLost (peer : Nat)
  /-- POWER_WINDOW (R369): Draw above the limit over 1 ms lowers clocks in steps, and raises them when allowed. -/
  | powerWindow (draw : Nat)
  /-- THERMAL_STEP (R369): An island reaching 95 °C steps its own clock down. -/
  | thermalStep (island celsius : Nat)
  /-- THERMAL_SHUTDOWN (R369): At 110 °C the management controller removes power. -/
  | thermalShutdown (island celsius : Nat)
  /-- POWER_ON_BOOT (R382): Power-on boot loads and verifies images, falling back to alternates. -/
  | powerOnBoot (images : BootLoad)
  /-- IMAGE_LOAD (R382): The security controller verifies an image header and signatures before loading it. -/
  | imageLoad (image : AsidImage)
  /-- FUSE_COMMIT (R383): An authenticated commit blows fuses until the count equals the image's SVN. -/
  | fuseCommit (vi index : Nat) (upTo : Nat)
  /-- ATTESTATION_REPORT (R384): The trusted firmware builds and signs an attestation report for a nonce. -/
  | attestationReport (nonce : List Byte)
  /-- FILTER_REFUSAL (R381): A management-core access outside its admitted space is refused and counted. -/
  | filterRefusal (pa : Nat)
  /-- TRANSLATION_WALK_DONE (R312): A page-table walk in the home view finishes, ending warp disable or making a minor, major, frame or copy fault. -/
  | translationWalkDone (core slot : Nat)
  /-- FAULT_SERVED (R321): The application cores mark a major fault served, and the swapped-out workgroup re-enters the distributor. -/
  | faultServed (saved : Nat)
  /-- WATCHDOG_RELEASE (R322): The application cores release a workgroup saved by WATCHDOG, so that it may re-enter. -/
  | watchdogRelease (saved : Nat)
  /-- STANDBY (R369): The board's management controller removes power for standby, and all state is lost. -/
  | standby
  deriving DecidableEq, Repr

end Sys2Proof
end

