-- ==== Sys2Proof/Machine/Fields.lean ====
section
/-! DEFINITION. What each instruction's entry accepts in its fields (R72, R77, R81, R83, R86 step 5): the kinds of
its operands, its type, variant and code values, and the fields it does not use, which are zero. A failed check is
the ILLEGAL of step 5. -/

namespace Sys2Proof.Machine

/-! Operand kinds (R80, R81). -/

def Operand.isF : Operand → Bool | .f _ => true | _ => false
def Operand.isS : Operand → Bool | .s _ => true | _ => false
def Operand.isB : Operand → Bool | .b _ => true | _ => false
def Operand.isM : Operand → Bool | .m _ => true | _ => false
def Operand.isP : Operand → Bool | .p _ => true | _ => false
def Operand.isC : Operand → Bool | .c _ => true | _ => false

/-- The byte 0x00, which an unused specifier field holds (R77). -/
def Operand.isZero (o : Operand) : Bool := o = .f 0

/-- The register number of a specifier, within its kind. -/
def Operand.num : Operand → Nat
  | .f i => i.val | .s i => i.val | .b i => i.val | .m i => i.val | .p i => i.val | .c i => i.val

/-- A pair of frame registers begins at an even register (R16); other kinds hold 64 bits in one register. -/
def Operand.evenF : Operand → Bool | .f i => i.val % 2 = 0 | _ => true

/-- An even scalar register, which stands for the pair above it (R182). -/
def Operand.evenS : Operand → Bool | .s i => i.val % 2 = 0 | _ => false

def Operand.fsc (o : Operand) : Bool := Operand.isF o || Operand.isS o || Operand.isC o
def Operand.sc (o : Operand) : Bool := Operand.isS o || Operand.isC o
def Operand.msc (o : Operand) : Bool := Operand.isM o || Operand.sc o

/-! Type codes (R78, Table 3.10; R93, Table 4.1). -/

/-- The width a type code sets; the float suffixes act as 32 bits wide (R93), .f64 as 64. -/
def tyWidth (t : BitVec 4) : Nat :=
  match t.toNat with
  | 2 | 3 | 7 => 64
  | 8 | 9 => 16
  | 10 | 11 => 8
  | _ => 32

/-- The .s types are signed (Table 4.1). -/
def tySigned (t : BitVec 4) : Bool := t = 1 || t = 3 || t = 9 || t = 11

/-- The eight integer suffixes (Table 4.1). -/
def tyInt (t : BitVec 4) : Bool :=
  t = 0 || t = 1 || t = 2 || t = 3 || t = 8 || t = 9 || t = 10 || t = 11

/-- .f32, .bf16 and .f16 (Table 3.10). -/
def tyFloat (t : BitVec 4) : Bool := t = 4 || t = 5 || t = 6

/-- Whether a value of the type takes a pair of frame registers (R93). -/
def tyPair (t : BitVec 4) : Bool := tyWidth t = 64

/-! Format codes (R51, Table 2.3). -/

/-- FP32, BF16 or FP16. -/
def fcFloat (t : BitVec 4) : Bool := t = 0 || t = 1 || t = 2
/-- A BFPn code. -/
def fcBfp (t : BitVec 4) : Bool := 9 ≤ t.toNat
/-- INT8, INT16 or INT32. -/
def fcInt (t : BitVec 4) : Bool := t = 4 || t = 5 || t = 6
/-- The mantissa width n of a BFPn code. -/
def fcBits (t : BitVec 4) : Nat := t.toNat - 7

/-! The header and the cross-lane modifier. -/

/-- R72: SETTOK 7 is reserved, and a drain level needs a drain. -/
def Header.ok (h : Header) : Bool := h.settok ≠ 7 && (h.lvl = 0 || h.drain ≠ 0)

/-- KIND of the cross-lane modifier (Table 3.14). -/
def xmKind (x : BitVec 8) : Nat := x.toNat / 64

/-- R83: a nonzero KIND needs an f- or p-register as source one. -/
def xmOk (o : FmtA) : Bool := xmKind o.xmod = 0 || Operand.isF o.srcA || Operand.isP o.srcA

/-! Format A of the integer chapter. -/

/-- The fields that no instruction of the chapter uses unless its entry says so. -/
def noRmSatPdst (o : FmtA) : Bool := o.rm = 0 && !o.sat && o.pdst = 0

/-- One source of the width of the type: the per-lane form takes f, s and constants, the scalar form s and
constants (R92), and a 64-bit frame operand is an even pair (R93). -/
def srcOk (scalar : Bool) (t : BitVec 4) (o : Operand) : Bool :=
  (if scalar then Operand.sc o else Operand.fsc o) && (!tyPair t || Operand.evenF o)

/-- The destination of the two forms of R92. -/
def dstOk (t : BitVec 4) (o : Operand) : Bool :=
  Operand.isS o || (Operand.isF o && (!tyPair t || Operand.evenF o))

/-- The shape shared by Tables 4.2 and 4.3 in format A: `n` sources, `sat` and `pdst` where accepted. -/
def aluOk (n : Nat) (satOk pdstOk : Bool) (o : FmtA) : Bool :=
  let sc := Operand.isS o.dst
  dstOk o.type o.dst && o.rm = 0 && xmOk o
  && srcOk sc o.type o.srcA
  && (if 2 ≤ n then srcOk sc o.type o.srcB else Operand.isZero o.srcB)
  && (if 3 ≤ n then srcOk sc o.type o.srcC else Operand.isZero o.srcC)
  && (satOk || !o.sat)
  && (if pdstOk then !sc || o.pdst = 7 else o.pdst = 0)
  && (!sc || o.xmod = 0)

/-- An instruction of Table 4.2 or 4.3 without variants, on the integer types. -/
def aluInt (n : Nat) (satOk pdstOk : Bool) (o : FmtA) : Bool :=
  tyInt o.type && o.subop = 0 && aluOk n satOk pdstOk o

/-- ADD and SUB: SUBOP 1 is the carry-in form, per lane only, with a p-register in SRCC (R95, R96). -/
def addOk (o : FmtA) : Bool :=
  tyInt o.type &&
  (if o.subop = 1 then
      !Operand.isS o.dst && Operand.isP o.srcC && aluOk 2 true true { o with srcC := .f 0 }
    else o.subop = 0 && aluOk 2 true true o)

/-- The shape shared by Tables 4.2 and 4.3 in format B. -/
def aluBOk (nsrc : Nat) (pdstOk : Bool) (o : FmtB) : Bool :=
  let sc := Operand.isS o.dst
  tyInt o.type && dstOk o.type o.dst && o.rm = 0
  && (if nsrc = 1 then srcOk sc o.type o.srcA else Operand.isZero o.srcA)
  && (if pdstOk then !sc || o.pdst = 7 else o.pdst = 0)

/-- MOV (R100): a copy, or the move of one half of a buffer record. -/
def movOk (o : FmtA) : Bool :=
  if Operand.isB o.dst || Operand.isB o.srcA then
    ((Operand.isB o.dst && Operand.isS o.srcA) || (Operand.isS o.dst && Operand.isB o.srcA))
    && o.type = 2 && (o.subop = 0 || o.subop = 1) && noRmSatPdst o && o.xmod = 0
    && Operand.isZero o.srcB && Operand.isZero o.srcC
  else
    (tyInt o.type || tyFloat o.type) && o.subop = 0 && aluOk 1 false false o

/-- SETP and FSETP share the place of their operands: the `.and` form names a predicate in SRCC (R103, R145). -/
def setpSrcC (o : FmtA) : Bool :=
  if 8 ≤ o.subop.toNat then Operand.isP o.srcC else Operand.isZero o.srcC

def setpOk (o : FmtA) : Bool :=
  Operand.isP o.dst && tyInt o.type && o.subop.toNat % 8 < 6 && noRmSatPdst o && xmOk o
  && srcOk false o.type o.srcA && srcOk false o.type o.srcB && setpSrcC o

def selOk (o : FmtA) : Bool :=
  (tyInt o.type || tyFloat o.type) && Operand.isF o.dst && (!tyPair o.type || Operand.evenF o.dst)
  && srcOk false o.type o.srcA && srcOk false o.type o.srcB && Operand.isP o.srcC
  && o.subop = 0 && noRmSatPdst o && xmOk o

/-- MADW (R97): a and b of 32 bits, c and d of 64. -/
def madwOk (o : FmtA) : Bool :=
  let sc := Operand.isS o.dst
  (o.type = 0 || o.type = 1) && o.subop = 0 && noRmSatPdst o && xmOk o && (!sc || o.xmod = 0)
  && dstOk 2 o.dst && srcOk sc 0 o.srcA && srcOk sc 0 o.srcB
  && (if sc then Operand.isS o.srcC else Operand.isF o.srcC && Operand.evenF o.srcC)

/-- LEA (R104): the shift stands in SUBOP. -/
def leaOk (o : FmtA) : Bool :=
  let sc := Operand.isS o.dst
  (o.type = 0 || o.type = 1) && noRmSatPdst o && xmOk o && (!sc || o.xmod = 0)
  && dstOk 2 o.dst && (if sc then Operand.isS o.srcA else Operand.isF o.srcA && Operand.evenF o.srcA)
  && srcOk sc 0 o.srcB && Operand.isZero o.srcC

/-- SEXT and ZEXT (R105): `tys` are the accepted types; from 32 bits the destination is 64 bits wide. -/
def extOk (tys : List (BitVec 4)) (o : FmtA) : Bool :=
  let sc := Operand.isS o.dst
  tys.contains o.type && o.subop = 0 && noRmSatPdst o && xmOk o && (!sc || o.xmod = 0)
  && dstOk (if tyWidth o.type = 32 then 2 else 0) o.dst && srcOk sc 0 o.srcA
  && Operand.isZero o.srcB && Operand.isZero o.srcC

def rdlaneOk (o : FmtA) : Bool :=
  o.type = 0 && o.subop = 0 && noRmSatPdst o && o.xmod = 0
  && Operand.isS o.dst && Operand.isF o.srcA && Operand.sc o.srcB && Operand.isZero o.srcC

def wrlaneOk (o : FmtA) : Bool :=
  o.type = 0 && o.subop = 0 && noRmSatPdst o && o.xmod = 0
  && Operand.isF o.dst && Operand.isS o.srcA && Operand.sc o.srcB && Operand.isZero o.srcC

/-- How many sources an operation of Table 4.5 reads. -/
def plArity (op : BitVec 4) : Nat :=
  match op.toNat with
  | 5 => 1
  | 6 | 7 | 8 => 3
  | _ => 2

def plOk (kind : Operand → Bool) (o : FmtA) : Bool :=
  o.subop.toNat < 9 && o.type = 0 && noRmSatPdst o && kind o.srcA
  && (if 2 ≤ plArity o.subop then kind o.srcB else Operand.isZero o.srcB)
  && (if 3 ≤ plArity o.subop then kind o.srcC else Operand.isZero o.srcC)

/-- The one-source entries of Table 4.6. -/
def mask1Ok (o : FmtA) : Bool :=
  o.type = 0 && noRmSatPdst o && Operand.isZero o.srcB && Operand.isZero o.srcC

def pmovOk (o : FmtA) : Bool :=
  mask1Ok o && o.subop = 0 && xmOk o
  && ((Operand.isP o.dst && (Operand.isF o.srcA || Operand.isM o.srcA || Operand.isP o.srcA))
      || (Operand.isF o.dst && Operand.isP o.srcA))

def mmovOk (o : FmtA) : Bool :=
  mask1Ok o && o.subop = 0 && o.xmod = 0
  && ((Operand.isM o.dst && Operand.msc o.srcA) || (Operand.isS o.dst && Operand.isM o.srcA))

/-- The cross-lane modifier acts on the p source of BALLOT, ANY and ALL as on any other (R83; log entry 101). -/
def ballotOk (o : FmtA) : Bool :=
  mask1Ok o && o.subop = 0 && xmOk o && (Operand.isM o.dst || Operand.isS o.dst) && Operand.isP o.srcA

def anyAllOk (o : FmtA) : Bool :=
  mask1Ok o && o.subop.toNat < 3 && xmOk o && Operand.isP o.dst && Operand.isP o.srcA

def mqueryOk (o : FmtA) : Bool :=
  mask1Ok o && o.subop = 0 && o.xmod = 0 && (Operand.isS o.dst || Operand.isF o.dst) && Operand.msc o.srcA

/-! Format C (R111, Table 5.1). -/

def cZero (o : FmtC) : Bool :=
  o.mode = 0 && o.k = 0 && o.size = 0 && o.offset = 0 && Operand.isZero o.srcA && Operand.isZero o.srcB

def brOk (o : FmtC) : Bool :=
  o.subop = 0 && o.mode ≠ 3 && o.k = 0 && o.size = 0 && Operand.isZero o.srcB && Operand.isP o.srcA

def brxOk (o : FmtC) : Bool :=
  o.mode ≠ 3 && o.k = 0 && o.size = 0 && o.offset = 0 && Operand.isP o.srcB
  && ((o.subop = 0 && Operand.isS o.srcA) || (o.subop = 1 && Operand.isF o.srcA && Operand.evenF o.srcA))

/-- SIZE from 1 to 64 (Table 5.1). -/
def sizeOk (n : BitVec 7) : Bool := 1 ≤ n.toNat && n.toNat ≤ 64

/-- CALL (R117): k is at most SIZE, which is a check of step 5. -/
def callOk (o : FmtC) : Bool :=
  o.subop = 0 && o.mode = 0 && sizeOk o.size && o.k.toNat ≤ o.size.toNat
  && Operand.isZero o.srcA && Operand.isZero o.srcB

def calliOk (o : FmtC) : Bool :=
  o.subop = 0 && o.mode = 0 && sizeOk o.size && o.k.toNat ≤ o.size.toNat && o.offset = 0
  && Operand.isF o.srcB && Operand.evenF o.srcB && Operand.isM o.srcA && 1 ≤ Operand.num o.srcA

def tcallOk (o : FmtC) : Bool :=
  o.subop = 0 && o.mode = 0 && o.k = 0 && sizeOk o.size && Operand.isZero o.srcA && Operand.isZero o.srcB

def tcallIndOk (o : FmtC) : Bool :=
  o.subop = 1 && o.mode = 0 && o.k = 0 && sizeOk o.size && o.offset = 0
  && Operand.isS o.srcA && Operand.isZero o.srcB

def frameOk (o : FmtC) : Bool :=
  o.subop = 0 && o.mode = 0 && o.k = 0 && sizeOk o.size && o.offset = 0
  && Operand.isZero o.srcA && Operand.isZero o.srcB

def gateOk (o : FmtC) : Bool :=
  o.mode = 0 && o.k = 0 && o.size = 0 && Operand.isP o.srcA
  && ((o.subop = 0 && o.offset.toNat < 4096 && Operand.isZero o.srcB)
      || (o.subop = 1 && o.offset = 0 && Operand.isS o.srcB))

def codeOk (o : FmtC) : Bool :=
  o.subop = 0 && o.offset.toNat < 65536 && cZero { o with offset := 0 }

def waitkOk (o : FmtC) : Bool :=
  o.subop.toNat < 6 && o.offset.toNat < 64 && cZero { o with offset := 0 }

/-! Floating point, conversion and cross-lane (R136 to R155). -/

/-- The shape of Table 6.2 in format A: `n` sources, and whether a rounding mode is taken. -/
def fpOk (n : Nat) (rmOk : Bool) (tys : List (BitVec 4)) (o : FmtA) : Bool :=
  let sc := Operand.isS o.dst
  tys.contains o.type && o.subop = 0 && (rmOk || o.rm = 0) && !o.sat && o.pdst = 0 && xmOk o
  && (!sc || o.xmod = 0) && dstOk o.type o.dst && srcOk sc o.type o.srcA
  && (if 2 ≤ n then srcOk sc o.type o.srcB else Operand.isZero o.srcB)
  && (if 3 ≤ n then srcOk sc o.type o.srcC else Operand.isZero o.srcC)

/-- FSETP and DSETP (R145, Table 6.6). -/
def fsetpOk (t : BitVec 4) (o : FmtA) : Bool :=
  o.type = t && Operand.isP o.dst && noRmSatPdst o && xmOk o
  && srcOk false o.type o.srcA && srcOk false o.type o.srcB && setpSrcC o

/-- FCLASS (R146): the p form names its mask in SRCB. -/
def fclassOk (o : FmtA) : Bool :=
  o.type = 4 && o.subop = 0 && noRmSatPdst o && xmOk o && Operand.fsc o.srcA && Operand.isZero o.srcC
  && ((Operand.isF o.dst && Operand.isZero o.srcB) || (Operand.isP o.dst && Operand.sc o.srcB))

def fpBOk (o : FmtB) : Bool :=
  let sc := Operand.isS o.dst
  tyFloat o.type && o.subop = 0 && o.pdst = 0 && dstOk o.type o.dst && srcOk sc o.type o.srcA

/-- CVT (R150, Table 6.7); `hsel` is the PDST field. -/
def cvtOk (o : FmtA) : Bool :=
  let sc := Operand.isS o.dst
  let hs := o.pdst.toNat % 4
  let hd := 4 ≤ o.pdst.toNat
  let fmtOk := fun t : BitVec 4 => t.toNat ≤ 6
  let isFl := fun t : BitVec 4 => t.toNat ≤ 3
  let to64 := o.type = 3 || (o.type = 6 && hd)
  fmtOk o.type && fmtOk o.subop
  && (!o.sat || (fcInt o.type && fcInt o.subop))
  && xmOk o && (!sc || o.xmod = 0)
  && Operand.isZero o.srcB && Operand.isZero o.srcC
  && (match o.subop.toNat with
      | 0 | 3 | 6 => hs = 0
      | 4 => true
      | _ => hs < 2)
  && (match o.type.toNat with
      | 1 | 2 => true
      | 6 => !hd || isFl o.subop
      | _ => !hd)
  && dstOk (if to64 then 2 else 0) o.dst
  && srcOk sc (if o.subop = 3 then 2 else 0) o.srcA

/-- PCVT (R151): COUNT is the PDST field. -/
def pcvtCount (o : FmtA) : Nat := 2 ^ (o.pdst.toNat + 1)

def pcvtOk (o : FmtA) : Bool :=
  let expand := fcBfp o.subop && fcFloat o.type
  let pack := fcBfp o.type && fcFloat o.subop
  o.pdst.toNat < 3 && !o.sat && o.xmod = 0 && Operand.isZero o.srcC && Operand.fsc o.srcB
  && Operand.isF o.dst
  && ((expand && pcvtCount o * fcBits o.subop ≤ 32 && (Operand.isF o.srcA || Operand.isS o.srcA))
      || (pack && pcvtCount o * fcBits o.type ≤ 32 && Operand.isF o.srcA))

/-- QBLK (R152): LCODE is the PDST field. -/
def qblkOk (o : FmtA) : Bool :=
  o.pdst.toNat < 3 && !o.sat && o.rm = 0 && o.xmod = 0 && fcBfp o.type && fcFloat o.subop
  && Operand.isF o.dst && Operand.isF o.srcA && Operand.isS o.srcB && Operand.isZero o.srcC

def xshfOk (o : FmtA) : Bool :=
  (o.type = 0 || o.type = 2) && noRmSatPdst o && o.xmod = 0
  && Operand.isF o.dst && Operand.isF o.srcA && (o.type = 0 || (Operand.evenF o.dst && Operand.evenF o.srcA))
  && Operand.fsc o.srcB && Operand.isZero o.srcC

def xbcastOk (o : FmtA) : Bool :=
  (o.type = 0 || o.type = 2) && o.subop.toNat < 2 && noRmSatPdst o && o.xmod = 0
  && Operand.isF o.dst && Operand.isF o.srcA && (o.type = 0 || (Operand.evenF o.dst && Operand.evenF o.srcA))
  && Operand.sc o.srcB && Operand.isZero o.srcC

/-- The types of an operation of Table 6.8. -/
def redTypes (op : Nat) : List (BitVec 4) := if op < 3 then [4, 1, 0] else [0]

/-- XRED and XSCAN (R155): XSCOPE is the PDST field. -/
def xredOk (scan : Bool) (o : FmtA) : Bool :=
  let op := o.subop.toNat % 8
  op < 6 && (redTypes op).contains o.type && (scan || o.subop.toNat < 8) && o.pdst.toNat < 3
  && !o.sat && o.xmod = 0 && Operand.fsc o.srcA
  && Operand.isZero o.srcB && Operand.isZero o.srcC
  && (Operand.isF o.dst || (!scan && Operand.isS o.dst && o.pdst ≠ 1))

/-! Format D (R156, Table 7.1). -/

/-- Registers a size of Table 7.2 takes, and the alignment of the first. -/
def sizeRegs (sz : BitVec 3) : Nat := 2 ^ (sz.toNat - 2)

/-- R158: an f group begins at a multiple of its length; scalar forms take at most 8 bytes, and so do constants. -/
def groupOk (sz : BitVec 3) : Operand → Bool
  | .f i => i.val % sizeRegs sz = 0
  | _ => sz.toNat ≤ 3

/-- R157: the scalar form takes no f operand. -/
def noF (scalar : Bool) (o : Operand) : Bool := !scalar || !Operand.isF o

def ldOk (home : Bool) (o : FmtD) : Bool :=
  let sc := Operand.isS o.dst
  o.hbit = home && o.order = 0 && o.scope = 0 && o.size ≠ 7 && (Operand.isF o.dst || sc)
  && Operand.isB o.buf && Operand.fsc o.index && noF sc o.index && Operand.isZero o.data
  && (o.subop = 0 || (o.subop = 1 && o.size.toNat ≤ 2)) && groupOk o.size o.dst

def stOk (o : FmtD) : Bool :=
  !o.hbit && o.order = 0 && o.scope = 0 && o.size ≠ 7 && Operand.isZero o.dst && Operand.isB o.buf
  && Operand.fsc o.index && Operand.fsc o.data && o.subop = 0 && groupOk o.size o.data

def ldsOk (o : FmtD) : Bool :=
  let sc := Operand.isS o.dst
  !o.hbit && o.order = 0 && o.scope = 0 && o.size ≠ 7 && (Operand.isF o.dst || sc)
  && Operand.fsc o.buf && noF sc o.buf && Operand.isZero o.index && Operand.isZero o.data
  && o.subop.toNat < 4 && groupOk o.size o.dst

def stsOk (o : FmtD) : Bool :=
  !o.hbit && o.order = 0 && o.scope = 0 && o.size ≠ 7 && Operand.isZero o.dst && Operand.fsc o.buf
  && Operand.isZero o.index && Operand.fsc o.data && (o.subop = 0 || o.subop = 2) && groupOk o.size o.data

def ldlOk (o : FmtD) : Bool :=
  !o.hbit && o.order = 0 && o.scope = 0 && o.size ≠ 7 && 2 ≤ o.size.toNat && Operand.isZero o.dst
  && Operand.isB o.buf && Operand.fsc o.index && Operand.fsc o.data && (o.subop = 0 || o.subop = 2)

/-- The destination and data of an atomic (R170): `.st` has no destination, `.ld` no data. -/
def atomRegs (o : FmtD) : Bool :=
  let sc := Operand.isS o.dst
  (o.size = 2 || o.size = 3)
  && (o.size = 2 || !(o.subop = 12 || o.subop = 13 || o.subop = 14))
  && (if o.subop = 1 then Operand.isZero o.dst else (Operand.isF o.dst || sc) && groupOk o.size o.dst)
  && (if o.subop = 0 then Operand.isZero o.data
      else Operand.fsc o.data && groupOk o.size o.data && noF (sc && o.subop ≠ 1) o.data)

/-- LSET values of Table 7.4. -/
def lsetOk (l : Nat) : Bool := l = 0 || l = 1 || (0x40 ≤ l && l ≤ 0x5E && l % 2 = 0)

def lsetOf (off : BitVec 16) : Nat := off.toNat / 256

def atomOk (o : FmtD) : Bool :=
  let acq := o.order = 1 || o.order = 3
  !o.hbit && 1 ≤ o.scope.toNat && o.scope.toNat ≤ 5 && atomRegs o && Operand.isB o.buf
  && Operand.fsc o.index && noF (Operand.isS o.dst) o.index && lsetOk (lsetOf o.offset)
  && (lsetOf o.offset = 0 || (acq && 2 ≤ o.scope.toNat))

def atomsOk (o : FmtD) : Bool :=
  o.order = 0 && o.scope = 0 && atomRegs o && Operand.fsc o.buf && noF (Operand.isS o.dst) o.buf
  && Operand.isZero o.index

def dZero (o : FmtD) : Bool :=
  !o.hbit && o.order = 0 && o.size = 0 && o.subop = 0
  && Operand.isZero o.dst && Operand.isZero o.buf && Operand.isZero o.index && Operand.isZero o.data

/-- ACQ and FENCE (R175, R176, R178): warp and core scope take LSET 0x00. -/
def acqOk (o : FmtD) : Bool :=
  dZero o && o.scope.toNat ≤ 5 && o.offset.toNat % 256 = 0 && lsetOk (lsetOf o.offset)
  && (2 ≤ o.scope.toNat || lsetOf o.offset = 0)

def relOk (o : FmtD) : Bool := dZero o && o.scope.toNat ≤ 5 && o.offset = 0
def sealOk (o : FmtD) : Bool := dZero o && o.scope = 0 && o.offset = 0

/-! Format E (R211, Table 9.1). -/

def eOk (sub imm : Bool) (c b a d : Operand → Bool) (o : FmtE) : Bool :=
  o.scope = 0 && sub && imm && c o.srcC && b o.srcB && a o.srcA && d o.dst

/-- RDCTR (R355, Table 19.5): a listed number, with PIPE and ALL as it allows. -/
def ctrOk (imm : BitVec 16) : Bool :=
  let n := imm.toNat % 256
  let pipe := imm.toNat / 256 % 4
  let all := imm.toNat / 1024 % 2
  imm.toNat < 2048 && (all = 0 || pipe = 0)
  && (n ≤ 0x07 || (0x10 ≤ n && n ≤ 0x15) || (0x20 ≤ n && n ≤ 0x2F)
      || (0x40 ≤ n && n ≤ 0x50 && pipe = 0 && all = 0))

/-- The system registers of Table 1.3. -/
def sysListed (n : Nat) : Bool := n ≤ 0x0B || (0x10 ≤ n && n ≤ 0x19)

/-- The width of a system register (Table 1.3). -/
def sysWidth (n : Nat) : Nat :=
  match n with
  | 0x00 => 9 | 0x01 => 7 | 0x02 => 16 | 0x03 => 57 | 0x04 => 57 | 0x05 => 8 | 0x06 => 5 | 0x07 => 5
  | 0x0B => 9 | 0x10 => 16 | 0x11 => 12 | 0x12 => 1 | 0x17 => 64 | 0x18 => 57 | 0x19 => 57
  | _ => 32

/-- The writable registers: SPILLTOP, BSLIMIT, FSTATUS, HANDLER and RESUME (Table 1.3). -/
def sysWritable (n : Nat) : Bool := n = 0x03 || n = 0x04 || n = 0x13 || n = 0x18 || n = 0x19

/-- MFS (R229): LANE has no scalar form, and an f destination takes registers of at most 32 bits. -/
def mfsOk (o : FmtE) : Bool :=
  let n := o.imm.toNat
  eOk (o.subop = 0) (sysListed n) Operand.isZero Operand.isZero Operand.isZero
    (fun d => (Operand.isS d && n ≠ 0x06) || (Operand.isF d && sysWidth n ≤ 32)) o

def mtsOk (o : FmtE) : Bool :=
  let n := o.imm.toNat
  eOk (o.subop = 0) (sysListed n && sysWritable n) Operand.isZero Operand.isZero Operand.sc Operand.isZero o

/-! Format G (R182, Table 8.1). -/

def gZero (o : FmtG) : Bool :=
  !o.sparse && !o.split

def gFields (sub : Bool) (count : Bool) (stride acc : Bool) (f x w a : Operand → Bool) (o : FmtG) : Bool :=
  sub && count && stride && acc && f o.fmt && x o.opx && w o.opw && a o.aux

/-- A stage operand: a frame register or an even scalar pair (R189, R190). -/
def Operand.stage (o : Operand) : Bool := Operand.isF o || Operand.evenS o

/-- AUX of a stage: an s-register, or the byte 0x00 (R191). -/
def Operand.auxOk (o : Operand) : Bool := Operand.isS o || Operand.isZero o

/-- BFLY (R182): the split form has STRIDE 0; the rest of the split and sparse rules is a check of R196. -/
def bflyOk (o : FmtG) : Bool :=
  gFields (o.subop = 0) true (!o.split || o.stride = 0) true Operand.isS Operand.stage Operand.stage Operand.auxOk o

/-- BCHAIN (R201): a length from 1 to 8 whose strides exist. -/
def bchainOk (o : FmtG) : Bool :=
  gZero o && gFields (o.subop = 0) (1 ≤ o.count.toNat && o.count.toNat ≤ 8) (o.stride.toNat + o.count.toNat ≤ 8) true
    Operand.isS Operand.stage Operand.stage Operand.auxOk o

/-- The formats of MLOAD (R206). -/
def mloadFmt (t : BitVec 4) : Bool := t.toNat ≤ 3
/-- The formats of MSTORE (R207). -/
def mstoreFmt (t : BitVec 4) : Bool := t.toNat ≤ 3 || fcBfp t

def mstoreOk (o : FmtG) : Bool :=
  gZero o && mstoreFmt o.subop
  && (if fcBfp o.subop then o.count.toNat < 3 && Operand.sc o.fmt else o.count = 0 && Operand.isZero o.fmt)
  && o.stride = 0 && Operand.evenS o.opx && Operand.isZero o.opw && Operand.isS o.aux

/-- R86 step 5 of one instruction: its header and its fields. An event has no encoding and no fields to check. -/
def fieldsOk : Instr → Bool
  | .nop h o => Header.ok h && noRmSatPdst o && o.type = 0 && o.subop = 0 && o.xmod = 0 && Operand.isZero o.srcC
      && Operand.isZero o.srcB && Operand.isZero o.srcA && Operand.isZero o.dst
  | .mov h o => Header.ok h && movOk o
  | .movi h o => Header.ok h && o.subop = 0 && aluBOk 0 false o
  | .movih h o => Header.ok h && o.subop = 0 && o.type = 2 && aluBOk 0 false o
  | .add h o | .sub h o => Header.ok h && addOk o
  | .addi h o | .muli h o => Header.ok h && o.subop = 0 && aluBOk 1 true o
  | .neg h o => Header.ok h && aluInt 1 true true o
  | .mul h o => Header.ok h && aluInt 2 true true o
  | .mulhi h o => Header.ok h && aluInt 2 false false o
  | .mad h o => Header.ok h && aluInt 3 true true o
  | .madw h o => Header.ok h && madwOk o
  | .minI h o | .maxI h o => Header.ok h && aluInt 2 false false o
  | .absI h o => Header.ok h && tySigned o.type && aluInt 1 true true o
  | .clamp h o => Header.ok h && aluInt 3 false false o
  | .andB h o | .orB h o | .xorB h o | .andn h o | .shl h o | .shr h o | .rol h o | .ror h o | .bfe h o =>
      Header.ok h && aluInt 2 false false o
  | .andi h o | .ori h o | .xori h o => Header.ok h && o.subop = 0 && aluBOk 1 false o
  | .notB h o | .popc h o | .clz h o | .brev h o => Header.ok h && aluInt 1 false false o
  | .shi h o => Header.ok h && (o.subop = 0 || o.subop = 1) && o.imm.toNat < tyWidth o.type && aluBOk 1 false o
  | .bfi h o => Header.ok h && aluInt 3 false false o
  | .sel h o => Header.ok h && selOk o
  | .setp h o => Header.ok h && setpOk o
  | .setpi h o => Header.ok h && Operand.isP o.dst && tyInt o.type && o.subop.toNat < 6 && o.rm = 0 && o.pdst = 0
      && srcOk false o.type o.srcA
  | .lea h o => Header.ok h && leaOk o
  | .rdlane h o => Header.ok h && rdlaneOk o
  | .wrlane h o => Header.ok h && wrlaneOk o
  | .sext h o => Header.ok h && extOk [1, 9, 11] o
  | .zext h o => Header.ok h && extOk [0, 8, 10] o
  | .plop h o => Header.ok h && Operand.isP o.dst && xmOk o && plOk Operand.isP o
  | .mlop h o => Header.ok h && (Operand.isM o.dst || Operand.isS o.dst) && o.xmod = 0 && plOk Operand.msc o
  | .pmov h o => Header.ok h && pmovOk o
  | .mmov h o => Header.ok h && mmovOk o
  | .ballot h o => Header.ok h && ballotOk o
  | .anyP h o | .allP h o => Header.ok h && anyAllOk o
  | .mfirst h o | .mcount h o | .mtop h o => Header.ok h && mqueryOk o
  | .mseti h o => Header.ok h && Operand.isM o.dst && o.type = 0 && o.rm = 0 && o.pdst = 0 && o.subop.toNat < 3
      && Operand.isZero o.srcA
  | .pseti h o => Header.ok h && Operand.isP o.dst && o.type = 0 && o.rm = 0 && o.pdst = 0 && o.subop = 0
      && Operand.isZero o.srcA
  | .br h o => Header.ok h && brOk o
  | .brx h o => Header.ok h && brxOk o
  | .call h o => Header.ok h && callOk o
  | .calli h o => Header.ok h && calliOk o
  | .tcall h o => Header.ok h && tcallOk o
  | .tcallIndirect h o => Header.ok h && tcallIndOk o
  | .frame h o => Header.ok h && frameOk o
  | .ret h o | .regang h o | .gret h o | .yield h o | .exit h o | .supret h o => Header.ok h && o.subop = 0 && cZero o
  | .gate h o => Header.ok h && gateOk o
  | .trap h o | .bkpt h o => Header.ok h && codeOk o
  | .waitk h o => Header.ok h && waitkOk o
  | .fadd h o | .fsub h o | .fmul h o => Header.ok h && fpOk 2 true [4, 5, 6] o
  | .ffma h o => Header.ok h && fpOk 3 true [4, 5, 6] o
  | .fmin h o | .fmax h o => Header.ok h && fpOk 2 false [4, 5, 6] o
  | .fabs h o | .fneg h o => Header.ok h && fpOk 1 false [4, 5, 6] o
  | .fsetp h o => Header.ok h && fsetpOk 4 o
  | .fclass h o => Header.ok h && fclassOk o
  | .frcp h o | .fsqrt h o => Header.ok h && fpOk 1 true [4] o
  | .frsq h o | .fexp2 h o | .flog2 h o => Header.ok h && fpOk 1 false [4] o
  | .faddi h o | .fmuli h o => Header.ok h && fpBOk o
  | .fdot2 h o => Header.ok h && fpOk 3 true [5, 6] o
  | .frnd h o => Header.ok h && fpOk 1 true [4, 5, 6] o
  | .dadd h o | .dsub h o | .dmul h o => Header.ok h && fpOk 2 true [7] o
  | .dfma h o => Header.ok h && fpOk 3 true [7] o
  | .dmin h o | .dmax h o => Header.ok h && fpOk 2 false [7] o
  | .dsetp h o => Header.ok h && fsetpOk 7 o
  | .dsqrt h o => Header.ok h && fpOk 1 true [7] o
  | .cvt h o => Header.ok h && cvtOk o
  | .pcvt h o => Header.ok h && o.subop ≠ 7 && o.subop ≠ 8 && pcvtOk o
  | .qblk h o => Header.ok h && qblkOk o
  | .xshf h o => Header.ok h && xshfOk o
  | .xbcast h o => Header.ok h && xbcastOk o
  | .xred h o => Header.ok h && xredOk false o
  | .xscan h o => Header.ok h && xredOk true o
  | .ld h o => Header.ok h && ldOk false o
  | .ldH h o => Header.ok h && ldOk true o
  | .st h o => Header.ok h && stOk o
  | .lds h o => Header.ok h && ldsOk o
  | .sts h o => Header.ok h && stsOk o
  | .ldl h o => Header.ok h && ldlOk o
  | .atom h o => Header.ok h && atomOk o
  | .atoms h o => Header.ok h && atomsOk o
  | .acq h o | .fence h o => Header.ok h && acqOk o
  | .rel h o => Header.ok h && relOk o
  | .seal h o => Header.ok h && sealOk o
  | .xkick h o => Header.ok h && eOk (o.subop = 0) (o.imm = 0) Operand.isZero Operand.isZero Operand.sc Operand.isZero o
  | .lbinit h o => Header.ok h && eOk (o.subop.toNat < 2) (o.imm.toNat < 2) Operand.isZero Operand.sc Operand.sc Operand.isZero o
  | .lbarrive h o => Header.ok h && eOk (o.subop = 0) (o.imm = 0) Operand.isZero Operand.sc Operand.sc Operand.isZero o
  | .lbwait h o => Header.ok h && eOk (o.subop = 0) (o.imm.toNat < 2) Operand.isZero Operand.isZero Operand.sc Operand.isZero o
  | .ringget h o => Header.ok h && eOk (o.subop = 0) (o.imm = 0) Operand.isZero Operand.isZero Operand.sc Operand.isS o
  | .ringgetFree h o => Header.ok h && eOk (o.subop = 1) (o.imm = 0) Operand.isZero Operand.isZero Operand.sc Operand.isS o
  | .ringput h o => Header.ok h && eOk (o.subop = 0) (o.imm = 0) Operand.isZero Operand.isZero Operand.sc Operand.isZero o
  | .ringputFill h o => Header.ok h && eOk (o.subop = 1) (o.imm = 0) Operand.isZero Operand.isZero Operand.sc Operand.isZero o
  | .barr h o => Header.ok h && eOk (o.subop = 0) (o.imm.toNat < 16) Operand.isZero Operand.isZero Operand.sc Operand.isZero o
  | .launch h o => Header.ok h && eOk (o.subop = 0) (o.imm = 0) Operand.isZero Operand.isZero Operand.isS Operand.isS o
  | .rdctr h o => Header.ok h && eOk (o.subop = 0) (ctrOk o.imm) Operand.isZero Operand.isZero Operand.isZero Operand.isS o
  | .rdtick h o => Header.ok h && eOk (o.subop = 0) (o.imm = 0) Operand.isZero Operand.isZero Operand.isZero Operand.isS o
  | .mfs h o => Header.ok h && mfsOk o
  | .mts h o => Header.ok h && mtsOk o
  | .mshape h o => Header.ok h && gZero o && gFields (o.subop = 0) (o.count = 0) (o.stride = 0) (o.acc = 0)
      Operand.isZero Operand.isS Operand.isS Operand.isZero o
  | .mteam h o => Header.ok h && gZero o && gFields (o.subop = 0) (o.count = 0) (o.stride = 0) (o.acc = 0)
      Operand.isZero Operand.isS Operand.isZero Operand.isZero o
  | .mteamRd h o => Header.ok h && gZero o && gFields (o.subop = 1) (o.count = 0) (o.stride = 0) (o.acc = 0)
      Operand.isZero Operand.isZero Operand.isS Operand.isZero o
  | .mstride h o => Header.ok h && gZero o && gFields (o.subop = 0) (o.count = 0) true (o.acc = 0)
      Operand.isZero Operand.sc Operand.isZero Operand.isZero o
  | .mfence h o => Header.ok h && gZero o && gFields (o.subop = 0) (o.count = 0) (o.stride = 0) (o.acc = 0)
      Operand.isZero Operand.isZero Operand.isZero Operand.isZero o
  | .bfly h o => Header.ok h && bflyOk o
  | .bchain h o => Header.ok h && bchainOk o
  | .mscale h o => Header.ok h && gZero o && gFields (o.subop = 0) (o.count = 0) (o.stride = 0) (o.acc = 0)
      Operand.isZero Operand.sc Operand.sc Operand.sc o
  | .mscaleOut h o => Header.ok h && gZero o && gFields (o.subop = 1) (o.count = 0) (o.stride = 0) (o.acc = 0)
      Operand.isZero Operand.sc Operand.sc Operand.sc o
  | .mwait h o => Header.ok h && gZero o && gFields (o.subop.toNat < 6) (o.count = 0) (o.stride = 0) (o.acc = 0)
      Operand.isZero Operand.isZero Operand.isZero Operand.isZero o
  | .mload h o => Header.ok h && gZero o && gFields (mloadFmt o.subop) (o.count = 0) (o.stride = 0) true
      Operand.isZero Operand.evenS Operand.isZero Operand.isS o
  | .mstore h o => Header.ok h && mstoreOk o
  | .mzero h o => Header.ok h && gZero o && gFields (o.subop = 0) (1 ≤ o.count.toNat && o.count.toNat ≤ 32) (o.stride = 0) true
      Operand.isZero Operand.isZero Operand.isZero Operand.isZero o
  | _ => true

end Sys2Proof.Machine
end

