-- ==== Sys2Proof/Config.lean ====
section
/-! DEFINITION. What the spec leaves to the implementation or leaves without a value, as constants with no body: a
statement that mentions one holds whatever it is. -/

namespace Sys2Proof

/-- The free values of the machine: the value at place `key` of the draw numbered `seed` (log entry 3). -/
opaque Config.free : Nat → Nat → BitVec 64

/-- Which of the two neighbouring FP32 values a faithful FRSQ, FEXP2 or FLOG2 (0, 1, 2) delivers for an operand
(R148: the choice is fixed for a device and unstated; log entry 4): true for the neighbour of larger magnitude. -/
opaque Config.faithfulUp : Nat → BitVec 32 → Bool

/-- The root port that reaches a 4 KiB frame of external memory: false for that of I/O die 0, true for I/O die 1's (R265,
R370: the address map names no port; log entry 92). -/
opaque Config.rootPort : Nat → Bool

/-- Whether a line coded under scheme 2 or 3 fits its stored form (Table 13.6: the packing of the coded planes is not given;
log entry 93). -/
opaque Config.codecFits : Nat → BitVec 512 → Bool

/-- The management firmware's own region of memory: first address and bytes (R381: the spec gives neither; log entry 116). -/
opaque Config.firmwareRegion : Nat × Nat

/-- SHA-384 (R382), as a function of the bytes (log entry 5). -/
opaque Config.sha384 : List Byte → List Byte

/-- RSASSA-PSS verification with SHA-384 of a message under a modulus and an exponent (R382; log entry 5). -/
opaque Config.rsaVerify : List Byte → BitVec 32 → List Byte → List Byte → Bool

/-- SLH-DSA-SHA2-192s verification of a message under a key (R382; log entry 5). -/
opaque Config.slhVerify : List Byte → List Byte → List Byte → Bool

/-- Signatures of the package over a report, under RSA and under SLH-DSA (R384; log entry 5). -/
opaque Config.rsaSign : List Byte → List Byte
opaque Config.slhSign : List Byte → List Byte

/-- The fused root hashes (R382) and the package serial number (R384; log entry 5). -/
opaque Config.rsaRoot : List Byte
opaque Config.slhRoot : List Byte
opaque Config.serial : List Byte

end Sys2Proof
end

