-- ==== Sys2Proof/Machine/Tab.lean ====
section
/-! DEFINITION. Sparse tables: a list of key and value pairs with keys strictly rising. `put` writes an entry; `set`
writes a value and lists nothing where the value is the default, so that equal tables are equal data. -/

namespace Sys2Proof.Machine

/-- A sparse table from numbers to `α`. -/
abbrev Tab (α : Type) := List (Nat × α)

/-- The entry of key `k`, if listed. -/
def Tab.find {α : Type} (k : Nat) : Tab α → Option α
  | [] => none
  | (a, v) :: t => if a = k then some v else Tab.find k t

/-- The value at key `k`, `d` where no entry is listed. -/
def Tab.get {α : Type} (d : α) (t : Tab α) (k : Nat) : α := (Tab.find k t).getD d

/-- Writes the entry of key `k`, keeping keys in rising order. -/
def Tab.put {α : Type} (t : Tab α) (k : Nat) (v : α) : Tab α :=
  match t with
  | [] => [(k, v)]
  | (a, w) :: r => if k < a then (k, v) :: (a, w) :: r else if a = k then (k, v) :: r else (a, w) :: Tab.put r k v

/-- Removes the entry of key `k`. -/
def Tab.del {α : Type} (t : Tab α) (k : Nat) : Tab α :=
  match t with
  | [] => []
  | (a, w) :: r => if a = k then Tab.del r k else (a, w) :: Tab.del r k

/-- Writes `v` at `k`, listing nothing where `v` is the default `d`. -/
def Tab.set {α : Type} [DecidableEq α] (d : α) (t : Tab α) (k : Nat) (v : α) : Tab α :=
  if v = d then Tab.del t k else Tab.put t k v

/-- Applies `f` to the value at `k` and writes the result. -/
def Tab.modify {α : Type} (d : α) (t : Tab α) (k : Nat) (f : α → α) : Tab α := Tab.put t k (f (Tab.get d t k))

/-- The keys of a table. -/
def Tab.keys {α : Type} (t : Tab α) : List Nat := t.map (·.1)

/-- Keys strictly rising. -/
def Tab.sorted {α : Type} : Tab α → Bool
  | [] => true
  | [_] => true
  | (a, _) :: (b, w) :: r => decide (a < b) && Tab.sorted ((b, w) :: r)

/-- The canonical form: keys strictly rising and no entry equal to the default. -/
def Tab.wf {α : Type} [DecidableEq α] (d : α) (t : Tab α) : Bool := Tab.sorted t && t.all (fun e => decide (e.2 ≠ d))

/-- The least number from `i` upward that is no key of the table, looking at most `n` further. -/
def Tab.fresh {α : Type} (t : Tab α) : Nat → Nat → Nat
  | i, 0 => i
  | i, n + 1 => if (Tab.find i t).isNone then i else Tab.fresh t (i + 1) n

end Sys2Proof.Machine
end

