-- ==== Sys2Proof/Machine/State.lean ====
section
/-! DEFINITION. The state of the package: slices, warps, workgroups, cores and the units that act on their own, as
plain data (Table 1.10 and the chapters it names); the ways a step can stop; the state after reset. -/

namespace Sys2Proof.Machine

/-- A way the machine stops. -/
inductive Fault where
  /-- Raised by an instruction executed while no gang stands at it: no warp and gang is named by `cur`. A step never
  executes an instruction so; safe, since the hardware never does (log entry 1). -/
  | noGang
  deriving DecidableEq, Repr

/-- A meaning that is not given. -/
inductive Refusal where
  /-- Raised by an arm of `exec` whose instruction has no meaning yet; safe. -/
  | notModelled (mnemonic : String)
  deriving DecidableEq, Repr

/-! Traps -/

/-- The delivery classes of R309; UNCORR rolls back where it can (R345). -/
inductive TrapClass where
  | s | h | w | q | uncorr
  deriving DecidableEq, Repr

/-- A cause on its way to delivery (Table 16.1, Table 9.8). -/
structure Trap where
  cause : Nat
  cls : TrapClass
  sub : Nat
  mask : Mask32
  /-- Faulting address of each lane that has one. -/
  addrs : Tab VA
  /-- TRAP or BKPT code, MISALIGN size, WATCH entry. -/
  code : Nat
  /-- RESUME is the slot after the stopping instruction (TRAP, R131). -/
  resumeNext : Bool
  /-- The failing slot is slot j+1 of a pair, which stops at slot j (R70). -/
  second : Bool := false
  deriving DecidableEq, Repr

/-- A fault held pending against a slice (R308). -/
structure PendFault where
  cause : Nat
  cls : TrapClass
  sub : Nat
  mask : Mask32
  va : VA
  deriving DecidableEq, Repr

/-! Slices -/

/-- What a slice waits for (Table 16.3 WAIT; R13). -/
inductive Wait where
  | ready
  | regang
  | barr (k n : Nat)
  | latch
  | landing (addr : Nat) (phase : Bool)
  /-- A ring take: descriptor, `.free`, destination register, the token it counts on, its address. -/
  | ring (addr : Nat) (free : Bool) (dst tok : Nat) (pcAt : VA)
  | yield
  deriving DecidableEq, Repr

/-- The register files a hazard can concern; a frame register is known by its ring row (R25), FSTATUS counts as a
destination of what may raise a flag (R139), and a system register is known by its number (R211). -/
inductive RegKind where
  | row | hrow | s | b | m | p | fs | sys
  deriving DecidableEq, Repr

/-- A write that a read of its register may not see yet (R73), or may see already (R74), or a register whose undefined
window is open (R198). A slice keeps them newest first, several for one register where several writes are under way. -/
structure Hazard where
  kind : RegKind
  idx : Nat
  /-- The lanes that the instruction writes, none for a destination that only the checking scoreboard counts; all four
  where the register is not laned. -/
  lanes : BitVec 4
  /-- Contents before a fixed-latency write, which stands in the register already; of FSTATUS, the flags that it has put there
  first (R139). -/
  old : W128
  /-- The value of a variable-latency write where it is known, which does not stand in the register yet. -/
  new : Option W128
  /-- Cycles of stall count still missing when the last instruction issued, for a fixed latency (R73). -/
  left : Nat
  /-- Token plus one for a variable latency, 0 for none. -/
  tok : Nat
  /-- A variable-latency result: not fixed. -/
  varLat : Bool
  /-- The result has been written; kept for the checking scoreboard alone. -/
  landed : Bool
  /-- An operand row of a stage whose matching MWAIT has not come; `left` is then the stage's number. -/
  window : Bool
  /-- Draw number of the instruction that made it. -/
  born : Nat
  deriving DecidableEq, Repr

/-- An entry of the gate save stack, with what GATE latches beside it (R42, R125, R126). -/
structure GateSave where
  asid : BitVec 16
  domain : BitVec 12
  spillTop : VA
  /-- Base of the caller's own spill stack. -/
  base : VA
  index : Nat
  narg : Nat
  nres : Nat
  scrub : W32
  handler : VA
  /-- The latched window limit. -/
  limit : VA
  /-- Predicate that GATE names. -/
  pd : Nat
  /-- Stack position of the first row the service owns. -/
  first : Nat
  /-- Stack position of the gate frame's header row, which the caller owns. -/
  hdr : Nat
  /-- The gate frame's header row as GATE wrote it. -/
  header : W128
  /-- DEPTH of the caller. -/
  depth : Nat
  /-- Draw number of the GATE: what was issued later is the service's. -/
  born : Nat
  deriving DecidableEq, Repr

/-- What supervisor entry sets aside for a slice (R230). -/
structure SetAside where
  m0 : BitVec 4
  gang : Mask8
  fsz : Nat
  /-- The destination that carried the target-check mark (R113). -/
  markAt : Option VA
  deriving DecidableEq, Repr

/-- A spilled row whose write has not landed (R331): its entry's address and the row. -/
structure HeldSpill where
  /-- The row's stack position. -/
  pos : Nat
  va : VA
  asid : BitVec 16
  row : W128
  /-- Open gate frames whose service owns the row (R126). -/
  level : Nat
  /-- A word of the row was poisoned as it was copied out (R347). -/
  poison : Bool
  deriving DecidableEq, Repr

/-- A refill that has issued and not landed (R331): the stack position, the entry's address, its ASID and level. -/
structure Refill where
  pos : Nat
  va : VA
  asid : BitVec 16
  level : Nat
  deriving DecidableEq, Repr

/-- A slice (R7, Table 1.1, Table 1.3, Table 1.10). Rows of the frame stack are numbered from the root's f0 upward:
position `n` stands in ring row `n mod B`; `top` is one above the current header row and `low` the oldest resident
row, so FP is `top − FSZ − 2` in the ring (R25, R27). -/
structure Slice where
  /-- Its number in the warp. -/
  num : Nat
  live : Bool
  pc : VA
  gang : Mask8
  wait : Wait
  /-- Cycle at which the present wait began (R322). -/
  waitSince : Nat
  fsz : Nat
  depth : Nat
  top : Nat
  low : Nat
  spillTop : VA
  /-- Base of the spill stack that `spillTop` addresses (R30). -/
  bsBase : VA
  bsLimit : VA
  /-- Frame ring rows; lane `l` of the slice in bits 32l+31:32l (R24). -/
  rows : Tab W128
  /-- The 16 handler rows (R35). -/
  hrows : Tab W128
  s : Tab W64
  b : Tab W128
  /-- p0–p6 of each of the four lanes, bit k for pk. -/
  p : Tab (BitVec 8)
  /-- The slice's own four bits of m0–m7 (R17). -/
  m : Tab (BitVec 4)
  fstatus : W32
  resume : VA
  gates : List GateSave
  /-- The target-check mark (R113). -/
  mark : Bool
  handler : Option SetAside
  pending : List PendFault
  /-- A transfer of the slice has faulted, and the retry waits for the handler to return (R34). -/
  resting : Bool
  /-- Cycle before which the gang does not issue again (R73). -/
  stall : Nat
  /-- Stall count plus one of the instruction issued last, not yet counted off the hazards (R73). -/
  owed : Nat
  hazards : List Hazard
  /-- Spilled rows held until their writes land, oldest first (R331). -/
  held : List HeldSpill
  /-- The value MTS wrote to SPILLTOP, waiting for transfers in flight (R229). -/
  newSpillTop : Option VA
  /-- Rows and handler rows written since the warp's last MFENCE, with their old contents (R199). -/
  unfenced : Tab W128
  hunfenced : Tab W128
  /-- Handler rows (true) and ring rows (false) written since their blocks' shadows were last looked at (R256). -/
  touched : List (Bool × Nat)
  /-- Rows pinned by matrix instructions, with the instruction (R36). -/
  pins : List (Nat × Nat)
  /-- A RET or GRET of the slice stalls for its caller's frame, which may come back while the ring is full of the closing
  frame (R32). -/
  returning : Bool
  /-- Rows come back for such a stall, by stack position, until the closing frame gives up its ring rows. -/
  aside : Tab W128
  /-- Stack position down to which the undertow is refilling, after a RET or for one that stalls (R32). -/
  refillTo : Option Nat
  /-- Refills that have issued and not landed, oldest first; `low` and SPILLTOP have moved already (R331). -/
  coming : List Refill
  /-- Status word of an unwound gate, until the caller's frame is resident to take it (R127). -/
  unwound : Option W32
  /-- The store it holds back for room in the log has been counted (R354). -/
  logStalled : Bool
  /-- Rows on the backing store as their last spills wrote them, by stack position; none where a program has stored over one
  (R273). -/
  spilledRows : Tab W128
  /-- Physical addresses of the spilled rows whose writes have landed, by stack position. -/
  spilledAt : Tab Nat
  deriving DecidableEq, Repr

/-! Work in flight of a warp -/

/-- Where four bytes of a result go, fixed at issue: a ring or handler row's lane, or an s-register of a slice. -/
inductive Place where
  | row (slice ring lane : Nat)
  | hrow (slice idx lane : Nat)
  | sreg (slice idx : Nat)
  deriving DecidableEq, Repr

/-- One lane's access of a memory instruction. -/
structure LaneAcc where
  lane : Nat
  /-- The lanes it stands for (R157). -/
  mask : Mask32
  va : VA
  pa : Nat
  /-- Dropped out of bounds (R161). -/
  dropped : Bool
  /-- Data to be stored, or the operand v of an atomic. -/
  data : W64
  /-- Further data of a store wider than 8 bytes, as bytes. -/
  bytes : List Byte
  /-- Comparand of `.cas`. -/
  cmp : W64
  dst : List Place
  deriving DecidableEq, Repr

/-- A scratchpad target: the core and workgroup slot whose allocation is reached, and the offset (R38). -/
structure PadAcc where
  lane : Nat
  core : Nat
  group : Nat
  addr : Nat
  data : W64
  bytes : List Byte
  cmp : W64
  dst : List Place
  deriving DecidableEq, Repr

/-- Outcome of one lane of a remote atomic (R173). -/
inductive AtomOutcome where
  | waiting | done | refused | unknown
  deriving DecidableEq, Repr

/-- How far an instruction that publishes has come (R172, R177, R178). -/
inductive PubStage where
  | start
  /-- Segments up to this sequence number must be published. -/
  | sealedUpTo (seq : Nat)
  | released
  deriving DecidableEq, Repr

/-- A variable-latency instruction's remaining work. -/
inductive PendOp where
  /-- Values already computed, to be written at completion with the flags they raise. -/
  | regs (ws : List (Place × W64)) (flags : W32)
  /-- MTS of a system register (R211, R229). -/
  | sys (n : Nat) (v : W64)
  | load (size : Nat) (signed home : Bool) (lanes : List LaneAcc)
  | store (size : Nat) (lanes : List LaneAcc)
  | padLoad (size : Nat) (signed : Bool) (lanes : List PadAcc)
  | padStore (size : Nat) (lanes : List PadAcc)
  | ldl (size : Nat) (lanes : List (LaneAcc × PadAcc))
  | atom (op size order scope : Nat) (stage : PubStage) (marked : Bool) (logs : List Nat) (degrade : Bool)
      (lanes : List LaneAcc) (outcomes : Tab AtomOutcome) (issuedTick : Nat)
  | padAtom (op size : Nat) (lanes : List PadAcc)
  | acq (scope : Nat) (logs : List Nat) (degrade : Bool)
  | rel (scope : Nat) (stage : PubStage)
  | fence (scope : Nat) (logs : List Nat) (degrade : Bool) (stage : PubStage)
  | sealUpTo (seq : Option Nat)
  | lbinit (core group addr : Nat) (value : W64)
  | lbarrive (core group addr n : Nat)
  | launch (pa : Nat) (dst : List Place) (stage : PubStage)
  /-- A load, an atomic or a LAUNCH that has performed: the values that come back are still to be written; `holds` where it keeps
  later instructions back until then (R74, R236). -/
  | loaded (ws : List (Place × W64)) (holds : Bool)
  /-- Slot j+1 of a pair whose slot j has issued, held for what slot j does or for a translation: its instruction, slot j's stall
  count, and the reason as a number of Table 19.4 (R69). -/
  | second (i : Instr) (floor why : Nat)
  /-- Completed by the copy engine or the matrix engine. -/
  | engine (request : Nat)
  deriving DecidableEq, Repr

/-- A variable-latency instruction that has issued and not completed (R74). -/
structure Pend where
  id : Nat
  /-- Token plus one, 0 for none. -/
  tok : Nat
  gang : Mask8
  pc : VA
  /-- Draw number of its issue, by which its destinations' hazards are known. -/
  born : Nat
  op : PendOp
  deriving DecidableEq, Repr

/-- The translations a warp waits for under warp disable (R306, R312). -/
structure Walk where
  gang : Mask8
  asid : BitVec 16
  /-- The lane, the lanes it stands for and the address of each access. -/
  lanes : List (Nat × Mask32 × VA)
  write : Bool
  read : Bool
  exec : Bool
  sub : Nat
  deriving DecidableEq, Repr

/-- The halt report (Table 16.2). -/
structure Report where
  tick : W64
  pc : VA
  addr : VA
  fmask : Mask32
  m0 : Mask32
  code : BitVec 16
  stopGang : Mask8
  live : Mask8
  sub : BitVec 8
  cause : BitVec 8
  asid : BitVec 16
  domain : BitVec 12
  gdepth : BitVec 3
  inHandler : Bool
  pending : Bool
  /-- The failing slot is slot j+1 of the pair at PC (R70; log entry 98). -/
  second : Bool
  deriving DecidableEq, Repr

/-- A warp (R8, Table 1.10). -/
structure Warp where
  /-- Workgroup slot on the core. -/
  group : Nat
  /-- Warp index in the workgroup. -/
  idx : Nat
  /-- Row budget B of its role (R24). -/
  rowB : Nat
  pipe : Nat
  /-- Tick at which it became resident on its pipe (R300). -/
  age : Nat
  active : Bool
  /-- Cycles left of an exchange (R301). -/
  swap : Nat
  /-- Cycle since which a pending warp has been ready (R301). -/
  readySince : Option Nat
  /-- The YIELD hint stands for the next issue choice (R76). -/
  hint : Bool
  /-- Lowest slice of the gang that issued last (R13). -/
  last : Nat
  slices : Tab Slice
  /-- Token counters t0–t5 (R18). -/
  tok : Tab Nat
  /-- The tokens on which it has waited to level 0 since it last posted a copy request there (R220). -/
  waited : BitVec 6
  bs : Tab (BitVec 16)
  mteam : W64
  asid : BitVec 16
  domain : BitVec 12
  preq : Bool
  handler : VA
  /-- Lanes set in m0 at start (R41, R226). -/
  start : Mask32
  pend : List Pend
  nextId : Nat
  report : Option Report
  walk : Option Walk
  /-- Under STEP, the gang that may issue once (R317). -/
  stepping : Option Mask8
  /-- It has been started (R241). -/
  started : Bool
  /-- A halt that met a save, taken once the warp is resident again (R329): the gang that stopped and the cause. -/
  heldHalt : Option (Mask8 × Trap)
  /-- Draw number of the free values its reads take. -/
  seed : Nat
  deriving DecidableEq, Repr

/-! Workgroups -/

/-- An interface's ASID table: its physical address, the first ASID granted and how many (R372, Table 21.6). -/
structure AsidTable where
  at_ : Nat
  base : Nat
  count : Nat
  deriving DecidableEq, Repr

/-- The effective region values (R281) as latched when a launch is submitted. -/
structure Region where
  vi : Nat
  /-- The ASID table of the interface as the launch found it (R375). -/
  table : AsidTable
  index : Nat
  cls : Nat
  tickets : Nat
  asid : BitVec 16
  domain : BitVec 12
  faultDom : Nat
  handler : VA
  gateTab : VA
  gateCount : Nat
  redund : Bool
  dieMask : BitVec 8
  deadline : Nat
  logSize : Nat
  bsBase : VA
  bsWin : Nat
  ctxArea : VA
  ctxSize : Nat
  /-- The region and its ancestors, nearest first: index, COREBUD, GRANBUD, LOGBUD, TICKBUD. -/
  chain : List (Nat × Nat × Nat × Nat × Nat)
  deriving DecidableEq, Repr

/-- A role entry (Table 15.4). -/
structure Role where
  pipes : BitVec 4
  budget : Nat
  fsz : Nat
  count : Nat
  deriving DecidableEq, Repr

/-- A dependence entry (Table 15.5). -/
structure Dep where
  value : W64
  step : Nat
  kind : Nat
  cond : Nat
  early : Bool
  addr : VA
  deriving DecidableEq, Repr

/-- A launch parameter block (Table 15.3). -/
structure LaunchBlock where
  code : VA
  args : VA
  completion : VA
  region : Nat
  gridX : Nat
  gridY : Nat
  gridZ : Nat
  warps : Nat
  threads : Nat
  partition : W32
  order : Nat
  swz : Nat
  check : Bool
  notify : Bool
  roles : List Role
  deps : List Dep
  progress : VA
  reserve : Nat
  deriving DecidableEq, Repr

/-- A workgroup barrier with warps waiting at it (R226): the n named, and the warp indices. -/
structure Barrier where
  n : Nat
  waiting : List Nat
  deriving DecidableEq, Repr

/-- A row of a frame operand: the slice and its ring row, or its handler row, and the key of its first byte in the operand. -/
structure OpRow where
  slice : Nat
  hrow : Bool
  row : Nat
  key : Nat
  deriving DecidableEq, Repr

/-- One member's arrival at the rendezvous latch (R197): what the latch compares, and what the engine takes. -/
structure Arrival where
  warp : Nat
  slot : Nat
  gang : Mask8
  pc : VA
  tok : Nat
  /-- The fields of its encoding. -/
  ops : FmtG
  chain : Bool
  mteam : W64
  fmt : W64
  alpha : W64
  opw : List W64
  opx : List W64
  strides : List Nat
  /-- Frame operand bytes of the member, register by register of 128 bytes, for weights and activations. -/
  rowsW : List W128
  rowsX : List W128
  /-- Rows of the frame operands. -/
  pins : List OpRow
  deriving DecidableEq, Repr

/-- The rollback snapshot of a workgroup whose interval is open (R256, R343). -/
structure Snapshot where
  warps : List (Nat × Warp)
  spad : Tab Byte
  acc : Tab W32
  scale : Tab Byte
  /-- Blocks written since the interval opened, one shadow block each. -/
  dirty : List Nat
  bars : Tab Barrier
  ended : List Nat
  /-- Starting SPILLTOP of each warp slot and slice. -/
  spill : List (Nat × Nat × VA)
  owed : List (Nat × Nat)
  deriving DecidableEq, Repr

/-- Writes of one byte by one writer that a warp's stages may still miss (R199). -/
structure Unfenced where
  /-- What the byte held before them. -/
  olds : List Byte
  /-- 0 the copy engine; otherwise 1 + 64 · core + warp slot. -/
  writer : Nat
  /-- The warps that have not fenced them. -/
  mask : Mask32
  /-- The warps that made them, or have seen them complete: what their MFENCE waits for. -/
  due : Mask32
  /-- What else tells that they are complete: the landing barrier at `a` whose count covers them by 2·a, by 2·a + 1 once its phase has
  flipped (R222, R223), and from 2^40 a token on which their request counts (R220). -/
  tags : List Nat
  deriving DecidableEq, Repr

/-- A resident workgroup (R8). -/
structure Group where
  launch : Nat
  linear : Nat
  /-- CORE as software reads it: the core it was first placed on (R22). -/
  core : Nat
  x : W32
  y : W32
  z : W32
  partition : W32
  /-- Pool granules it holds. -/
  grans : List Nat
  /-- Core warp slots, by warp index. -/
  slots : List Nat
  /-- Warp indices that have ended. -/
  ended : List Nat
  region : Region
  check : Bool
  spad : Tab Byte
  /-- Accumulator words: region·4096 + row·32 + column. -/
  acc : Tab W32
  scale : Tab Byte
  /-- Draw number of its undefined accumulator and scale contents (Table 1.9). -/
  seed : Nat
  bars : Tab Barrier
  latch : List Arrival
  snapshot : Option Snapshot
  /-- Has done what R305 lists, so that FEATURE halts. -/
  committed : Bool
  /-- A record of it has been published. -/
  published : Bool
  /-- Cycle at which the pre-emption deadline expires (R324). -/
  deadline : Option Nat
  /-- Placed, and waiting for its early conditions (R296). -/
  waiting : Bool
  /-- Bytes of scratchpad, and of scale memory from 2^40 upward, whose writes some warp's stages may still miss, the oldest write
  first (R199). -/
  unfenced : Tab (List Unfenced)
  /-- Backing-store windows held: core, warp slot (R328). -/
  windows : List (Nat × Nat)
  rollbacks : Nat
  /-- Places limited to the wide dies (R305). -/
  wide : Bool
  /-- A save has begun: its KIND and the warp slot that caused it (R325). -/
  saving : Option (Nat × Nat)
  /-- The publish step waits for segments up to this one (R325). -/
  saveSeq : Option Nat
  /-- The workgroup's last warp has ended; its end publication reaches up to this segment (R241). -/
  ending : Option Nat
  /-- The publication of its counters' atomics reaches up to this segment (R172, R241). -/
  counting : Option Nat
  /-- Ring slots that requests have filled and that wait for earlier slots: descriptor, slot number (R225). -/
  owed : List (Nat × Nat)
  /-- The fault that swapped it out, for the application cores (R321). -/
  fault : Option PendFault
  deriving DecidableEq, Repr

/-! Caches and the log -/

/-- A copy of the home view in L1 (R257). -/
structure L1Line where
  data : LineBits
  /-- The install tick (R258). -/
  tick : Nat
  /-- Fold notices that had reached their homes when its bytes were read there: what stands later in the coherence order than they
  is known by that (R234). -/
  order : Nat
  /-- The same of bytes that were refreshed, patched or merged since. -/
  newer : Tab Nat
  used : Nat
  poison : Bool
  deriving DecidableEq, Repr

/-- A copy of the home view in a die cache (R259). -/
structure DieLine where
  data : LineBits
  used : Nat
  poison : Bool
  deriving DecidableEq, Repr

/-- The die cache of a compute die, with the count of its uses (R259). -/
structure Die where
  lines : Tab DieLine
  uses : Nat
  deriving DecidableEq, Repr

/-- An overlay line (R257). -/
structure Overlay where
  line : Nat
  data : LineBits
  mask : BitVec 64
  slot : Nat
  seg : Nat
  /-- Fold notices that had reached their homes when its unmarked bytes were read there (R234). -/
  order : Nat
  /-- An uncorrectable error stands in the line (Table 19.1). -/
  poison : Bool
  /-- It was filled from a poisoned line (R348). -/
  tainted : Bool
  deriving DecidableEq, Repr

/-- A log record (Table 13.3). -/
structure Record where
  line : Nat
  mask : BitVec 64
  data : LineBits
  slot : Nat
  void : Bool
  /-- Its place in the coherence order (R234): the number of its fold notice's arrival, 0 before it. -/
  order : Nat
  /-- Launch and linear index of the workgroup that stored it. -/
  owner : Nat × Nat
  deriving DecidableEq, Repr

/-- A sealed segment (R260) and how far its publication has come (R263, R266). -/
structure Segment where
  seq : Nat
  records : List Record
  /-- Offset in 64-byte units; `none` while the log area has no room (R180). -/
  at_ : Option Nat
  ntick : Option Nat
  /-- Home slices whose acknowledgement is awaited. -/
  waiting : List Nat
  published : Bool
  /-- Remote records not yet acknowledged (R177). -/
  routed : Bool
  /-- Records to a remote package were discarded with the peer (R380). -/
  lost : Bool
  /-- The publication is a forced one (R180). -/
  forced : Bool
  deriving DecidableEq, Repr

/-- A slot of the publication table (Table 13.5). -/
structure PubSlot where
  seq : Nat
  offset : Nat
  ebbSeq : Nat
  ebbOffset : Nat
  base : Nat
  size : Nat
  deriving DecidableEq, Repr

/-- A record standing in a home's fold queue (R266). -/
structure FoldRec where
  home : Nat
  core : Nat
  seq : Nat
  record : Record
  deriving DecidableEq, Repr

/-- A translation a core holds (R312, R313, R371). -/
structure TlbEntry where
  asid : BitVec 16
  va : Nat
  pa : Nat
  size : Nat
  r : Bool
  w : Bool
  x : Bool
  pin : Bool
  scheme : Nat
  /-- Page-table lines it derives from. -/
  lines : List Nat
  deriving DecidableEq, Repr

/-- A page through which lines have been written: the table, the ASID and the address under which a leaf entry maps it (R268). -/
structure Leaf where
  table : AsidTable
  asid : BitVec 16
  va : Nat
  pa : Nat
  size : Nat
  deriving DecidableEq, Repr

/-! The copy engine -/

/-- A posted copy request (R213, R214). -/
structure CopyReq where
  id : Nat
  slot : Nat
  group : Nat
  gang : Mask8
  /-- ASID of the warp at the XKICK. -/
  asid : BitVec 16
  tok : Nat
  words : List W64
  /-- Rows started and rows landed. -/
  started : Nat
  landed : Nat
  /-- Byte offset inside the row being started. -/
  offset : Nat
  /-- The index read for the row being started (R219). -/
  idx : Nat
  /-- Ring slot taken: its number and address. -/
  ring : Option (Nat × Nat)
  /-- Stream bit position and bytes produced of a DECODE (R272). -/
  bitPos : Nat
  produced : Nat
  /-- The code table as read when the first chunk started. -/
  table : List Byte
  /-- Held by a fault, until the handler returns (R221). -/
  held : Bool
  allStarted : Bool
  /-- Old bytes of the scratchpad writes that have landed: row, address, byte (R219); of a DECODE whose first chunk has not
  started, those of its code table that warps have written over (R272). -/
  shadow : List (Nat × Nat × Byte)
  deriving DecidableEq, Repr

/-- Where a chunk's bytes go. -/
inductive ChunkDest where
  | pad | scale | global
  deriving DecidableEq, Repr

/-- A chunk in flight (R271). -/
structure Chunk where
  id : Nat
  req : Nat
  /-- Row that it belongs to. -/
  row : Nat
  dest : ChunkDest
  writes : List (Nat × List Byte)
  /-- Bytes and whole rows that its landing counts (R222). -/
  bytes : Nat
  rows : Nat
  last : Bool
  deriving DecidableEq, Repr

/-! The matrix engine -/

/-- What a matrix instruction does (R184). -/
inductive EngKind where
  | bfly | bchain
  | mscale (out : Bool)
  | mload (fmt : Nat)
  | mstore (fmt len : Nat)
  | mzero
  deriving DecidableEq, Repr

/-- A stage operand as latched (R189, R190). -/
inductive TileSrc where
  | none
  | frame (bytes : List Byte)
  /-- In scratchpad. -/
  | pad (base rpitch tpitch map partner : Nat)
  deriving DecidableEq, Repr

/-- A matrix instruction the engine has accepted (R184, R203). -/
structure EngInstr where
  id : Nat
  group : Nat
  /-- Draw number of the free values its reads take. -/
  seed : Nat
  kind : EngKind
  /-- Warp slot, gang and token of every member. -/
  members : List (Nat × Mask8 × Nat)
  pairs : Nat
  blk : Nat
  cols : Nat
  fmt : W64
  alpha : W64
  acc : Nat
  count : Nat
  split : Bool
  sparse : Bool
  strides : List Nat
  w : TileSrc
  x : TileSrc
  /-- Old bytes of scratchpad and scale memory that it may still read, no MFENCE standing between (R199). -/
  stale : Tab (List Byte)
  /-- Tile shape of MLOAD and MSTORE; offset, address, count of MSCALE. -/
  h : Nat
  wd : Nat
  off : Nat
  begun : Bool
  /-- Resume cursor: chain stage, next pair, sparse steps run (R203). -/
  t : Nat
  j : Nat
  steps : Nat
  /-- Input carry of the current stage, and its exponents (R60). -/
  carry : List W64
  carryExp : List Nat
  /-- Outputs of the current chain stage so far, by flat index. -/
  partialOut : Tab W64
  flags : W32
  finished : Bool
  deriving DecidableEq, Repr

/-- The undefined window of a matrix instruction, from its acceptance until its matching MWAIT (R198). -/
structure StageWindow where
  id : Nat
  group : Nat
  members : List (Nat × Mask8 × Nat)
  /-- Ranges read of scratchpad, and of scale memory from 2^40 upward: first, last. -/
  reads : List (Nat × Nat)
  /-- The instruction as it was accepted. -/
  instr : EngInstr
  /-- Rows of its frame operands, with their warp slots. -/
  rows : List (Nat × OpRow)
  /-- What has been written of its operands during the window: keys and lengths. -/
  dirt : List (Nat × Nat)
  /-- Accumulator tiles that later instructions have written over: region, rows, columns, FP64; and byte ranges by key. -/
  later : List (Nat × Nat × Nat × Bool)
  laterBytes : List (Nat × Nat)
  deriving DecidableEq, Repr

/-! Cores -/

/-- A tagged packet of the present tick, still to be put in its place: warp slot, lowest slice of the gang, type byte, bytes
after the tag. -/
structure TracePkt where
  slot : Nat
  low : Nat
  type : Byte
  rest : List Byte
  deriving DecidableEq, Repr

/-- A gang as a SYNC lists it (R357, R363). -/
structure GangMark where
  slot : Nat
  pc : VA
  gang : Mask8
  m0 : Mask32
  depth : Nat
  deriving DecidableEq, Repr

/-- The registers and the inner state of a trace unit (Table 19.6, R357–R363). -/
structure Trace where
  en : Bool
  count : Nat
  first : Nat
  reserved : W64
  base : W64
  size : W64
  write : W64
  read : W64
  sync : W64
  /-- Running base tick. -/
  tick : Nat
  /-- A SYNC is owed before the next packet. -/
  owed : Bool
  syncTick : Nat
  dropped : Nat
  firstDrop : Nat
  lastDrop : Nat
  /-- Packets of the present tick, in the order of their instructions (R358). -/
  packets : List TracePkt
  /-- The gangs of the core as they stood when the tick `startTick` began (R363). -/
  atStart : List GangMark
  startTick : Nat
  deriving DecidableEq, Repr

/-- A watch entry (R319, R376). -/
structure WatchEntry where
  va : W64
  ctl : W64
  deriving DecidableEq, Repr

/-- A saved context moored on a core (R274): which, its first granule, its granules. -/
structure Mooring where
  saved : Nat
  first : Nat
  count : Nat
  deriving DecidableEq, Repr

/-- A core (Table 1.10). -/
structure Core where
  warps : Tab Warp
  groups : Tab Group
  l1 : Tab L1Line
  /-- Uses of L1 copies so far, by which the least recently used is known (R258). -/
  uses : Nat
  overlay : List Overlay
  /-- Number of the open segment. -/
  openSeq : Nat
  /-- Sealed segments not yet folded and freed, oldest first. -/
  segs : List Segment
  /-- The publication asked for reaches up to this segment (R177, R180). -/
  goal : Nat
  /-- Write offset of the log area in 64-byte units. -/
  logAt : Nat
  /-- Log-area size in bytes in force (R284). -/
  logSize : Nat
  /-- Replay cursor of each log of the package: sequence number (R264). -/
  cursors : Tab Nat
  icache : Tab LineBits
  /-- Keys of the lines in the instruction cache, the first filled first (log entry 94). -/
  icOrder : List Nat
  /-- Keys of lines there that were filled from a poisoned line (R67, R348). -/
  icBad : List Nat
  /-- Launches that have begun on the core (R71). -/
  begun : List Nat
  tlb : List TlbEntry
  copyq : List CopyReq
  chunks : List Chunk
  mq : List EngInstr
  windows : List StageWindow
  nextReq : Nat
  /-- Leaf counters of Table 19.4: pipe·256 + number, core-wide ones at 1024 + number. -/
  ctr : Tab Nat
  /-- Cycle up to which each pipe's slots are counted. -/
  seen : Tab Nat
  frozen : Bool
  trace : Trace
  watch : Tab WatchEntry
  /-- DACC and DDATA of each warp slot's window (R377). -/
  dacc : Tab W64
  ddata : Tab W64
  moored : List Mooring
  /-- Home atomics of page tables held until acknowledgements arrive (R313): lines asked to be dropped. -/
  shoot : List Nat
  /-- Warp slots and slices with work for the undertow, in the order in which their needs arose (R273). -/
  undertow : List (Nat × Nat)
  /-- The agent that the scratchpad port served last: 0 own warps, 1 copy engine, 2 matrix engine, 3 peers (R269). -/
  portLast : Nat
  /-- The core's mooring table as it last rewrote it (Table 13.7). -/
  mooring : W128
  deriving DecidableEq, Repr

/-! The distributor -/

/-- A launch the distributor holds (R286–R299). -/
structure Launch where
  handle : Nat
  region : Region
  block : LaunchBlock
  /-- Next dispatch ordinal of the traversal (R299). -/
  next : Nat
  /-- Workgroups given a place at least once. -/
  placed : Nat
  ended : Nat
  /-- Linear indices returned to the head of the queue by FEATURE (R305). -/
  requeued : List Nat
  /-- Placement limited to CD6 and CD7 (R305). -/
  wide : Bool
  killed : Bool
  /-- Conditions seen to hold: linear index, dependence (R294). -/
  met : List (Nat × Nat)
  /-- What the homes have found the words of the dependences to hold: dependence, word (R294). -/
  words : List (Nat × Nat)
  deriving DecidableEq, Repr

/-- A workgroup that is out of the cores: saved, or waiting for its dependences (R296, R321–R328). -/
structure Saved where
  id : Nat
  launch : Nat
  linear : Nat
  /-- KIND of Table 16.5. -/
  kind : Nat
  /-- It may re-enter: fault served, WATCHDOG released, or neither needed. -/
  released : Bool
  saveTick : Nat
  core : Nat
  group : Group
  warps : List (Nat × Warp)
  copyq : List CopyReq
  chunks : List Chunk
  mq : List EngInstr
  windows : List StageWindow
  /-- PLACE, MCORE and MGRAN of Table 16.5. -/
  place : Nat
  mcore : Nat
  mgran : Nat
  bytes : Nat
  /-- Offset in the region's context area, where PLACE is 2 (log entry 9). -/
  area : Nat
  wide : Bool
  /-- Offsets in the context of words that were poisoned as it was saved, and are where it is moored (R347; log entry 119). -/
  bad : List Nat
  deriving DecidableEq, Repr

/-- A region queue's pass (R291) and hold (R293). -/
structure QueueState where
  pass : Nat
  eligible : Bool
  /-- Tick since which its next workgroup has fitted no die. -/
  since : Option Nat
  holds : Bool
  deriving DecidableEq, Repr

/-- The registers of a virtual interface (Table 21.6). -/
structure VI where
  dies : BitVec 8
  regtab : Nat
  regcnt : Nat
  asidcnt : Nat
  asidbase : Nat
  asidtab : Nat
  msiaddr : W64
  msidata : W32
  evbase : Nat
  ovf : Bool
  evtail : BitVec 16
  evhead : BitVec 16
  evsize : BitVec 16
  subseq : W32
  substat : BitVec 8
  ctl : W64
  /-- Fault domains on hold (R282). -/
  holds : List Nat
  deriving DecidableEq, Repr

/-! The package -/

/-- A live entry of a remote-atomic replay cache (R267). -/
structure ReplayEntry where
  port : Nat
  /-- The home slice whose cache it stands in. -/
  home : Nat
  source : Nat
  req : Nat
  result : W64
  tick : Nat
  deriving DecidableEq, Repr

/-- A remote atomic of another package that has reached its home and waits there (R267): the Tsusin port, the source package and
what the flit carries. -/
structure Inbound where
  port : Nat
  source : Nat
  body : FlitBody
  deriving DecidableEq, Repr

/-- What a home answers to another package: the port, the request id, and the old value, or none where it is refused (R267). -/
structure LinkAnswer where
  port : Nat
  req : Nat
  result : Option W64
  deriving DecidableEq, Repr

/-- A write that waits for shoot-down acknowledgements (R313, R373): what is to be applied. -/
structure Shootdown where
  lines : List Nat
  /-- Cores that have not acknowledged. -/
  waiting : List Nat
  deriving DecidableEq, Repr

/-- An error record (Table 19.2). -/
structure ErrorRecord where
  tick : W64
  outcome : Nat
  store : Nat
  core : Nat
  loc : Nat
  deriving DecidableEq, Repr

/-- A message-signalled interrupt that has been sent (R374). -/
structure Msi where
  addr : W64
  data : W32
  tick : Nat
  deriving DecidableEq, Repr

/-- An island (R352, R368, R369): its wear report and the clock steps it has been lowered. -/
structure Island where
  wear : W64
  steps : Nat
  hot : Nat
  deriving DecidableEq, Repr

/-- A stack's scrubber (R350): next line, the ticks of the last corrected errors. -/
structure Scrubber where
  next : Nat
  passes : Nat
  corrected : List Nat
  deriving DecidableEq, Repr

/-- A Tsusin port (R379, R380): up, the peer's package number, next sequence number expected, retries asked. -/
structure Port where
  up : Bool
  peer : Nat
  clash : Bool
  expect : Nat
  retries : Nat
  lastAck : Nat
  deriving DecidableEq, Repr

/-- Power of the package (R369). -/
inductive Power where
  | running
  | standby
  /-- Removed at 110 °C; the island is reported at the next boot. -/
  | shutdown (island : Nat)
  deriving DecidableEq, Repr

/-- An answer to an upstream PCIe request (R378). -/
inductive PcieAnswer where
  | data (bytes : List Byte)
  /-- The bytes read hold poison (R348). -/
  | poison
  | written
  /-- Routed to another requester. -/
  | routed
  | abort
  deriving DecidableEq, Repr

/-- An attestation report (R384). -/
structure Attestation where
  nonce : List Byte
  serial : List Byte
  fuse : Nat
  images : List (BitVec 8 × BitVec 8 × List Byte)
  configs : List (List Byte)
  refused : Nat
  rsa : List Byte
  slh : List Byte
  deriving DecidableEq, Repr

/-- The security controller (R381–R384). -/
structure Security where
  loaded : List Image
  fuse : Nat
  refused : Nat
  reports : List Attestation
  /-- Management cores released from reset. -/
  management : Bool
  /-- The boot has started the compute dies. -/
  started : Bool
  /-- Cause of the last power removal, reported at boot. -/
  lastCause : Option Nat
  /-- Service ASIDs whose image has passed, and those that an image was presented for or a gate named and for which none has
  (R382). -/
  services : List (BitVec 16)
  barred : List (BitVec 16)
  deriving DecidableEq, Repr

/-- The place of an instruction in a pair (R69). -/
inductive PairPos where
  | alone | first | second
  /-- Slot j+1 is checked before slot j takes effect (R70). -/
  | probe
  deriving DecidableEq, Repr

/-- The gang whose instruction is being executed: core, warp slot, gang, its place in a pair, and the stall count of the
slot it stands behind. -/
structure Cur where
  core : Nat
  slot : Nat
  gang : Mask8
  pos : PairPos
  floor : Nat
  deriving DecidableEq, Repr

/-- An instruction that the issue cycle has read and that the same step runs: its gang, its address. -/
structure Fetched where
  cur : Cur
  pc : VA
  instr : Instr
  deriving DecidableEq, Repr

/-- Where an error of a store of Table 19.1 lies. -/
inductive UpsetAt where
  /-- A 64-bit word of a core's pool: granule, byte offset. -/
  | pool (core granule offset : Nat)
  /-- A 64-bit word of a core's scale memory: granule of its window, byte offset. -/
  | scale (core granule offset : Nat)
  | l1 (core line : Nat)
  | overlay (core line : Nat)
  | die (die line : Nat)
  /-- A home line: STORE of Table 19.2, 5 to 8, and the line. -/
  | home (store line : Nat)
  /-- A record of a log, as the ebb engine or a replay meets it. -/
  | record (core seq line : Nat)
  deriving DecidableEq, Repr

/-- An error that stands in a store and has not been dealt with: from outside the machine, as the agenda is (R347; log
entry 95). -/
structure Upset where
  place : UpsetAt
  /-- Uncorrectable. -/
  fatal : Bool
  /-- A pool or scale word that has been found and poisoned. -/
  found : Bool
  deriving DecidableEq, Repr

/-- A difference between the two runs of a redundant instruction or stage to come: the core, the warp slot (128 for the
matrix engine), and whether the repeated runs differ too (R349; log entry 95). -/
structure Slip where
  core : Nat
  slot : Nat
  again : Bool
  deriving DecidableEq, Repr

/-- The whole package. -/
structure State where
  cores : Tab Core
  cur : Option Cur
  /-- The issue latch: what an issue cycle has read and the same step runs. -/
  ir : List Fetched
  /-- What checking a slot of a pair found (R70), and at which step of R86, in tenths. -/
  probe : Option (Nat × Trap)
  /-- Events to come, in order: which unit moves next (log entry 2). -/
  agenda : List Instr
  /-- Number of the pipe whose turn comes next, core·4 + pipe (log entry 2). -/
  turn : Nat
  /-- Arithmetic-clock cycles since reset. -/
  cycle : Nat
  /-- Time since reset in units of 1/33 ns; the global tick is a 33rd of it. -/
  quanta : Nat
  /-- Draws of free values made so far: the model's own field (log entry 3). -/
  draws : Nat
  /-- Home memory by physical byte address (R370); canonical (`Memory.wf`). -/
  mem : List Host.Cell
  /-- Poisoned home lines (R348). -/
  poison : List Nat
  /-- The die caches (R259). -/
  dies : Tab Die
  /-- Pages that translations have found, the latest first: whose leaf entries give the lines' schemes (R268). -/
  leaves : List Leaf
  /-- The two metadata bits of each home line (R268); 0 where none is listed. -/
  lineMeta : Tab Nat
  /-- Errors that stand in the stores, and differences between redundant runs, to come (R347, R349). -/
  upsets : List Upset
  slips : List Slip
  /-- Error records of what this step has found, still to be written (R347). -/
  found : List ErrorRecord
  /-- What this step has found to be consumed, still to be charged: core, workgroup slot, STORE and WHERE (R345). -/
  charged : List (Nat × Nat × Nat × Nat)
  foldq : List FoldRec
  /-- Fold notices that have reached their homes so far (R234, R266). -/
  arrivals : Nat
  pub : Tab PubSlot
  replay : List ReplayEntry
  /-- Atomics of other packages that wait at this one's homes, and what these have answered. -/
  inbound : List Inbound
  answers : List LinkAnswer
  shoots : List Shootdown
  /-- In-place writes from outside the cores that wait for shoot-downs (R373). -/
  arriving : List (Nat × List Byte)
  vis : Tab VI
  launches : List Launch
  queues : Tab QueueState
  saved : List Saved
  nextHandle : Nat
  errors : List ErrorRecord
  msis : List Msi
  islands : Tab Island
  scrub : Tab Scrubber
  draw : Nat
  /-- Power limit in watts (R369). -/
  limit : Nat
  power : Power
  stopTick : W64
  /-- Every clock domain is gated (R353). -/
  gated : Bool
  domainWord : W64
  ports : Tab Port
  lost : List Nat
  requesters : Tab Nat
  pcie : List PcieAnswer
  security : Security
  deriving DecidableEq, Repr

/-! Reset -/

/-- A byte of memory that nothing has written reads as 0 (log entry 6). -/
def memDefault : Byte := 0

/-- The canonical form of memory: addresses strictly rising, no entry equal to what an unlisted address reads as. -/
def Memory.wf (m : List Host.Cell) : Bool := Tab.wf memDefault m

/-- A slice with nothing in it: not live (log entry 7). -/
def Slice.empty : Slice :=
  { num := 0, live := false, pc := 0, gang := 0, wait := .ready, waitSince := 0, fsz := 1, depth := 0, top := 2, low := 0
    spillTop := 0, bsBase := 0, bsLimit := 0, rows := [], hrows := [], s := [], b := [], p := [], m := []
    fstatus := 0, resume := 0, gates := [], mark := false, handler := none, pending := [], resting := false, stall := 0, owed := 0
    hazards := [], held := [], newSpillTop := none, unfenced := [], hunfenced := [], touched := [], pins := [], returning := false, aside := [], refillTo := none, coming := []
    unwound := none, logStalled := false, spilledRows := [], spilledAt := [] }

/-- A warp slot's contents before any warp starts there (log entry 7). -/
def Warp.empty : Warp :=
  { group := 0, idx := 0, rowB := 32, pipe := 0, age := 0, active := false, swap := 0, readySince := none
    hint := false, last := 0, slices := [], tok := [], bs := [], mteam := 0, asid := 0, domain := 0, preq := false
    handler := 0, start := 0, waited := 0, pend := [], nextId := 0, report := none, walk := none, stepping := none
    started := false, heldHalt := none, seed := 0 }

/-- A region record with every field zero. -/
def Region.empty : Region :=
  { vi := 0, table := { at_ := 0, base := 0, count := 0 }, index := 0, cls := 0, tickets := 1, asid := 0, domain := 0, faultDom := 0, handler := 0, gateTab := 0
    gateCount := 0, redund := false, dieMask := 0, deadline := 20000, logSize := 8, bsBase := 0, bsWin := 12
    ctxArea := 0, ctxSize := 0, chain := [] }

def Group.empty : Group :=
  { launch := 0, linear := 0, core := 0, x := 0, y := 0, z := 0, partition := 0, grans := [], slots := [], ended := []
    region := Region.empty, check := false, spad := [], acc := [], scale := [], seed := 0, bars := [], latch := []
    snapshot := none, committed := false, published := false, deadline := none, waiting := false, unfenced := []
    windows := [], rollbacks := 0, wide := false, saving := none, saveSeq := none, ending := none, counting := none, owed := [], fault := none }

/-- The trace registers after reset (Table 19.6). -/
def Trace.reset : Trace :=
  { en := false, count := 0, first := 0, reserved := 0, base := 0, size := 0, write := 0, read := 0, sync := 0
    tick := 0, owed := true, syncTick := 0, dropped := 0, firstDrop := 0, lastDrop := 0, packets := [], atStart := [], startTick := 0 }

/-- A core after reset: no warp, empty caches, an empty log whose first segment is number 1, counters zero. -/
def Core.reset : Core :=
  { warps := [], groups := [], l1 := [], uses := 0, overlay := [], openSeq := 1, segs := [], goal := 0, logAt := 0, logSize := 0
    cursors := [], icache := [], icOrder := [], icBad := [], begun := [], tlb := [], copyq := [], chunks := [], mq := [], windows := [], nextReq := 0
    ctr := [], seen := [], frozen := false, trace := Trace.reset, watch := [], dacc := [], ddata := [], moored := []
    shoot := [], undertow := [], portLast := 3, mooring := 0 }

/-- Virtual-interface registers after reset (Table 21.6). -/
def VI.reset : VI :=
  { dies := 0, regtab := 0, regcnt := 0, asidcnt := 0, asidbase := 0, asidtab := 0, msiaddr := 0, msidata := 0
    evbase := 0, ovf := false, evtail := 0, evhead := 0, evsize := 0, subseq := 0, substat := 0, ctl := 0
    holds := [] }

/-- An island's report after reset (Table 19.3): DAYS 0xFFFF, ISLAND its number. -/
def Island.reset (i : Nat) : Island := { wear := (0xFFFF000000000000 : W64) ||| BitVec.ofNat 64 (i * 256), steps := 0, hot := 0 }

def Scrubber.reset : Scrubber := { next := 0, passes := 0, corrected := [] }

def Port.reset : Port := { up := false, peer := 0, clash := false, expect := 0, retries := 0, lastAck := 0 }

def QueueState.reset : QueueState := { pass := 0, eligible := false, since := none, holds := false }

/-- The publication table after reset (Table 13.5): nothing published; the log area of core c stands at an address
the spec does not give (log entry 8). -/
def PubSlot.reset (c : Nat) : PubSlot :=
  { seq := 0, offset := 0, ebbSeq := 0, ebbOffset := 0, base := 0x8000000000 + c * 0x40000000, size := 0 }

def Security.reset : Security :=
  { loaded := [], fuse := 0, refused := 0, reports := [], management := false, started := false, lastCause := none, services := [], barred := [] }

/-- The machine right after reset: nothing resident, nothing launched, memory with nothing listed. -/
def State.reset : State :=
  { cores := [], cur := none, ir := [], probe := none, agenda := [], turn := 0, cycle := 0, quanta := 0, draws := 0, mem := []
    poison := [], dies := [], leaves := [], lineMeta := [], upsets := [], slips := [], found := [], charged := [], foldq := [], arrivals := 0, pub := [], replay := [], inbound := [], answers := [], shoots := [], arriving := [], vis := [], launches := [], queues := []
    saved := [], nextHandle := 1, errors := [], msis := [], islands := [], scrub := [], draw := 0
    limit := 3200, power := .running, stopTick := 0, gated := false, domainWord := 0, ports := [], lost := []
    requesters := [], pcie := [], security := Security.reset }

end Sys2Proof.Machine
end

