-- ==== Sys2Proof/Machine/Regs.lean ====
section
/-! DEFINITION. Registers: the frame mapping of R25, the header row of Table 1.7, reads and writes of every register
kind with the early-read windows of R73, R74 and R198, and the executing lanes of R75. -/

namespace Sys2Proof.Machine

/-- Bits `lo+w−1:lo` of a number. -/
def bitsAt (x lo w : Nat) : Nat := x / 2 ^ lo % 2 ^ w

/-- Bits `hi:lo` of a word, as a number. -/
def BitVec.field {n : Nat} (x : BitVec n) (hi lo : Nat) : Nat := bitsAt x.toNat lo (hi + 1 - lo)

/-- The numbers of the set bits of a mask below `n`. -/
def setBits {k : Nat} (n : Nat) (m : BitVec k) : List Nat := (List.range n).filter (fun i => m.getLsbD i)

/-- The mask with the listed bits set. -/
def maskOf (k : Nat) (l : List Nat) : BitVec k := l.foldl (fun a i => a ||| BitVec.ofNat k (2 ^ i)) 0

/-- The slices of a gang, ascending. -/
def gangSlices (g : Mask8) : List Nat := setBits 8 g

/-- The gang leader (R12): the lowest slice. -/
def gangLeader (g : Mask8) : Nat := (gangSlices g).headD 0

/-- The lanes of a gang, ascending. -/
def gangLanes (g : Mask8) : List Nat := (List.range 32).filter (fun l => g.getLsbD (l / 4))

/-- The lanes of a gang as a mask. -/
def gangMask (g : Mask8) : Mask32 := maskOf 32 (gangLanes g)

/-! A row's four lanes (R24) -/

/-- Lane `l` of a row. -/
def rowLane (r : W128) (l : Nat) : W32 := BitVec.ofNat 32 (bitsAt r.toNat (32 * l) 32)

/-- A row from its four lanes. -/
def rowOf4 (f : Nat → W32) : W128 := (f 3) ++ (f 2) ++ (f 1) ++ (f 0)

/-- The row with the lanes of `mask` (four bits) taken from `new`. -/
def rowMerge (mask : BitVec 4) (old new : W128) : W128 :=
  rowOf4 (fun l => if mask.getLsbD l then rowLane new l else rowLane old l)

/-! The frame header row (Table 1.7) -/

def hdK (h : W128) : Nat := BitVec.field h 115 109
def hdEntry (h : W128) : BitVec 4 := BitVec.ofNat 4 (BitVec.field h 119 116)
def hdGate (h : W128) : Bool := h.getLsbD 120
def hdGroup (h : W128) : Bool := h.getLsbD 121
def hdCallerFsz (h : W128) : Nat := BitVec.field h 108 102
def hdRetSlot (h : W128) : Nat := BitVec.field h 101 99
def hdRetLine (h : W128) : Nat := BitVec.field h 50 0

/-- A header row with the fields given. -/
def mkHeader (retLine retSlot callerFsz k : Nat) (entry : BitVec 4) (gate group : Bool) : W128 :=
  BitVec.ofNat 128 (retLine % 2 ^ 51 + 2 ^ 99 * retSlot + 2 ^ 102 * callerFsz + 2 ^ 109 * k + 2 ^ 116 * entry.toNat
    + 2 ^ 120 * gate.toNat + 2 ^ 121 * group.toNat)

/-- R28: what makes RET refuse a header, `fsz` being the closing frame's size. -/
def hdLegal (h : W128) (fsz : Nat) : Bool :=
  BitVec.field h 127 122 = 0 && BitVec.field h 98 51 = 0 && decide (hdRetSlot h ≤ 4)
  && decide (1 ≤ hdCallerFsz h) && decide (hdCallerFsz h ≤ 64) && decide (hdK h ≤ fsz)

/-! The frame mapping (R25) -/

/-- The header row of the current frame. -/
def Slice.hdr (sl : Slice) (B : Nat) : W128 := Tab.get 0 sl.rows ((sl.top - 1) % B)

/-- FP, the ring index of the current frame's base (R25, R27). -/
def Slice.fp (sl : Slice) (B : Nat) : Nat := (sl.top + B - sl.fsz - 2) % B

/-- The ring row of frame register `i` (R25). -/
def Slice.ringRow (sl : Slice) (B i : Nat) : Nat :=
  (sl.top + B - sl.fsz - 2 + i + (if i < hdK (sl.hdr B) then 0 else 1)) % B

/-- FSZ as software reads it: 16 in a supervisor handler (R230). -/
def Slice.fszNow (sl : Slice) : Nat := if sl.handler.isSome then 16 else sl.fsz

/-- The lanes in which the frame's registers are defined (R29): the entry mask, all four lanes in the root frame, in a
handler and in a gate frame, whose rows R125 fills in every lane (log entry 15). -/
def Slice.definedLanes (sl : Slice) (B : Nat) : BitVec 4 :=
  if sl.depth = 0 || sl.handler.isSome || hdGate (sl.hdr B) then 15 else hdEntry (sl.hdr B)

/-! Early reads -/

/-- A 32-bit free value. -/
def free32 (seed key : Nat) : W32 := BitVec.ofNat 32 (Config.free seed key).toNat

/-- A free choice between two outcomes. -/
def freeBit (seed key : Nat) : Bool := (Config.free seed key).getLsbD 0

/-- Registers that hold one value for each lane of the slice: their lanes are written and read each on its own. -/
def RegKind.laned : RegKind → Bool
  | .row | .hrow | .p | .m => true
  | .s | .b | .fs | .sys => false

def RegKind.code : RegKind → Nat
  | .row => 0 | .hrow => 1 | .s => 2 | .b => 3 | .m => 4 | .p => 5 | .fs | .sys => 6

/-- A key for the free values of a register of slice `num`, below 4,000,000; larger multiples of that tell uses apart. -/
def regKey (num : Nat) (k : RegKind) (idx lane : Nat) : Nat := ((num * 7 + k.code) * 1024 + idx) * 64 + lane

def Hazard.on (h : Hazard) (k : RegKind) (idx : Nat) : Bool := h.kind = k && h.idx = idx

/-- The writes of a register still under way, newest first. -/
def Slice.hazardsOf (sl : Slice) (k : RegKind) (idx : Nat) : List Hazard := sl.hazards.filter (fun h => h.on k idx)

/-- A lane as a read may find it (R73, R74): for a fixed latency the value written, or the one before it, writes landing in
the order of their issue; for a variable latency the value there or, once there is one, the one to come. `pick` is the key
of the choices. -/
def laneRead (seed pick l : Nat) : List Hazard → W32 → W32
  | [], v => v
  | h :: t, v =>
    let other := freeBit seed (pick + 4000000 * (t.length + 8))
    if !h.lanes.getLsbD l || h.landed then laneRead seed pick l t v
    else if h.varLat then
      match h.new with
      | some n => if other then rowLane n l else laneRead seed pick l t v
      | none => laneRead seed pick l t v
    else if other then laneRead seed pick l t (rowLane h.old l)
    else v

/-- What a read returns of a register that holds `now`: in a stage's window a free value (R198), else each lane as
`laneRead` has it; a register that is not laned is chosen as one by each reader `at_`. -/
def hazardRead (sl : Slice) (seed : Nat) (k : RegKind) (idx at_ : Nat) (now : W128) : W128 :=
  match sl.hazardsOf k idx with
  | [] => now
  | hs =>
    rowOf4 (fun l =>
      if hs.any (fun h => h.window) then free32 seed (regKey sl.num k idx l + 4000000)
      else laneRead seed (regKey sl.num k idx (if k.laned then l else at_)) l hs (rowLane now l))

/-- A frame or handler row by register number, as a read of the slice returns it. -/
def Slice.readRow (sl : Slice) (B seed i : Nat) : W128 :=
  if sl.handler.isSome then hazardRead sl seed .hrow i 0 (Tab.get 0 sl.hrows i)
  else
    let r := sl.ringRow B i
    let v := hazardRead sl seed .row r 0 (Tab.get 0 sl.rows r)
    let d := sl.definedLanes B
    rowOf4 (fun l => if d.getLsbD l then rowLane v l else free32 seed (regKey sl.num .row r l + 4000000 * 3))

/-- A scalar register of a slice, as reader `at_` finds it: 0 for the gang, a lane's number plus one for that lane. -/
def Slice.readSAt (sl : Slice) (seed at_ i : Nat) : W64 :=
  BitVec.truncate 64 (hazardRead sl seed .s i at_ (BitVec.zeroExtend 128 (Tab.get 0 sl.s i)))

/-- A scalar register of a slice. -/
def Slice.readS (sl : Slice) (seed i : Nat) : W64 := sl.readSAt seed 0 i

/-- A buffer record of a slice. -/
def Slice.readB (sl : Slice) (seed i : Nat) : W128 := hazardRead sl seed .b i 0 (Tab.get 0 sl.b i)

/-- Four bits as a row, one for each lane. -/
def bitRow (v : BitVec 4) : W128 := rowOf4 (fun l => if v.getLsbD l then 1 else 0)

/-- The lowest bit of each lane of a row. -/
def rowBits (r : W128) : BitVec 4 := maskOf 4 ((List.range 4).filter (fun l => (rowLane r l).getLsbD 0))

/-- Packs the four lanes' bits of predicate `k` as a row. -/
def predRow (sl : Slice) (k : Nat) : W128 :=
  rowOf4 (fun l => if (Tab.get 0 sl.p l).getLsbD k then 1 else 0)

/-- Predicate `k` in lane `l` of the slice; p7 reads 1 (Table 1.1). -/
def Slice.readP (sl : Slice) (seed k l : Nat) : Bool :=
  if k = 7 then true else (rowLane (hazardRead sl seed .p k 0 (predRow sl k)) l).getLsbD 0

/-- The slice's own four bits of mask register `k` (R17). -/
def Slice.readM (sl : Slice) (seed k : Nat) : BitVec 4 :=
  match sl.hazardsOf .m k with
  | [] => Tab.get 0 sl.m k
  | _ => rowBits (hazardRead sl seed .m k 0 (bitRow (Tab.get 0 sl.m k)))

/-- A register's contents as a hazard holds them. -/
def Slice.peek (sl : Slice) (k : RegKind) (idx : Nat) : W128 :=
  match k with
  | .row => Tab.get 0 sl.rows idx
  | .hrow => Tab.get 0 sl.hrows idx
  | .s => BitVec.zeroExtend 128 (Tab.get 0 sl.s idx)
  | .b => Tab.get 0 sl.b idx
  | .m => bitRow (Tab.get 0 sl.m idx)
  | .p => predRow sl idx
  | .fs => BitVec.zeroExtend 128 sl.fstatus
  | .sys => 0

/-! Writes under way -/

/-- What is left of an earlier write whose register a later one has written in some lanes, for all to see: nothing where it
has no lane left (an idle destination, where all four are written). FSTATUS gathers flags, and a producer covers none (R139). -/
def Hazard.covered (h : Hazard) (lanes : BitVec 4) : Option Hazard :=
  if h.window || (h.varLat && !h.landed) || h.kind = .fs then some h
  else
    let l := h.lanes &&& ~~~ lanes
    if l = 0 && (h.lanes ≠ 0 || lanes = 15) then none else some { h with lanes := l }

/-- Covers the writes of one register. -/
def coverHazards (k : RegKind) (idx : Nat) (lanes : BitVec 4) (hs : List Hazard) : List Hazard :=
  hs.filterMap (fun h => if h.on k idx then h.covered lanes else some h)

/-- Flags that FSTATUS holds for good: the producers under way add them no more (R139). -/
def flagsCertain (f : W32) (hs : List Hazard) : List Hazard :=
  hs.map (fun h => if h.kind = .fs && !h.varLat then { h with old := h.old &&& ~~~ (BitVec.zeroExtend 128 f) } else h)

/-- The flags that the ended ones of some writes of FSTATUS leave there. -/
def flagsEnded (ended : Hazard → Bool) (hs : List Hazard) : W32 :=
  hs.foldl (fun f h => if ended h && h.kind = .fs && !h.varLat then f ||| rowLane h.old 0 else f) 0

/-- Takes out the writes that are over; each covers the older ones of its register. -/
def settleHazards (ended : Hazard → Bool) (hs : List Hazard) : List Hazard :=
  flagsCertain (flagsEnded ended hs)
    (hs.foldr (fun h t => if ended h then coverHazards h.kind h.idx h.lanes t else h :: t) [])

/-- Notes a fixed-latency write of some lanes over contents `old`; `left` is its latency, from which the stall counts of
the writer and of later instructions are counted off (R73). -/
def Slice.noteFixed (sl : Slice) (k : RegKind) (idx left : Nat) (lanes : BitVec 4) (old : W128) (born : Nat) : Slice :=
  { sl with hazards :=
      if left = 0 then coverHazards k idx lanes sl.hazards
      else { kind := k, idx := idx, lanes := lanes, old := old, new := none, left := left, tok := 0, varLat := false
             landed := false, window := false, born := born }
        :: sl.hazards.filterMap (fun h => if h.on k idx && h.landed then h.covered lanes else some h) }

/-- Notes that lanes of a register are the destination of a variable-latency instruction, with the value to come where it is
known (R74); the lanes of one instruction's write are one hazard. -/
def Slice.noteVar (sl : Slice) (k : RegKind) (idx : Nat) (lanes : BitVec 4) (tok : Nat) (new : Option W128) (born : Nat) : Slice :=
  match sl.hazards with
  | h :: t =>
    if h.on k idx && h.varLat && !h.landed && h.born = born && h.tok = tok then
      { sl with hazards := { h with
          lanes := h.lanes ||| lanes
          new := match h.new, new with | some a, some b => some (rowMerge lanes a b) | _, _ => none } :: t }
    else { sl with hazards := noted :: sl.hazards.filterMap fallen }
  | [] => { sl with hazards := [noted] }
where
  noted : Hazard :=
    { kind := k, idx := idx, lanes := lanes, old := 0, new := new, left := 0, tok := tok, varLat := true, landed := false
      window := false, born := born }
  fallen (h : Hazard) : Option Hazard := if h.on k idx && h.landed then h.covered lanes else some h

/-- A variable-latency result stands in its register, over the older writes of its lanes; the note stays for the checking
scoreboard until a wait on its token (R74). -/
def Slice.noteLanded (sl : Slice) (k : RegKind) (idx born : Nat) : Slice :=
  { sl with hazards := sl.hazards.foldr (fun h t =>
      if h.on k idx && h.varLat && h.born = born then
        { h with landed := true } :: (if h.landed then t else t.filterMap (fun q =>
          if !q.on k idx then some q
          else if !q.landed then q.covered h.lanes
          else if k = .fs && q.tok = h.tok then none else some q))
      else h :: t) [] }

/-- The value that lanes of a variable-latency destination are to receive is known (R74). -/
def Slice.noteKnown (sl : Slice) (k : RegKind) (idx : Nat) (lanes : BitVec 4) (born : Nat) (v : W128) : Slice :=
  { sl with hazards := sl.hazards.map (fun h =>
      if h.on k idx && h.varLat && !h.landed && h.born = born then { h with new := some (rowMerge lanes (h.new.getD 0) v) } else h) }

/-! Writes -/

/-- Adds a row to the list of those written. -/
def touch (l : List (Bool × Nat)) (r : Bool × Nat) : List (Bool × Nat) := if l.contains r then l else r :: l

/-- Puts a row into the ring: every write of a ring row goes through here. -/
def Slice.putRow (sl : Slice) (r : Nat) (v : W128) : Slice :=
  { sl with rows := Tab.set 0 sl.rows r v, touched := touch sl.touched (false, r) }

/-- Puts a handler row. -/
def Slice.putHrow (sl : Slice) (i : Nat) (v : W128) : Slice :=
  { sl with hrows := Tab.set 0 sl.hrows i v, touched := touch sl.touched (true, i) }

/-- Records a row's old contents for stages that read it without an MFENCE (R199). -/
def Slice.noteUnfenced (sl : Slice) (r : Nat) (old new : W128) : Slice :=
  if old = new || (Tab.find r sl.unfenced).isSome then sl else { sl with unfenced := Tab.put sl.unfenced r old }

/-- Records a handler row's old contents for such stages (R199). -/
def Slice.noteHunfenced (sl : Slice) (i : Nat) (old new : W128) : Slice :=
  if old = new || (Tab.find i sl.hunfenced).isSome then sl else { sl with hunfenced := Tab.put sl.hunfenced i old }

/-- Writes lanes of a ring row, or of a handler row, by its number there. -/
def Slice.mergeRow (sl : Slice) (hrow : Bool) (r : Nat) (mask : BitVec 4) (v : W128) : Slice :=
  let old := Tab.get 0 (if hrow then sl.hrows else sl.rows) r
  let new := rowMerge mask old v
  if hrow then (sl.noteHunfenced r old new).putHrow r new else (sl.noteUnfenced r old new).putRow r new

/-- The number of frame register `i`'s row, among the handler rows in a handler. -/
def Slice.rowAt (sl : Slice) (B i : Nat) : Nat := if sl.handler.isSome then i else sl.ringRow B i

/-- Writes lanes `mask` of frame register `i` with a fixed latency of which `left` cycles are missing. -/
def Slice.writeRow (sl : Slice) (B seed left i : Nat) (mask : BitVec 4) (v : W128) : Slice :=
  let h := sl.handler.isSome
  let r := sl.rowAt B i
  let k : RegKind := if h then .hrow else .row
  (sl.noteFixed k r left mask (sl.peek k r) seed).mergeRow h r mask v

def Slice.writeS (sl : Slice) (seed left i : Nat) (v : W64) : Slice :=
  { (sl.noteFixed .s i left 15 (sl.peek .s i) seed) with s := Tab.set 0 sl.s i v }

def Slice.writeB (sl : Slice) (seed left i : Nat) (v : W128) : Slice :=
  { (sl.noteFixed .b i left 15 (sl.peek .b i) seed) with b := Tab.set 0 sl.b i v }

/-- Writes predicate `k` in the lanes of `mask`; a write of p7 has no effect (R81). -/
def Slice.writeP (sl : Slice) (seed left k : Nat) (mask v : BitVec 4) : Slice :=
  if k = 7 || mask = 0 then sl
  else
    let p' := (List.range 4).foldl (fun t l =>
      if mask.getLsbD l then
        let o := Tab.get 0 t l
        Tab.set 0 t l (if v.getLsbD l then o ||| BitVec.ofNat 8 (2 ^ k) else o &&& ~~~ (BitVec.ofNat 8 (2 ^ k)))
      else t) sl.p
    { (sl.noteFixed .p k left mask (sl.peek .p k) seed) with p := p' }

/-- Writes the slice's own bits of mask register `k`; m0 changes at once (R110). -/
def Slice.writeM (sl : Slice) (seed left k : Nat) (v : BitVec 4) : Slice :=
  { (sl.noteFixed .m k (if k = 0 then 0 else left) 15 (sl.peek .m k) seed) with m := Tab.set 0 sl.m k v }

/-- ORs flags into FSTATUS (R23). -/
def Slice.orFlags (sl : Slice) (f : W32) : Slice :=
  { sl with fstatus := sl.fstatus ||| f, hazards := flagsCertain f sl.hazards }

/-- The flags that a producer under way adds to those before it: of a fixed latency its own, which stand in FSTATUS already, of
a variable latency those to come. -/
def Hazard.flags (h : Hazard) : W32 :=
  if h.landed then 0
  else if h.varLat then (match h.new with | some n => rowLane n 0 | none => 0)
  else rowLane h.old 0

/-- FSTATUS less the flags that producers under way have put there (R139). -/
def Slice.flagsBefore (sl : Slice) : W32 :=
  sl.fstatus &&& ~~~ ((sl.hazardsOf .fs 0).foldl (fun a h => if h.varLat then a else a ||| h.flags) 0)

/-- FSTATUS as a read may find it (R139): each flag as before or as after each producer. -/
def flagsRead (seed key : Nat) : List Hazard → W32 → W32
  | [], v => v
  | h :: t, v => flagsRead seed key t v ||| (h.flags &&& free32 seed (key + 4000000 * (t.length + 8)))

/-- A system register that holds `now` as a read of the slice returns it: the value there, or one that MTS has still to write
(R74, R211). -/
def Slice.readSys (sl : Slice) (seed n : Nat) (now : W64) : W64 :=
  BitVec.truncate 64 (hazardRead sl seed .sys n 0 (BitVec.zeroExtend 128 now))

/-- Flags of which MTS has a new value still to write: each as before or after it. -/
def flagsSet (seed key : Nat) : List Hazard → W32 → W32
  | [], v => v
  | h :: t, v =>
    let pick := free32 seed (key + 4000000 * (t.length + 8))
    let v := flagsSet seed key t v
    if h.landed then v else match h.new with
      | some n => (v &&& ~~~ pick) ||| (rowLane n 0 &&& pick)
      | none => v

/-- FSTATUS as a read returns it. -/
def Slice.readFs (sl : Slice) (seed : Nat) : W32 :=
  flagsSet seed (regKey sl.num .sys 0x13 0) (sl.hazardsOf .sys 0x13)
    (flagsRead seed (regKey sl.num .fs 0 0) (sl.hazardsOf .fs 0) sl.flagsBefore)

/-- ORs the flags of a fixed-latency instruction, visible after its latency (R139): its note holds those that no earlier
producer has put there for good. -/
def Slice.raise (sl : Slice) (seed left : Nat) (f : W32) : Slice :=
  { (sl.noteFixed .fs 0 left 15 (BitVec.zeroExtend 128 (f &&& ~~~ sl.flagsBefore)) seed) with fstatus := sl.fstatus ||| f }

/-- MTS writes FSTATUS: the flags of the producers issued before it are gone, those of later ones stand (R139, R211). -/
def Slice.setFlags (sl : Slice) (born : Nat) (v : W32) : Slice :=
  let hs := sl.hazards.map (fun h => if h.kind = .fs && !h.varLat then
      { h with old := if h.born ≤ born then 0 else h.old &&& ~~~ (BitVec.zeroExtend 128 v) } else h)
  { sl with hazards := hs, fstatus := v ||| flagsEnded (fun _ => true) hs }

/-! Warps -/

def Warp.slice (w : Warp) (j : Nat) : Slice := Tab.get Slice.empty w.slices j

def Warp.setSlice (w : Warp) (j : Nat) (sl : Slice) : Warp := { w with slices := Tab.put w.slices j sl }

/-- Changes every slice of a gang. -/
def Warp.onGang (w : Warp) (g : Mask8) (f : Nat → Slice → Slice) : Warp :=
  (gangSlices g).foldl (fun w j => w.setSlice j (f j (w.slice j))) w

/-- The live slices of a warp. -/
def Warp.live (w : Warp) : Mask8 := maskOf 8 ((List.range 8).filter (fun j => (w.slice j).live))

/-- The gangs of a warp in ascending order of their lowest slice (R9, R13). -/
def Warp.gangs (w : Warp) : List Mask8 :=
  (List.range 8).filterMap (fun j =>
    let sl := w.slice j
    if sl.live && gangLeader sl.gang = j then some sl.gang else none)

/-- The m0 bits of a gang's lanes as they stand. -/
def Warp.m0 (w : Warp) (g : Mask8) : Mask32 :=
  (gangSlices g).foldl (fun a j =>
    a ||| (BitVec.zeroExtend 32 ((w.slice j).readM w.seed 0) <<< (4 * j))) 0

/-- A mask register as the gang reads it (R17). -/
def Warp.readM (w : Warp) (g : Mask8) (k : Nat) : Mask32 :=
  (gangSlices g).foldl (fun a j =>
    a ||| (BitVec.zeroExtend 32 ((w.slice j).readM w.seed k) <<< (4 * j))) 0

/-- The guard value of a lane: p-register GUARD XOR GNEG (R75). -/
def Warp.guard (w : Warp) (h : Header) (l : Nat) : Bool :=
  xor ((w.slice (l / 4)).readP w.seed h.guard.toNat (l % 4)) h.gneg

/-- Frame register `i` in lane `l`. -/
def Warp.readF (w : Warp) (l i : Nat) : W32 := rowLane ((w.slice (l / 4)).readRow w.rowB w.seed i) (l % 4)

/-- Scalar register `i` as lane `l` of the gang reads it: the leader's copy (R12). -/
def Warp.readSLane (w : Warp) (g : Mask8) (l i : Nat) : W64 := (w.slice (gangLeader g)).readSAt w.seed (l + 1) i

/-- Scalar register `i` as the gang reads it: the leader's copy (R12). -/
def Warp.readS (w : Warp) (g : Mask8) (i : Nat) : W64 := (w.slice (gangLeader g)).readS w.seed i

/-- Buffer record `i` as the gang reads it (R12). -/
def Warp.readB (w : Warp) (g : Mask8) (i : Nat) : W128 := (w.slice (gangLeader g)).readB w.seed i

/-- Predicate `k` in lane `l`. -/
def Warp.readP (w : Warp) (l k : Nat) : Bool := (w.slice (l / 4)).readP w.seed k (l % 4)

/-- The lanes that execute an instruction (R75). -/
def Warp.execLanes (w : Warp) (g : Mask8) (h : Header) : Mask32 :=
  let m := w.m0 g
  maskOf 32 ((gangLanes g).filter (fun l => m.getLsbD l && w.guard h l))

/-- Whether an effect of a slice happens (R75): some lane executes, or, where the slice's m0 bits are all clear, some
lane passes the guard. -/
def Warp.sliceActs (w : Warp) (h : Header) (j : Nat) : Bool :=
  let m := (w.slice j).readM w.seed 0
  (List.range 4).any (fun i => (m = 0 || m.getLsbD i) && w.guard h (4 * j + i))

/-- Whether an effect of the gang happens (R75). -/
def Warp.gangActs (w : Warp) (g : Mask8) (h : Header) : Bool :=
  let m := w.m0 g
  (gangLanes g).any (fun l => (m = 0 || m.getLsbD l) && w.guard h l)

/-- The four bits of a lane mask that slice `j` holds. -/
def sliceBits (m : Mask32) (j : Nat) : BitVec 4 := BitVec.ofNat 4 (bitsAt m.toNat (4 * j) 4)

/-- Writes frame register `i` in the lanes of `mask`, lane `l` receiving `v l`. -/
def Warp.writeF (w : Warp) (left i : Nat) (mask : Mask32) (v : Nat → W32) : Warp :=
  (List.range 8).foldl (fun w j =>
    let m := sliceBits mask j
    if m = 0 then w
    else w.setSlice j ((w.slice j).writeRow w.rowB w.seed left i m (rowOf4 (fun l => v (4 * j + l))))) w

/-- Writes an s-register in every slice of the gang (R12). -/
def Warp.writeS (w : Warp) (g : Mask8) (left i : Nat) (v : W64) : Warp :=
  w.onGang g (fun _ sl => sl.writeS w.seed left i v)

/-- Writes a buffer record in every slice of the gang (R12). -/
def Warp.writeB (w : Warp) (g : Mask8) (left i : Nat) (v : W128) : Warp :=
  w.onGang g (fun _ sl => sl.writeB w.seed left i v)

/-- Writes predicate `k` in the lanes of `mask`. -/
def Warp.writeP (w : Warp) (left k : Nat) (mask : Mask32) (v : Nat → Bool) : Warp :=
  (List.range 8).foldl (fun w j =>
    let m := sliceBits mask j
    if m = 0 then w
    else w.setSlice j ((w.slice j).writeP w.seed left k m
      (maskOf 4 ((List.range 4).filter (fun l => v (4 * j + l)))))) w

/-- Writes the gang's bits of a mask register (R17). -/
def Warp.writeM (w : Warp) (g : Mask8) (left k : Nat) (v : Mask32) : Warp :=
  w.onGang g (fun j sl => sl.writeM w.seed left k (sliceBits v j))

/-- ORs flags into FSTATUS of every slice of the gang (R23). -/
def Warp.orFlags (w : Warp) (g : Mask8) (f : W32) : Warp := if f = 0 then w else w.onGang g (fun _ sl => sl.orFlags f)

/-- ORs the flags of a scalar form into FSTATUS of every slice of the gang (R139). -/
def Warp.raise (w : Warp) (g : Mask8) (left : Nat) (f : W32) : Warp := w.onGang g (fun _ sl => sl.raise w.seed left f)

/-- ORs each executing lane's flags into its own slice's FSTATUS (R23, R139). -/
def Warp.raiseLanes (w : Warp) (left : Nat) (mask : Mask32) (f : Nat → W32) : Warp :=
  (List.range 8).foldl (fun w j =>
    let fl := (List.range 4).foldl (fun a l => if mask.getLsbD (4 * j + l) then a ||| f (4 * j + l) else a) 0
    if sliceBits mask j = 0 then w else w.setSlice j ((w.slice j).raise w.seed left fl)) w

/-- A write of fixed latency. -/
def Hazard.fixed (h : Hazard) : Bool := !h.varLat && !h.window

/-- Counts the stall count of the instruction issued last off the hazards, when the slice's gang issues again; a
fixed-latency result whose latency has passed is no hazard (R73). -/
def Slice.age (sl : Slice) (stall : Nat) : Slice :=
  { sl with owed := stall + 1
            hazards := (settleHazards (fun h => h.fixed && decide (h.left ≤ sl.owed)) sl.hazards).map (fun h =>
              if h.fixed then { h with left := h.left - sl.owed } else h) }

/-- A wait to level 0 on token `k`: it ends hazards (R74), and what copy requests have written is seen complete (R220). -/
def Warp.clearToken (w : Warp) (k : Nat) : Warp :=
  { w with waited := w.waited ||| BitVec.ofNat 6 (2 ^ k), slices := w.slices.map (fun (j, sl) =>
      (j, { sl with hazards := settleHazards (fun h => !h.window && h.tok = k + 1) sl.hazards })) }

/-- A place's register, as hazards know it. -/
def Place.reg : Place → Nat × RegKind × Nat
  | .row j r _ => (j, .row, r)
  | .hrow j i _ => (j, .hrow, i)
  | .sreg j i => (j, .s, i)

/-- The lanes of it that a place takes. -/
def Place.lanes : Place → BitVec 4
  | .row _ _ l | .hrow _ _ l => BitVec.ofNat 4 (2 ^ l)
  | .sreg _ _ => 15

/-- The value a place receives, as a hazard of its register holds it. -/
def Place.filled (p : Place) (v : W64) : W128 :=
  match p with
  | .row _ _ _ | .hrow _ _ _ => rowOf4 (fun _ => BitVec.truncate 32 v)
  | .sreg _ _ => BitVec.zeroExtend 128 v

/-- Writes the low bits of a value to a place. -/
def Warp.writePlace (w : Warp) (p : Place) (v : W64) : Warp :=
  match p with
  | .row j r l => w.setSlice j ((w.slice j).mergeRow false r (BitVec.ofNat 4 (2 ^ l)) (rowOf4 (fun _ => BitVec.truncate 32 v)))
  | .hrow j i l => w.setSlice j ((w.slice j).mergeRow true i (BitVec.ofNat 4 (2 ^ l)) (rowOf4 (fun _ => BitVec.truncate 32 v)))
  | .sreg j i => w.setSlice j { w.slice j with s := Tab.set 0 (w.slice j).s i v }

/-- The place of frame register `i` in lane `l` as the frame stands. -/
def Warp.placeF (w : Warp) (l i : Nat) : Place :=
  let sl := w.slice (l / 4)
  if sl.handler.isSome then .hrow (l / 4) i (l % 4) else .row (l / 4) (sl.ringRow w.rowB i) (l % 4)

/-- The places of scalar register `i` of a gang. -/
def placesS (g : Mask8) (i : Nat) : List Place := (gangSlices g).map (fun j => .sreg j i)

/-- Marks places as destinations in flight, with the values to come where they are known. The places of one register stand
side by side once they are gathered by register, so that they make one hazard. -/
def Warp.notePlaces (w : Warp) (tok : Nat) (ps : List (Place × Option W64)) : Warp :=
  (((ps.map (fun p => p.1.reg)).dedup).flatMap (fun r => ps.filter (fun p => p.1.reg = r))).foldl (fun w p =>
    let (j, k, i) := p.1.reg
    w.setSlice j ((w.slice j).noteVar k i p.1.lanes tok (p.2.map p.1.filled) w.seed)) w

/-- The values that places are to receive have come back; they do not stand there yet (R74). -/
def Warp.fillPlaces (w : Warp) (born : Nat) (vs : List (Place × W64)) : Warp :=
  vs.foldl (fun w e => let (j, k, i) := e.1.reg; w.setSlice j ((w.slice j).noteKnown k i e.1.lanes born (e.1.filled e.2))) w

/-- Marks places as written. -/
def Warp.landPlaces (w : Warp) (born : Nat) (ps : List Place) : Warp :=
  ps.foldl (fun w p => let (j, k, i) := p.reg; w.setSlice j ((w.slice j).noteLanded k i born)) w

end Sys2Proof.Machine
end

