-- ==== Sys2Proof/Machine/Flags.lean ====
section
/-! DEFINITION. Integer values under a type (R93, R94), the carry and range predicates of R95, and the FSTATUS flags
(R58, Table 2.5). -/

namespace Sys2Proof.Machine

/-! Values under a type -/

/-- The low `w` bits of a word, as a number. -/
def lowBits (t : BitVec 4) (x : W64) : Nat := x.toNat % 2 ^ tyWidth t

/-- The integer a type reads in a word: signed for .s, unsigned for .b (R93, R96). -/
def intOf (t : BitVec 4) (x : W64) : Int :=
  let u := lowBits t x
  if tySigned t && decide (2 ^ (tyWidth t - 1) ≤ u) then (u : Int) - 2 ^ tyWidth t else (u : Int)

/-- The low w bits of an integer, extended to 64 bits under the type (R93). -/
def extTo (t : BitVec 4) (x : Int) : W64 :=
  let u := (x % (2 ^ tyWidth t : Nat)).toNat
  if tySigned t && decide (2 ^ (tyWidth t - 1) ≤ u) then BitVec.ofNat 64 (u + (2 ^ 64 - 2 ^ tyWidth t)) else BitVec.ofNat 64 u

/-- The least and the greatest value of a type (R94). -/
def tyLo (t : BitVec 4) : Int := if tySigned t then -(2 ^ (tyWidth t - 1)) else 0
def tyHi (t : BitVec 4) : Int := if tySigned t then 2 ^ (tyWidth t - 1) - 1 else 2 ^ tyWidth t - 1

/-- The exact result clamped to the type's range (R94). -/
def clampTo (t : BitVec 4) (x : Int) : Int := max (tyLo t) (min x (tyHi t))

/-- The exact result lies outside the type's range (R95). -/
def outOfRange (t : BitVec 4) (x : Int) : Bool := decide (x < tyLo t) || decide (tyHi t < x)

/-! Carry and range (R95) -/

/-- A result and the predicate written beside it. -/
structure AluOut where
  val : W64
  flag : Bool
  deriving DecidableEq, Repr

/-- A result that writes no predicate. -/
def AluOut.plain (v : W64) : AluOut := { val := v, flag := false }

/-- Narrowing of an exact result: a clamp or a wrap (R94), extended under R93. -/
def narrow (t : BitVec 4) (sat : Bool) (x : Int) : W64 := extTo t (if sat then clampTo t x else x)

/-- A result whose predicate is the range flag. -/
def rangeOut (t : BitVec 4) (sat : Bool) (x : Int) : AluOut := { val := narrow t sat x, flag := outOfRange t x }

/-- ADD and ADDI: with SAT 0 the predicate is the unsigned carry out of bit w − 1. -/
def addOut (t : BitVec 4) (sat : Bool) (a b : W64) (cin : Bool) : AluOut :=
  let x := intOf t a + intOf t b + cin.toNat
  { val := narrow t sat x
    flag := if sat then outOfRange t x else decide (2 ^ tyWidth t ≤ lowBits t a + lowBits t b + cin.toNat) }

/-- SUB: with SAT 0 the predicate is the unsigned borrow. -/
def subOut (t : BitVec 4) (sat : Bool) (a b : W64) (cin : Bool) : AluOut :=
  let x := intOf t a - intOf t b - cin.toNat
  { val := narrow t sat x
    flag := if sat then outOfRange t x else decide (lowBits t a < lowBits t b + cin.toNat) }

/-! Compare conditions (Table 4.4) -/

/-- The outcome of a condition on two integers. -/
def condInt (c : Nat) (a b : Int) : Bool :=
  match c with
  | 0 => decide (a = b)
  | 1 => decide (a ≠ b)
  | 2 => decide (a < b)
  | 3 => decide (a ≤ b)
  | 4 => decide (b < a)
  | 5 => decide (b ≤ a)
  | _ => false

/-! FSTATUS (Tables 1.4 and 2.5) -/

def flNV : W32 := 1
def flDZ : W32 := 2
def flOF : W32 := 4
def flUF : W32 := 8
def flNX : W32 := 16
def flSAT : W32 := 32

end Sys2Proof.Machine
end

