-- ==== Sys2Proof/Machine/Float.lean ====
section
/-! DEFINITION. Floating-point and block floating-point arithmetic: decoding (R45), correct rounding with its flags
(R52, R53, Table 2.5), exact sums of products (R53, R56, R142), the one-operand functions (R148), comparison and
classification (R143–R146), conversions (R61, R63) and requantization (R59). Finite values are exact: a sign, a natural
mantissa and an exponent of two. -/

namespace Sys2Proof.Machine

/-! Formats and values -/

/-- A binary format: exponent bits and fraction bits (Table 2.1). -/
structure Fmt where
  eb : Nat
  mb : Nat
  deriving DecidableEq, Repr

def fp32 : Fmt := { eb := 8, mb := 23 }
def bf16 : Fmt := { eb := 8, mb := 7 }
def fp16 : Fmt := { eb := 5, mb := 10 }
def fp64 : Fmt := { eb := 11, mb := 52 }

/-- The float format of a code of Table 2.3. -/
def fmtOfCode (c : Nat) : Fmt :=
  match c with
  | 1 => bf16
  | 2 => fp16
  | 3 => fp64
  | _ => fp32

/-- The float format of a type of Table 3.10. -/
def fmtOfType (t : BitVec 4) : Fmt :=
  match t.toNat with
  | 5 => bf16
  | 6 => fp16
  | 7 => fp64
  | _ => fp32

/-- A value; `fin` is (−1)^neg · m · 2^e, a zero where m is 0. -/
inductive FVal where
  | nan (signalling : Bool)
  | inf (neg : Bool)
  | fin (neg : Bool) (m : Nat) (e : Int)
  deriving DecidableEq, Repr

def Fmt.bias (F : Fmt) : Nat := 2 ^ (F.eb - 1) - 1

/-- Exponent of the last fraction bit of a subnormal. -/
def Fmt.lowExp (F : Fmt) : Int := 1 - (F.bias : Int) - F.mb

/-- Encodings of +∞, of the sign bit and of the canonical NaN (Tables 2.1 and 2.2). -/
def Fmt.infBits (F : Fmt) : Nat := (2 ^ F.eb - 1) * 2 ^ F.mb
def Fmt.signBit (F : Fmt) : Nat := 2 ^ (F.eb + F.mb)
def Fmt.nanBits (F : Fmt) : Nat := F.infBits + 2 ^ (F.mb - 1)

/-- Width of an encoding. -/
def Fmt.width (F : Fmt) : Nat := 1 + F.eb + F.mb

/-- The value of an encoding (R45). -/
def Fmt.decode (F : Fmt) (x : Nat) : FVal :=
  let neg := bitsAt x (F.eb + F.mb) 1 = 1
  let ex := bitsAt x F.mb F.eb
  let fr := bitsAt x 0 F.mb
  if ex = 2 ^ F.eb - 1 then
    if fr = 0 then .inf neg else .nan (fr < 2 ^ (F.mb - 1))
  else if ex = 0 then .fin neg fr F.lowExp
  else .fin neg (2 ^ F.mb + fr) (F.lowExp + ex - 1)

def FVal.isNan : FVal → Bool | .nan _ => true | _ => false
def FVal.isSnan : FVal → Bool | .nan s => s | _ => false
def FVal.isInf : FVal → Bool | .inf _ => true | _ => false
def FVal.isZero : FVal → Bool | .fin _ 0 _ => true | _ => false
def FVal.neg : FVal → Bool | .nan _ => false | .inf n => n | .fin n _ _ => n

/-- The value with its sign inverted. -/
def FVal.negate : FVal → FVal
  | .nan s => .nan s
  | .inf n => .inf !n
  | .fin n m e => .fin (!n) m e

/-- An encoding with the flags its making raises. -/
structure FOut where
  bits : Nat
  flags : W32
  deriving DecidableEq, Repr

/-! Rounding (R52, R53) -/

/-- m · 2^e as a multiple of 2^q under a rounding mode: the multiple, and whether it is inexact. -/
def roundAt (rm : Nat) (neg : Bool) (m : Nat) (e q : Int) : Nat × Bool :=
  if q ≤ e then (m * 2 ^ (e - q).toNat, false)
  else
    let s := (q - e).toNat
    let d := m / 2 ^ s
    let r := m % 2 ^ s
    let half := 2 ^ (s - 1)
    let up := match rm with
      | 0 => decide (half < r) || (decide (r = half) && decide (d % 2 = 1))
      | 1 => false
      | 2 => neg && decide (r ≠ 0)
      | _ => !neg && decide (r ≠ 0)
    (if up then d + 1 else d, decide (r ≠ 0))

/-- Bits of a magnitude's sign. -/
def Fmt.sign (F : Fmt) (neg : Bool) : Nat := if neg then F.signBit else 0

/-- The result where a finite value overflows (Table 2.4). -/
def Fmt.overflow (F : Fmt) (rm : Nat) (neg : Bool) : Nat :=
  let toMax := rm = 1 || (rm = 2 && !neg) || (rm = 3 && neg)
  F.sign neg + (if toMax then F.infBits - 1 else F.infBits)

/-- RND of the nonzero value (−1)^neg · m · 2^e, with OF, UF and NX (R53: tininess after rounding). -/
def Fmt.round (F : Fmt) (rm : Nat) (neg : Bool) (m : Nat) (e : Int) : FOut :=
  if m = 0 then { bits := F.sign neg, flags := 0 }
  else
    let free : Int := e + Nat.log2 m - F.mb
    let q := max free F.lowExp
    let (mant, inexact) := roundAt rm neg m e q
    let bits := ((q - F.lowExp).toNat) * 2 ^ F.mb + mant
    if F.infBits ≤ bits then { bits := F.overflow rm neg, flags := flOF ||| flNX }
    else
      let tiny := decide (free < F.lowExp) && decide (free + 1 < F.lowExp ∨ (roundAt rm neg m e free).1 < 2 ^ (F.mb + 1))
      { bits := F.sign neg + bits
        flags := if inexact then flNX ||| (if tiny then flUF else 0) else 0 }

/-! Exact sums of products -/

/-- The exact product of two finite values. -/
def FVal.mul : FVal → FVal → FVal
  | .fin n1 m1 e1, .fin n2 m2 e2 => .fin (xor n1 n2) (m1 * m2) (e1 + e2)
  | a, b => if a.isNan || b.isNan then .nan false else .inf (xor a.neg b.neg)

/-- The exact sum of finite values, as an integer multiple of a power of two. -/
def exactSum (ts : List FVal) : Int × Int :=
  let lo := ts.foldl (fun a t => match t with | .fin _ m e => if m = 0 then a else min a e | _ => a) 100000
  (ts.foldl (fun a t => match t with
    | .fin n m e => let v : Int := m * 2 ^ (e - lo).toNat; if n then a - v else a + v
    | _ => a) 0, lo)

/-- RND of a sum of finite values; the sign of an exact zero follows R53 and R142. -/
def Fmt.sumRound (F : Fmt) (rm : Nat) (ts : List FVal) : FOut :=
  let (v, lo) := exactSum ts
  if v = 0 then
    let same := ts.all (fun t => t.isZero) && (ts.all FVal.neg || ts.all (fun t => !t.neg))
    let neg := if same then ts.any FVal.neg else decide (rm = 2)
    { bits := F.sign neg, flags := 0 }
  else F.round rm (decide (v < 0)) v.natAbs lo

/-- The canonical NaN with NV or without (R46, Table 2.5). -/
def Fmt.nanOut (F : Fmt) (nv : Bool) : FOut := { bits := F.nanBits, flags := if nv then flNV else 0 }

/-- RND(EXACT(sum of products and addends)) with the special values in the order of R56. -/
def Fmt.dot (F : Fmt) (rm : Nat) (ps : List (FVal × FVal)) (as : List FVal) : FOut :=
  let ops := ps.flatMap (fun p => [p.1, p.2]) ++ as
  if ops.any FVal.isNan then F.nanOut (ops.any FVal.isSnan)
  else
    let bad := ps.any (fun p => (p.1.isInf && p.2.isZero) || (p.1.isZero && p.2.isInf))
    let ts := ps.map (fun p => p.1.mul p.2) ++ as
    let infs := ts.filter FVal.isInf
    if bad || (infs.any FVal.neg && infs.any (fun t => !t.neg)) then F.nanOut true
    else match infs with
      | t :: _ => { bits := F.sign t.neg + F.infBits, flags := 0 }
      | [] => F.sumRound rm ts

/-! Quotients, roots and the faithful functions -/

/-- The integer square root by binary digits from bit `i − 1` down. -/
def isqrtFrom (n : Nat) : Nat → Nat → Nat
  | 0, r => r
  | i + 1, r => if (r + 2 ^ i) * (r + 2 ^ i) ≤ n then isqrtFrom n i (r + 2 ^ i) else isqrtFrom n i r

/-- The greatest r with r² ≤ n. -/
def isqrt (n : Nat) : Nat := isqrtFrom n (Nat.log2 n / 2 + 1) 0

/-- RND(1 ÷ a) with the special cases of Table 6.5. -/
def Fmt.recip (F : Fmt) (rm : Nat) (a : FVal) : FOut :=
  match a with
  | .nan s => F.nanOut s
  | .inf n => { bits := F.sign n, flags := 0 }
  | .fin n m e =>
    if m = 0 then { bits := F.sign n + F.infBits, flags := flDZ }
    else
      let k := Nat.log2 m + F.mb + 4
      let q := 2 ^ k / m
      F.round rm n (2 * q + (if 2 ^ k % m = 0 then 0 else 1)) (-(k : Int) - e - 1)

/-- RND(√a) with the special cases of Table 6.5. -/
def Fmt.sqrt (F : Fmt) (rm : Nat) (a : FVal) : FOut :=
  match a with
  | .nan s => F.nanOut s
  | .inf n => if n then F.nanOut true else { bits := F.infBits, flags := 0 }
  | .fin n m e =>
    if m = 0 then { bits := F.sign n, flags := 0 }
    else if n then F.nanOut true
    else
      let k := F.mb + 4
      let odd := decide (e % 2 ≠ 0)
      let x := (if odd then 2 * m else m) * 4 ^ k
      let e2 := (if odd then e - 1 else e) / 2
      let r := isqrt x
      F.round rm false (2 * r + (if r * r = x then 0 else 1)) (e2 - k - 1)

/-- A faithful FP32 result (R148): `m · 2^e` lies at or below the exact magnitude, so close that no FP32 value lies
between; the neighbour is the device's choice (log entry 4). -/
def faithful (fn : Nat) (a : W32) (neg exact : Bool) (m : Nat) (e : Int) (tiny : Bool) : FOut :=
  let lower := (fp32.round 1 false m e).bits
  if exact then { bits := fp32.sign neg + lower, flags := 0 }
  else { bits := fp32.sign neg + lower + (if Config.faithfulUp fn a then 1 else 0)
         flags := flNX ||| (if tiny then flUF else 0) }

/-- FRSQ (R148, Table 6.5). -/
def frsqOut (a : W32) : FOut :=
  match fp32.decode a.toNat with
  | .nan s => fp32.nanOut s
  | .inf n => if n then fp32.nanOut true else { bits := 0, flags := 0 }
  | .fin n m e =>
    if m = 0 then { bits := fp32.sign n + fp32.infBits, flags := flDZ }
    else if n then fp32.nanOut true
    else
      let odd := decide (e % 2 ≠ 0)
      let m' := if odd then 2 * m else m
      let e2 := (if odd then e - 1 else e) / 2
      let k : Nat := 80
      let r := isqrt (4 ^ k / m')
      faithful 0 a false (decide (r * r * m' = 4 ^ k)) r (-(k : Int) - e2) false

/-- Fraction bits of the fixed-point numbers that locate FEXP2 and FLOG2 between FP32 values (log entry 4). -/
def fixBits : Nat := 256

/-- 2^f for the fraction f whose binary digits, first first, are given: the product of the roots 2^(2^−i), `root` being
the next of them, all in fixed point. -/
def exp2Digits : List Bool → Nat → Nat → Nat
  | [], _, acc => acc
  | d :: r, root, acc =>
    exp2Digits r (isqrt (root * 2 ^ fixBits)) (if d then acc * root / 2 ^ fixBits else acc)

/-- The first `n` binary digits of the fraction x / 2^k. -/
def fracDigits (x k n : Nat) : List Bool := (List.range n).map (fun i => decide (x / 2 ^ (k - 1 - i) % 2 = 1))

/-- FEXP2 (R148, Table 6.5). -/
def fexp2Out (a : W32) : FOut :=
  match fp32.decode a.toNat with
  | .nan s => fp32.nanOut s
  | .inf n => { bits := if n then 0 else fp32.infBits, flags := 0 }
  | .fin n m e =>
    if m = 0 then { bits := 127 * 2 ^ 23, flags := 0 }
    else
      let tinyArg := decide (e + Nat.log2 m < -26)
      if tinyArg then
        -- 2^a lies next to 1.0, above or below it
        let lower := if n then 127 * 2 ^ 23 - 1 else 127 * 2 ^ 23
        { bits := lower + (if Config.faithfulUp 1 a then 1 else 0), flags := flNX }
      else if !n && decide (7 ≤ e + Nat.log2 m) then { bits := fp32.infBits, flags := flOF ||| flNX }
      else if n && decide (8 ≤ e + Nat.log2 m) then faithful 1 a false false 1 (-200) true
      else
        -- a · 2^50 as an integer: its floor and its fraction
        let x : Int := if n then -(m * 2 ^ (e + 50).toNat : Nat) else (m * 2 ^ (e + 50).toNat : Nat)
        let k := x / 2 ^ 50
        let f := (x % 2 ^ 50).toNat
        if f = 0 then
          if -149 ≤ k then { bits := (fp32.round 0 false 1 k).bits, flags := 0 }
          else faithful 1 a false false 1 k true
        else
          let y := exp2Digits (fracDigits f 50 50) (isqrt (2 ^ (2 * fixBits + 1))) (2 ^ fixBits)
          faithful 1 a false false y (k - fixBits) (decide (k < -126))

/-- The first `n` binary digits of log2 of a fixed-point number in [1, 2), as an integer. -/
def log2Digits : Nat → Nat → Nat → Nat
  | 0, _, acc => acc
  | n + 1, y, acc =>
    let y2 := y * y / 2 ^ fixBits
    if 2 ^ (fixBits + 1) ≤ y2 then log2Digits n (y2 / 2) (2 * acc + 1) else log2Digits n y2 (2 * acc)

/-- FLOG2 (R148, Table 6.5). -/
def flog2Out (a : W32) : FOut :=
  match fp32.decode a.toNat with
  | .nan s => fp32.nanOut s
  | .inf n => if n then fp32.nanOut true else { bits := fp32.infBits, flags := 0 }
  | .fin n m e =>
    if m = 0 then { bits := fp32.signBit + fp32.infBits, flags := flDZ }
    else if n then fp32.nanOut true
    else
      let b := Nat.log2 m
      let k : Int := e + b
      if m = 2 ^ b then fp32.round 0 (decide (k < 0)) k.natAbs 0
      else
        let f := log2Digits 110 (m * 2 ^ fixBits / 2 ^ b) 0
        let v : Int := k * 2 ^ 110 + f
        if 0 ≤ v then faithful 2 a false false v.natAbs (-110) false
        else faithful 2 a true false (v.natAbs - 1) (-110) false

/-! Selection, comparison and classification -/

/-- The order of two values that are no NaNs, with −0 equal to +0. -/
def FVal.cmp (a b : FVal) : Ordering :=
  match a, b with
  | .inf n, .inf k => if n = k then .eq else if n then .lt else .gt
  | .inf n, _ => if n then .lt else .gt
  | _, .inf k => if k then .gt else .lt
  | .fin _ _ _, .fin _ _ _ =>
    let d := (exactSum [a, b.negate]).1
    if d < 0 then .lt else if d = 0 then .eq else .gt
  | _, _ => .eq

/-- FMIN and FMAX on encodings (R143), −0 below +0. -/
def Fmt.minMax (F : Fmt) (isMax : Bool) (x y : Nat) : FOut :=
  let a := F.decode x
  let b := F.decode y
  if a.isSnan || b.isSnan then F.nanOut true
  else if a.isNan then (if b.isNan then F.nanOut false else { bits := y, flags := 0 })
  else if b.isNan then { bits := x, flags := 0 }
  else
    let less := match a.cmp b with
      | .lt => true
      | .gt => false
      | .eq => a.neg && !b.neg
    { bits := if less != isMax then x else y, flags := 0 }

/-- FABS and FNEG on encodings (R144): `f` acts on the sign. -/
def Fmt.signOp (F : Fmt) (f : Bool → Bool) (x : Nat) : FOut :=
  match F.decode x with
  | .nan s => F.nanOut s
  | _ => { bits := F.sign (f (decide (bitsAt x (F.eb + F.mb) 1 = 1))) + x % F.signBit, flags := 0 }

/-- FSETP's conditions (Table 6.3): the outcome, and whether NV is raised. -/
def fcond (c : Nat) (a b : FVal) : Bool × Bool :=
  let un := a.isNan || b.isNan
  let sn := a.isSnan || b.isSnan
  let o := a.cmp b
  match c with
  | 0 => (!un && o = .eq, sn)
  | 1 => (un || o ≠ .eq, sn)
  | 2 => (!un && o = .lt, un)
  | 3 => (!un && o ≠ .gt, un)
  | 4 => (!un && o = .gt, un)
  | 5 => (!un && o ≠ .lt, un)
  | 6 => (un, sn)
  | _ => (!un, sn)

/-- The class mask of an encoding (Table 6.4). -/
def Fmt.classMask (F : Fmt) (x : Nat) : Nat :=
  match F.decode x with
  | .nan s => if s then 2 ^ 8 else 2 ^ 9
  | .inf n => if n then 1 else 2 ^ 7
  | .fin n m _ =>
    if m = 0 then (if n then 2 ^ 3 else 2 ^ 4)
    else if m < 2 ^ F.mb then (if n then 2 ^ 2 else 2 ^ 5)
    else if n then 2 else 2 ^ 6

/-! Rounding to integers and conversions -/

/-- RND to an integer: its magnitude, and whether it is inexact (R52). -/
def roundInt (rm : Nat) (neg : Bool) (m : Nat) (e : Int) : Nat × Bool := roundAt rm neg m e 0

/-- FRND on an encoding (R147). -/
def Fmt.frnd (F : Fmt) (rm : Nat) (x : Nat) : FOut :=
  match F.decode x with
  | .nan s => F.nanOut s
  | .inf _ => { bits := x, flags := 0 }
  | .fin n m e =>
    let (k, inexact) := roundInt rm n m e
    { bits := (F.round 0 n k 0).bits, flags := if inexact then flNX else 0 }

/-- Float to float (R61). -/
def Fmt.convert (F : Fmt) (rm : Nat) (a : FVal) : FOut :=
  match a with
  | .nan s => F.nanOut s
  | .inf n => { bits := F.sign n + F.infBits, flags := 0 }
  | .fin n m e => F.round rm n m e

/-- Float to an integer of `w` bits (R61): the integer and the flags. -/
def toInt (w rm : Nat) (a : FVal) : Int × W32 :=
  let hi : Int := 2 ^ (w - 1) - 1
  let lo : Int := -(2 ^ (w - 1))
  match a with
  | .nan _ => (0, flNV)
  | .inf n => (if n then lo else hi, flNV)
  | .fin n m e =>
    let (k, inexact) := roundInt rm n m e
    let v : Int := if n then -(k : Int) else k
    if v < lo then (lo, flNV) else if hi < v then (hi, flNV) else (v, if inexact then flNX else 0)

/-- An integer to a float (R61). -/
def Fmt.ofInt (F : Fmt) (rm : Nat) (v : Int) : FOut := F.round rm (decide (v < 0)) v.natAbs 0

/-! Block floating point -/

/-- An n-bit two's-complement mantissa from its bits (R49). -/
def mantOf (n x : Nat) : Int := if x % 2 ^ n < 2 ^ (n - 1) then ((x % 2 ^ n : Nat) : Int) else ((x % 2 ^ n : Nat) : Int) - 2 ^ n

/-- An element of a block with shared exponent E (R49). -/
def bfpVal (E : Nat) (m : Int) : FVal := if E = 255 then .nan false else .fin (decide (m < 0)) m.natAbs ((E : Int) - 127)

/-- SAT(RND(EXACT(v / 2^(E−127)), integer), n) of a finite value, with NX and SAT (R59, R63). -/
def bfpMant (rm n E : Nat) (neg : Bool) (m : Nat) (e : Int) : Int × W32 :=
  let (k, inexact) := roundAt rm neg m e ((E : Int) - 127)
  let v : Int := if neg then -(k : Int) else k
  let hi : Int := 2 ^ (n - 1) - 1
  let lo : Int := -(2 ^ (n - 1))
  if v < lo then (lo, flSAT ||| flNX) else if hi < v then (hi, flSAT ||| flNX) else (v, if inexact then flNX else 0)

/-- PCVT's pack of one element under a given exponent (R63). -/
def packMant (rm n E : Nat) (v : FVal) : Int × W32 :=
  if E = 255 then (0, flNV)
  else match v with
    | .nan _ => (0, flNV)
    | .inf neg => (if neg then -(2 ^ (n - 1)) else 2 ^ (n - 1) - 1, flNV ||| flSAT)
    | .fin neg m e => bfpMant rm n E neg m e

/-- A block after requantization: its exponent, its mantissas, the flags (R59). -/
structure Block where
  exp : Nat
  mants : List Int
  flags : W32
  deriving DecidableEq, Repr

/-- R59: requantization of a block to n-bit mantissas. -/
def requantize (n : Nat) (vs : List FVal) : Block :=
  if vs.any (fun v => v.isNan || v.isInf) then
    { exp := 255, mants := vs.map (fun _ => 0), flags := if vs.any FVal.isSnan then flNV else 0 }
  else if vs.all FVal.isZero then { exp := 0, mants := vs.map (fun _ => 0), flags := 0 }
  else
    let k := vs.foldl (fun (a : Int) v => match v with
      | .fin _ m e => if m = 0 then a else max a (e + Nat.log2 m)
      | _ => a) (-100000)
    let raw : Int := k + 127 - ((n : Int) - 2)
    let E := (max 0 (min raw 254)).toNat
    let ms := vs.map (fun v => match v with
      | .fin neg m e => bfpMant 0 n E neg m e
      | _ => (0, 0))
    { exp := E, mants := ms.map (·.1)
      flags := ms.foldl (fun a x => a ||| x.2) (if 254 < raw then flOF else 0) }

/-- Mantissas packed as a bit string of n bits each, the first lowest (R50). -/
def packMants (n : Nat) : List Int → Nat
  | [] => 0
  | m :: r => (m % (2 ^ n : Nat)).toNat + 2 ^ n * packMants n r

/-! Packed pairs (R47) -/

/-- Element `i` of a 32-bit register of a type: the register itself for .f32, half `i` for a packed pair. -/
def halfOf (x : Nat) (i : Nat) : Nat := bitsAt x (16 * i) 16

/-- An operation on the elements of up to three operands in a type: one element of .f32 or .f64, two halves of a packed
type (R141). -/
def perElement (t : BitVec 4) (f : Fmt → Nat → Nat → Nat → FOut) (a b c : W64) : W64 × W32 :=
  let F := fmtOfType t
  if t = 5 || t = 6 then
    let lo := f F (halfOf a.toNat 0) (halfOf b.toNat 0) (halfOf c.toNat 0)
    let hi := f F (halfOf a.toNat 1) (halfOf b.toNat 1) (halfOf c.toNat 1)
    (BitVec.ofNat 64 (lo.bits + 65536 * hi.bits), lo.flags ||| hi.flags)
  else
    let w := F.width
    let r := f F (a.toNat % 2 ^ w) (b.toNat % 2 ^ w) (c.toNat % 2 ^ w)
    (BitVec.ofNat 64 r.bits, r.flags)

end Sys2Proof.Machine
end

