-- ==== Sys2Proof/Machine/Operands.lean ====
section
/-! DEFINITION. Operands as an instruction reads and writes them: inline constants (R82, Table 3.13), the cross-lane
modifier (R83), sources and destinations under a type (R81, R92, R93). -/

namespace Sys2Proof.Machine

/-! Inline constants -/

/-- Bits of the float value n / 2^sh in a format of `eb` exponent and `mb` fraction bits. -/
def smallFloat (eb mb n sh : Nat) : Nat :=
  if n = 0 then 0
  else
    let e := Nat.log2 n
    (2 ^ (eb - 1) - 1 + e - sh) * 2 ^ mb + (n * 2 ^ mb / 2 ^ e - 2 ^ mb)

/-- The float column of Table 3.13 in a format of `eb` exponent and `mb` fraction bits; the canonical NaN is that of
Table 2.2: sign 0, exponent all ones, quiet bit alone set. -/
def constFloat (eb mb code : Nat) : Nat :=
  let sign := 2 ^ (eb + mb)
  let inf := (2 ^ eb - 1) * 2 ^ mb
  let f := smallFloat eb mb
  if code < 32 then f code 0
  else if code < 48 then sign + f (48 - code) 0
  else match code - 48 with
    | 0 => f 1 1
    | 1 => sign + f 1 1
    | 2 => f 1 2
    | 3 => sign + f 1 2
    | 4 => f 1 3
    | 5 => f 1 4
    | 6 => f 64 0
    | 7 => f 128 0
    | 8 => f 256 0
    | 9 => inf
    | 10 => sign + inf
    | 11 => inf - 1
    | 12 => 2 ^ mb
    | 13 => sign
    | 14 => inf + 2 ^ (mb - 1)
    | _ => f 1024 0

/-- The 32-bit patterns of codes 0xB0 to 0xBF. -/
def constPattern (code : Nat) : Nat :=
  match code - 48 with
  | 0 => 32 | 1 => 64 | 2 => 128 | 3 => 256 | 4 => 512 | 5 => 1024 | 6 => 4096 | 7 => 65536
  | 8 => 0xFF | 9 => 0xFFFF | 10 => 0x7FFFFFFF | 11 => 0x80000000 | 12 => 0x55555555 | 13 => 0x33333333
  | 14 => 0x0F0F0F0F | _ => 0x01010101

/-- The integer column of Table 3.13 as 64 bits, before truncation to the type's width. -/
def constInt (code : Nat) : W64 :=
  if code < 32 then BitVec.ofNat 64 code
  else if code < 48 then BitVec.ofInt 64 ((code : Int) - 48)
  else BitVec.ofNat 64 (constPattern code)

/-- Two equal halves. -/
def twoHalves (x : Nat) : Nat := x + 65536 * x

/-- An inline constant in a type (R82). -/
def constIn (t : BitVec 4) (code : Nat) : W64 :=
  match t.toNat with
  | 4 => BitVec.ofNat 64 (constFloat 8 23 code)
  | 5 => BitVec.ofNat 64 (twoHalves (constFloat 8 7 code))
  | 6 => BitVec.ofNat 64 (twoHalves (constFloat 5 10 code))
  | 7 => BitVec.ofNat 64 (constFloat 11 52 code)
  | _ => BitVec.ofNat 64 ((constInt code).toNat % 2 ^ tyWidth t)

/-! Sources -/

/-- Frame register `i`, or the pair that begins there, in lane `l` (R16). -/
def Warp.readFw (w : Warp) (pair : Bool) (l i : Nat) : W64 :=
  if pair then (w.readF l (i + 1)) ++ (w.readF l i) else BitVec.zeroExtend 64 (w.readF l i)

/-- A per-lane source in a type: a frame register or pair, the gang's scalar, or a constant (R81, R92). -/
def Warp.src (w : Warp) (g : Mask8) (t : BitVec 4) (o : Operand) (l : Nat) : W64 :=
  match o with
  | .f i => w.readFw (tyPair t) l i
  | .s i => w.readSLane g l i
  | .c i => constIn t i
  | .p i => if w.readP l i then 1 else 0
  | .m i => BitVec.zeroExtend 64 (w.readM g i)
  | .b _ => 0

/-- A source of a scalar form: the leader's scalar, or a constant (R92). -/
def Warp.srcS (w : Warp) (g : Mask8) (t : BitVec 4) (o : Operand) : W64 :=
  match o with
  | .s i => w.readS g i
  | .c i => constIn t i
  | .m i => BitVec.zeroExtend 64 (w.readM g i)
  | _ => 0

/-- The lane that the cross-lane modifier has lane `l` read, `none` for one outside the gang (R83). -/
def xlane (g : Mask8) (x : BitVec 8) (l : Nat) : Option Nat :=
  let amount := x.toNat % 32
  let q := match xmKind x with
    | 0 => l
    | 1 => l ^^^ amount
    | 2 =>
      let ring := gangLanes g
      ring.getD ((ring.idxOf l + amount) % max 1 ring.length) l
    | _ => amount
  if xmKind x = 0 || g.getLsbD (q / 4) then some q else none

/-- Source one of lane `l` under the cross-lane modifier (R83). -/
def Warp.src1 (w : Warp) (g : Mask8) (x : BitVec 8) (t : BitVec 4) (o : Operand) (l : Nat) : W64 :=
  match xlane g x l with
  | some q => w.src g t o q
  | none => if x.getLsbD 5 then w.src g t o l else 0

/-! Destinations -/

/-- Writes frame register `i`, or the pair that begins there, in the lanes of `mask`. -/
def Warp.writeFw (w : Warp) (left : Nat) (pair : Bool) (i : Nat) (mask : Mask32) (v : Nat → W64) : Warp :=
  let w := w.writeF left i mask (fun l => BitVec.truncate 32 (v l))
  if pair then w.writeF left (i + 1) mask (fun l => BitVec.truncate 32 (v l >>> 32)) else w

/-- The three shapes of a destination of the integer and float chapters: a per-lane result and a predicate beside it, or
one result for the gang (R92). `f` gives the result from the sources in order. -/
def Warp.alu (w : Warp) (g : Mask8) (h : Header) (lat : Nat) (dst : Operand) (wide : Bool) (pdst : Nat)
    (lane : Nat → AluOut) (scalar : AluOut) : Warp :=
  match dst with
  | .s i => if w.gangActs g h then w.writeS g lat i scalar.val else w
  | .f i =>
    let m := w.execLanes g h
    (w.writeFw lat wide i m (fun l => (lane l).val)).writeP lat pdst m (fun l => (lane l).flag)
  | .p i =>
    let m := w.execLanes g h
    w.writeP lat i m (fun l => (lane l).flag)
  | _ => w

/-- An instruction of format A with up to three sources of its type, source one under XMOD. -/
def Warp.aluA (w : Warp) (g : Mask8) (h : Header) (lat pdst : Nat) (o : FmtA) (f : W64 → W64 → W64 → AluOut) : Warp :=
  w.alu g h lat o.dst (tyPair o.type) pdst
    (fun l => f (w.src1 g o.xmod o.type o.srcA l) (w.src g o.type o.srcB l) (w.src g o.type o.srcC l))
    (f (w.srcS g o.type o.srcA) (w.srcS g o.type o.srcB) (w.srcS g o.type o.srcC))

/-- The immediate of format B under an integer type (Table 3.5). -/
def immOf (t : BitVec 4) (imm : BitVec 32) : W64 := if tySigned t then BitVec.signExtend 64 imm else BitVec.zeroExtend 64 imm

/-- An instruction of format B with one source of its type and the immediate. -/
def Warp.aluB (w : Warp) (g : Mask8) (h : Header) (lat pdst : Nat) (o : FmtB) (f : W64 → AluOut) : Warp :=
  w.alu g h lat o.dst (tyPair o.type) pdst (fun l => f (w.src g o.type o.srcA l)) (f (w.srcS g o.type o.srcA))

end Sys2Proof.Machine
end

