-- ==== Sys2Proof/Machine/Home.lean ====
section
/-! DEFINITION. Memory: the home view and its folds (R234, R265, R266), page tables and translation (R370–R372), L1
and the overlay (R163–R165, R257, R258), and the store log with its publication (R260–R264, R176, R177, R180). -/

namespace Sys2Proof.Machine

/-! Parts of the state -/

/-- The global tick (R2, R353). -/
def State.tick (s : State) : Nat := s.quanta / 33

def State.core (s : State) (c : Nat) : Core := Tab.get Core.reset s.cores c
def State.setCore (s : State) (c : Nat) (k : Core) : State := { s with cores := Tab.put s.cores c k }
def State.modCore (s : State) (c : Nat) (f : Core → Core) : State := s.setCore c (f (s.core c))

def State.warp (s : State) (c w : Nat) : Warp := Tab.get Warp.empty (s.core c).warps w
def State.setWarp (s : State) (c w : Nat) (x : Warp) : State :=
  s.modCore c (fun k => { k with warps := Tab.put k.warps w x })
def State.modWarp (s : State) (c w : Nat) (f : Warp → Warp) : State := s.setWarp c w (f (s.warp c w))

def State.group (s : State) (c g : Nat) : Group := Tab.get Group.empty (s.core c).groups g
def State.setGroup (s : State) (c g : Nat) (x : Group) : State :=
  s.modCore c (fun k => { k with groups := Tab.put k.groups g x })
def State.modGroup (s : State) (c g : Nat) (f : Group → Group) : State := s.setGroup c g (f (s.group c g))

def State.vi (s : State) (v : Nat) : VI := Tab.get VI.reset s.vis v
def State.modVi (s : State) (v : Nat) (f : VI → VI) : State := { s with vis := Tab.put s.vis v (f (s.vi v)) }

def State.pubSlot (s : State) (c : Nat) : PubSlot := Tab.get (PubSlot.reset c) s.pub c

/-- A number for a draw of free values, and the state with it used (log entry 3). -/
def State.draw1 (s : State) : Nat × State := (s.draws, { s with draws := s.draws + 1 })

/-- Adds to a counter unless the core's counters are frozen (R354, R376). -/
def State.count (s : State) (c key n : Nat) : State :=
  if n = 0 || (s.core c).frozen then s
  else s.modCore c (fun k => { k with ctr := Tab.set 0 k.ctr key (Tab.get 0 k.ctr key + n) })

/-- The key of a counter of the whole core. -/
def coreCtr (n : Nat) : Nat := 1024 + n

/-- Counters wrap modulo 2^64 when read (R354). -/
def State.counter (s : State) (c key : Nat) : Nat := Tab.get 0 (s.core c).ctr key

/-! Bytes and words -/

/-- The low `n` bytes of a number, lowest first (R5). -/
def toBytes : Nat → Nat → List Byte
  | 0, _ => []
  | n + 1, x => BitVec.ofNat 8 x :: toBytes n (x / 256)

/-- The number whose bytes are listed, lowest first (R5). -/
def ofBytes : List Byte → Nat
  | [] => 0
  | b :: r => b.toNat + 256 * ofBytes r

/-- Writes bytes from an address upward. -/
def Memory.write (m : List Host.Cell) (a : Nat) : List Byte → List Host.Cell
  | [] => m
  | b :: r => Memory.write (Tab.set memDefault m a b) (a + 1) r

/-- The bytes from an address upward. -/
def Memory.read (m : List Host.Cell) (a : Nat) : Nat → List Byte
  | 0 => []
  | n + 1 => Tab.get memDefault m a :: Memory.read m (a + 1) n

/-- Byte `i` of a line (R65, Table 13.3). -/
def lineByte (d : LineBits) (i : Nat) : Byte := BitVec.ofNat 8 (bitsAt d.toNat (8 * i) 8)

/-- A line from its bytes. -/
def lineOf (f : Nat → Byte) : LineBits := BitVec.ofNat 512 (ofBytes ((List.range 64).map f))

/-- A line with the bytes of `mask` taken from `new`. -/
def lineMerge (mask : BitVec 64) (old new : LineBits) : LineBits :=
  lineOf (fun i => if mask.getLsbD i then lineByte new i else lineByte old i)

/-! Homes -/

/-- The home slice that an address of a package's HBM hashes to (R265). -/
def sliceOf (pa : Nat) : Nat :=
  bitsAt pa 6 8 ^^^ bitsAt pa 14 8 ^^^ bitsAt pa 22 8 ^^^ bitsAt pa 30 8 ^^^ bitsAt pa 38 2

/-- The home of the line of a physical address: a slice 0–255, the home proxy of the I/O die whose root port reaches external
memory (256, 257; R265), or a remote package's homes, numbered 1024 + package (R370). -/
def homeOf (pa : Nat) : Nat :=
  match bitsAt pa 50 2 with
  | 0 => sliceOf pa
  | 1 => 256 + (Config.rootPort (pa / 4096)).toNat
  | _ => 1024 + bitsAt pa 40 6

/-- Memory of another package (Table 21.3). -/
def isRemote (pa : Nat) : Bool := bitsAt pa 50 2 = 2

/-- Memory of a package that is lost (R380). -/
def State.lostAt (s : State) (pa : Nat) : Bool := isRemote pa && s.lost.contains (bitsAt pa 40 6)

/-- Queued records of a line, in fold order (R266). -/
def State.queued (s : State) (line : Nat) : List FoldRec := s.foldq.filter (fun r => r.record.line = line)

/-- The line's home contents before any fold. -/
def State.rawLine (s : State) (line : Nat) : LineBits := BitVec.ofNat 512 (ofBytes (Memory.read s.mem (line * 64) 64))

/-- Fold of one record into a line; a void record writes nothing (R266). -/
def foldRec (d : LineBits) (r : Record) : LineBits := if r.void then d else lineMerge r.mask d r.data

/-- The home view of a line: its contents after Fold (R163, R266). -/
def State.homeLine (s : State) (line : Nat) : LineBits :=
  match s.queued line with
  | [] => s.rawLine line
  | q => q.foldl (fun d r => foldRec d r.record) (s.rawLine line)

/-- The home view of one byte: the last queued record that marks it, or home memory (R234). -/
def State.homeByte (s : State) (a : Nat) : Byte :=
  s.foldq.foldl (fun b r =>
    if r.record.line = a / 64 && !r.record.void && r.record.mask.getLsbD (a % 64) then lineByte r.record.data (a % 64)
    else b) (Tab.get memDefault s.mem a)

/-- The home view of bytes from an address upward. -/
def State.homeBytes (s : State) (a : Nat) : Nat → List Byte
  | 0 => []
  | n + 1 => s.homeByte a :: State.homeBytes s (a + 1) n

/-- A read of a line at its home delivers poison: the line is poisoned and no queued record replaces all of it, or an
uncorrectable error stands in it (R347, R348). -/
def State.isPoisoned (s : State) (line : Nat) : Bool :=
  s.poison.contains line && !(s.queued line).any (fun f => !f.record.void && f.record.mask = BitVec.allOnes 64)
  || s.upsets.any (fun u => u.fatal && (match u.place with | .home _ l => l = line | _ => false))

/-- The lines that bytes at an address touch. -/
def linesOf (pa n : Nat) : List Nat := (List.range ((pa + n + 63) / 64 - pa / 64)).map (· + pa / 64)

/-- Some line of a run of bytes delivers poison (R348). -/
def State.poisonIn (s : State) (pa n : Nat) : Bool := (linesOf pa n).any s.isPoisoned

/-! Page tables (R370–R372) -/

/-- Why a translation fails (R312). -/
inductive XlatFail where
  | minor | major | prot
  deriving DecidableEq, Repr

/-- The device's view of a physical address (R370): PROT for an address that breaks Table 21.3, a device register, or
this package named as remote. -/
def State.paOk (s : State) (pa : Nat) : Bool :=
  match bitsAt pa 50 2 with
  | 0 => bitsAt pa 40 10 = 0
  | 1 => true
  | 2 => bitsAt pa 46 4 = 0 && bitsAt pa 40 6 ≠ BitVec.field s.domainWord 5 0
  | _ => false

/-- An 8-byte entry in the home view. -/
def State.entry (s : State) (pa : Nat) : Nat := ofBytes (s.homeBytes pa 8)

/-- The reserved bits of a page-table entry (Table 21.4). -/
def pteReserved (e : Nat) : Bool := bitsAt e 52 7 ≠ 0 || bitsAt e 10 2 ≠ 0 || bitsAt e 7 2 ≠ 0 || bitsAt e 4 2 ≠ 0

/-- R371: the sixteen entries of a 64 KiB group agree in every bit but PPN⟨3:0⟩, which is their index. -/
def State.contOk (s : State) (table idx : Nat) : Bool :=
  let base := table + 8 * (idx / 16 * 16)
  let key := fun e => e - bitsAt e 12 4 * 4096
  let e0 := s.entry base
  (List.range 16).all (fun i => let e := s.entry (base + 8 * i); key e = key e0 && bitsAt e 12 4 = i)

/-- The walk below a table at a level (R371): the leaf, or why it fails. `lines` are the table lines met; those of a whole CONT
group count (R373). A poisoned line ends it as a major fault (log entry 97). -/
def State.walkFrom (s : State) (asid : BitVec 16) (va : Nat) : Nat → Nat → List Nat → Except XlatFail TlbEntry
  | level, table, lines =>
    let idx := bitsAt va (12 + 9 * level) 9
    let at' := table + 8 * idx
    let lines := lines ++ [at' / 64]
    let e := s.entry at'
    if s.isPoisoned (at' / 64) then .error .major
    else if bitsAt e 0 1 = 0 then .error (if level = 0 && bitsAt e 62 1 = 1 then .minor else .major)
    else if pteReserved e then .error .major
    else
      let ppn := bitsAt e 12 40
      if bitsAt e 6 1 = 0 then
        if bitsAt e 9 1 = 1 then .error .prot
        else match level with
          | 0 => .error .major
          | level + 1 => State.walkFrom s asid va level (ppn * 4096) lines
      else if level ≥ 3 then .error .prot
      else if level ≥ 1 && (bitsAt e 9 1 = 1 || bitsAt ppn 0 (9 * level) ≠ 0) then .error .prot
      else if level = 0 && bitsAt e 9 1 = 1 && !s.contOk table idx then .error .prot
      else if bitsAt e 59 3 ≥ 4 then .error .prot
      else
        let size := 4096 * 512 ^ level
        .ok { asid := asid, va := va / size * size, pa := ppn * 4096, size := size
              r := bitsAt e 1 1 = 1, w := bitsAt e 2 1 = 1, x := bitsAt e 3 1 = 1, pin := bitsAt e 63 1 = 1
              scheme := bitsAt e 59 3
              lines := if level = 0 && bitsAt e 9 1 = 1 then (lines ++ linesOf (table + 8 * (idx / 16 * 16)) 128).dedup else lines }

/-- The line of an ASID's entry in its interface's table (R372). -/
def asidLine (v : AsidTable) (asid : BitVec 16) : Nat := (v.at_ + 8 * (asid.toNat - v.base)) / 64

/-- The root of an ASID in its interface's table (R372). -/
def State.asidRoot (s : State) (v : AsidTable) (asid : BitVec 16) : Option Nat :=
  if asid.toNat < v.base || v.base + v.count ≤ asid.toNat then none
  else
    let e := s.entry (v.at_ + 8 * (asid.toNat - v.base))
    if !s.isPoisoned (asidLine v asid) && bitsAt e 0 1 = 1 && bitsAt e 1 11 = 0 && bitsAt e 52 12 = 0 then some (bitsAt e 12 40 * 4096) else none

/-- A whole walk in the home view (R312, R371, R372). -/
def State.walk (s : State) (v : AsidTable) (asid : BitVec 16) (va : Nat) : Except XlatFail TlbEntry :=
  match s.asidRoot v asid with
  | none => .error .major
  | some root => s.walkFrom asid va 4 root [asidLine v asid]

/-- An ASID is a service's for which no image has passed: nothing is executable under it, and no line fetched under it stays at hand
(R382; log entry 117). -/
def State.barService (s : State) (asid : BitVec 16) : State :=
  if s.security.services.contains asid || s.security.barred.contains asid then s
  else
    let other := fun (key : Nat) => decide (key / 2 ^ 51 ≠ asid.toNat)
    { s with
      security := { s.security with barred := s.security.barred ++ [asid] }
      cores := s.cores.map (fun e => (e.1, { e.2 with
        icache := e.2.icache.filter (fun l => other l.1), icOrder := e.2.icOrder.filter other, icBad := e.2.icBad.filter other })) }

/-- The physical address under a translation, or PROT where a permission is missing or the address breaks R370. Nothing is
executable under a service ASID whose image has not passed its checks (R382; log entry 117). -/
def State.permit (s : State) (e : TlbEntry) (va : Nat) (r w x : Bool) : Except XlatFail Nat :=
  let pa := e.pa + (va - e.va)
  if (r && !e.r) || (w && !e.w) || (x && (!e.x || s.security.barred.contains e.asid)) || !s.paOk pa then .error .prot else .ok pa

/-- Translation under a region's ASID outside any core: the distributor, the counters and the homes. -/
def State.regionPa (s : State) (r : Region) (va : VA) (read write : Bool) : Except XlatFail Nat :=
  match s.walk r.table r.asid va.toNat with
  | .ok e => s.permit e va.toNat read write false
  | .error f => .error f

/-! The line codec (R268) -/

/-- A page that a leaf entry maps is known to the homes (R268). -/
def State.noteLeaf (s : State) (v : AsidTable) (e : TlbEntry) : State :=
  let q : Leaf := { table := v, asid := e.asid, va := e.va, pa := e.pa, size := e.size }
  { s with leaves := q :: s.leaves.filter (· ≠ q) }

/-- The page of an address under an ASID is written through. -/
def State.notePage (s : State) (v : AsidTable) (asid : BitVec 16) (va : Nat) : State :=
  match s.walk v asid va with
  | .ok e => if s.leaves.head?.any (fun q => q.table = v && q.asid = asid && q.va = e.va && q.pa = e.pa) then s else s.noteLeaf v e
  | .error _ => s

/-- The scheme of a page's leaf entry now, where it still maps an address there. -/
def State.leafScheme (s : State) (pa : Nat) (q : Leaf) : Option Nat :=
  if q.pa ≤ pa && pa < q.pa + q.size then
    match s.walk q.table q.asid (q.va + (pa - q.pa)) with
    | .ok e => if e.pa + (q.va + (pa - q.pa) - e.va) = pa then some e.scheme else none
    | .error _ => none
  else none

/-- The scheme of the leaf entry that maps an address: as a translation unit holds it, or as a walk finds it in the page through
which the address was last translated (R268; log entry 93). -/
def State.schemeOf (s : State) (pa : Nat) : Nat :=
  match s.cores.findSome? (fun e => (e.2.tlb.find? (fun t => decide (t.pa ≤ pa) && decide (pa < t.pa + t.size))).map (·.scheme)) with
  | some n => n
  | none => (s.leaves.findSome? (s.leafScheme pa)).getD 0

/-- The metadata bits of a line stored under a scheme other than none (Table 13.6). -/
def codecMeta (scheme : Nat) (d : LineBits) : Nat :=
  if d = 0 then 1
  else if (scheme = 2 || scheme = 3) && Config.codecFits scheme d then scheme
  else 0

/-- A line just written is stored under the scheme of its page (R268). -/
def State.stamp (s : State) (line : Nat) : State :=
  match s.schemeOf (line * 64) with
  | 0 => { s with lineMeta := Tab.del s.lineMeta line }
  | n => { s with lineMeta := Tab.set 0 s.lineMeta line (codecMeta n (s.rawLine line)) }

/-! Errors found (R347) -/

/-- An error of a place is met: the state without it, and whether it is uncorrectable. A corrected one leaves an error record
to be written. -/
def State.detect (s : State) (place : UpsetAt) (store core loc : Nat) : State × Bool :=
  match s.upsets.find? (fun u => u.place = place) with
  | none => (s, false)
  | some u =>
    let s' := { s with upsets := s.upsets.erase u }
    if u.fatal then (s', true)
    else ({ s' with found := s'.found ++
      [({ tick := BitVec.ofNat 64 s.tick, outcome := 0, store := store, core := core, loc := loc } : ErrorRecord)] }, false)

/-- A home line is poisoned, with its error record to be written. -/
def State.poisonLine (s : State) (line store core : Nat) : State :=
  { s with poison := if s.poison.contains line then s.poison else s.poison ++ [line]
           found := s.found ++
             [({ tick := BitVec.ofNat 64 s.tick, outcome := 1, store := store, core := core, loc := line } : ErrorRecord)] }

/-- Errors of a home line are met as it is read: HBM, log area, backing store, context area. -/
def State.detectLine (s : State) (line : Nat) : State :=
  if s.upsets.isEmpty then s
  else [5, 6, 7, 8].foldl (fun s st =>
    let q := s.detect (.home st line) st 0 line
    if q.2 then q.1.poisonLine line st 0 else q.1) s

/-! Folds and writes at the home -/

/-- The homes of a line report what the words of dependences that lie there hold, after every fold, atomic and in-place write
of it (R294); what a poisoned line holds is no word (log entry 121). -/
def State.seeWords (s : State) (line : Nat) : State :=
  { s with launches := s.launches.map (fun (l : Launch) =>
      { l with words := l.block.deps.zipIdx.foldl (fun t e =>
          match s.regionPa l.region e.1.addr true false with
          | .ok pa =>
            let q := (e.2, ofBytes (s.homeBytes pa 8))
            if pa / 64 = line && !s.isPoisoned line && !t.contains q then t ++ [q] else t
          | .error _ => t) l.words }) }

/-- Writes the marked bytes of a record home; a record of all 64 bytes ends poison (R348). -/
def State.applyRecord (s : State) (r : Record) : State :=
  if r.void then s
  else
    let m := (setBits 64 r.mask).foldl
      (fun m i => Tab.set memDefault m (r.line * 64 + i) (lineByte r.data i)) s.mem
    (({ s with mem := m
               poison := if r.mask = BitVec.allOnes 64 then s.poison.filter (· ≠ r.line) else s.poison } : State).stamp r.line).seeWords r.line

/-- The ebb engine folds a record: one with an uncorrectable error poisons its line (Table 19.1). -/
def State.applyFold (s : State) (f : FoldRec) : State :=
  let q := s.detect (.record f.core f.seq f.record.line) 6 f.core f.record.line
  if q.2 then (q.1.applyRecord f.record).poisonLine f.record.line 6 f.core else q.1.applyRecord f.record

/-- Fold(line): every queued record of the line is folded, in queue order, and leaves the queue (R266). -/
def State.foldLine (s : State) (line : Nat) : State :=
  let q := s.queued line
  if q.isEmpty then s
  else
    let s' := q.foldl (fun s r => s.applyFold r) s
    { s' with foldq := s'.foldq.filter (fun r => r.record.line ≠ line) }

/-- A line is read at its home: Fold(line) first, and the errors that stand in it are met (R266, R347). -/
def State.readHome (s : State) (line : Nat) : State := (s.foldLine line).detectLine line

/-! The die caches and the directory (R259) -/

def State.die (s : State) (d : Nat) : Die := Tab.get { lines := [], uses := 0 } s.dies d

/-- The directory invalidates every die cache's copy of a line. -/
def State.dropCopies (s : State) (line : Nat) : State :=
  { s with dies := s.dies.map (fun e => (e.1, { e.2 with lines := Tab.del e.2.lines line })) }

/-- An in-place write at the home, after Fold of each line it touches (R235, R266, R273) and the invalidation of the die
caches' copies (R259). -/
def State.homeWrite (s : State) (a : Nat) (bs : List Byte) : State :=
  let lines := linesOf a bs.length
  let s := lines.foldl (fun s l => (s.foldLine l).dropCopies l) s
  let whole := lines.filter (fun l => decide (a ≤ l * 64) && decide (l * 64 + 64 ≤ a + bs.length))
  lines.foldl (fun s l => (s.stamp l).seeWords l)
    { s with mem := Memory.write s.mem a bs, poison := s.poison.filter (fun l => !whole.contains l)
             upsets := s.upsets.filter (fun u => match u.place with | .home _ l => !whole.contains l | _ => true) }

/-- The key with the least value, of a table. -/
def leastKey (t : Tab Nat) : Option Nat :=
  match t with
  | [] => none
  | e :: r => some (r.foldl (fun a b => if b.2 < a.2 then b else a) e).1

/-- A read of a line through a die cache: an uncorrectable error there drops the copy, and a line it does not hold is read at
its home and kept, the least recently used giving way beyond 64 MiB (R2, R259, R347; log entry 96). -/
def State.dieRead (s : State) (d line : Nat) : State × LineBits × Bool :=
  let q := s.detect (.die d line) 4 0 line
  let k := q.1.die d
  let k := if q.2 then { k with lines := Tab.del k.lines line } else k
  match Tab.find line k.lines with
  | some l =>
    ({ q.1 with dies := Tab.put q.1.dies d { lines := Tab.put k.lines line { l with used := k.uses }, uses := k.uses + 1 } },
      l.data, l.poison)
  | none =>
    let s := q.1.readHome line
    let l : DieLine := { data := s.rawLine line, used := k.uses, poison := s.isPoisoned line }
    let kept := if 2 ^ 20 ≤ k.lines.length then
        (match leastKey (k.lines.map (fun e => (e.1, e.2.used))) with | some a => Tab.del k.lines a | none => k.lines)
      else k.lines
    ({ s with dies := Tab.put s.dies d { lines := Tab.put kept line l, uses := k.uses + 1 } }, l.data, l.poison)

/-- A line read for a core's instruction cache or its copy engine: through the die cache, or at its home where that is remote
(R67, R71, R259); it holds poison where its home line does (R348). -/
def State.lineRead (s : State) (c line : Nat) : State × LineBits × Bool :=
  if isRemote (line * 64) then
    let s := s.readHome line
    (s, s.homeLine line, s.isPoisoned line)
  else s.dieRead (c / 64) line

/-! Translation by a core -/

/-- The translation a core holds for an address. -/
def Core.tlbFind (k : Core) (asid : BitVec 16) (va : Nat) : Option TlbEntry :=
  k.tlb.find? (fun e => e.asid = asid && decide (e.va ≤ va) && decide (va < e.va + e.size))

/-- Translation by the core's unit, walking where it holds nothing. -/
def State.xlate (s : State) (c : Nat) (v : AsidTable) (asid : BitVec 16) (va : Nat) (r w x : Bool) : Except XlatFail Nat :=
  match (s.core c).tlbFind asid va with
  | some e => s.permit e va r w x
  | none => match s.walk v asid va with
    | .ok e => s.permit e va r w x
    | .error f => .error f

/-- The ASID table that a workgroup's addresses translate through: the one its launch found (R375). -/
def State.tableOf (s : State) (c g : Nat) : AsidTable := (s.group c g).region.table

/-- Bytes of virtual memory in the home view under an ASID, page by page; `none` where a page does not translate for
reading. -/
def State.homeVirt (s : State) (c : Nat) (v : AsidTable) (asid : BitVec 16) (va : Nat) : Nat → Option (List Byte)
  | 0 => some []
  | n + 1 =>
    match s.xlate c v asid va true false false with
    | .error _ => none
    | .ok pa => (State.homeVirt s c v asid (va + 1) n).map (fun r => s.homeByte pa :: r)

/-- The first failure, if any, of translating bytes from an address upward: the failing address and why. -/
def State.virtFail (s : State) (c : Nat) (v : AsidTable) (asid : BitVec 16) (va : Nat) (r w : Bool) : Nat → Option (Nat × XlatFail)
  | 0 => none
  | n + 1 =>
    match s.xlate c v asid va r w false with
    | .error f => some (va, f)
    | .ok _ => State.virtFail s c v asid (va + 1) r w n

/-! L1 and the overlay -/

/-- Overlay lines of a core that hold a line, oldest first. -/
def Core.overlays (k : Core) (line : Nat) : List Overlay := k.overlay.filter (fun o => o.line = line)

/-- The newest overlay line that marks a byte (R163, R257). -/
def Core.overlayByte (k : Core) (pa : Nat) : Option Byte :=
  ((k.overlays (pa / 64)).filter (fun o => o.mask.getLsbD (pa % 64))).getLast?.map (fun o => lineByte o.data (pa % 64))

/-- Drops the `n` least recently used L1 copies. -/
def Core.dropLru (k : Core) : Nat → Core
  | 0 => k
  | n + 1 =>
    match leastKey (k.l1.map (fun e => (e.1, e.2.used))) with
    | none => k
    | some a => Core.dropLru { k with l1 := Tab.del k.l1 a } n

/-- L1 holds at most 4,096 lines, overlay lines among them, which it never evicts (R2, R258). -/
def Core.evict (k : Core) : Core := k.dropLru (k.l1.length + k.overlay.length - 4096)

/-- An L1 copy has been used (R258). -/
def Core.useLine (k : Core) (line : Nat) : Core :=
  match Tab.find line k.l1 with
  | none => k
  | some l => { k with l1 := Tab.put k.l1 line { l with used := k.uses }, uses := k.uses + 1 }

/-- The core has read a line anew at its home, or acquired it: the bytes that its overlay lines were filled with follow, so that
none of them comes back as an older one of an L1 copy (R234, R258; log entry 24). Bytes that a store of the core has marked
in an overlay line no newer, and not published, stay. -/
def Core.refreshLine (k : Core) (line : Nat) (d : LineBits) (poison : Bool) (order : Nat) : Core :=
  if (k.overlays line).isEmpty then k
  else { k with overlay := k.overlay.map (fun (o : Overlay) =>
    if o.line = line then
      let own := fun (i : Nat) => (k.overlays line).any (fun q => decide (q.seg ≤ o.seg) && q.mask.getLsbD i)
      { o with data := lineOf (fun i => if own i then lineByte o.data i else lineByte d i), tainted := poison, order := order }
    else o) }

/-- The overlay lines of a core's line follow the home view. -/
def State.refreshHome (s : State) (c line : Nat) : State :=
  s.modCore c (fun k => k.refreshLine line (s.homeLine line) (s.isPoisoned line) s.arrivals)

/-- The lines of a core's overlay. -/
def Core.overlayLines (k : Core) : List Nat := (k.overlay.map (·.line)).dedup

/-- A byte of remote memory in the newest record that the core has published and the line's package has not acknowledged: the
core's own reads find it there (R234). -/
def Core.routedByte (k : Core) (pa : Nat) : Option Byte :=
  ((k.segs.filter (fun g => g.routed)).flatMap (fun g => g.records.filter (fun r =>
    !r.void && r.line = pa / 64 && r.mask.getLsbD (pa % 64)))).getLast?.map (fun r => lineByte r.data (pa % 64))

/-- One byte of the home view, or of the core's own records on their way to a remote home. -/
def State.homeOrRouted (s : State) (c pa : Nat) : Byte :=
  if isRemote pa then ((s.core c).routedByte pa).getD (s.homeByte pa) else s.homeByte pa

/-- Errors of the core's own copies of a line are met: an L1 copy with an uncorrectable one is dropped, an overlay line's
stays in it (Table 19.1). -/
def State.checkCopies (s : State) (c line : Nat) : State :=
  if s.upsets.isEmpty then s
  else
    let q := if (Tab.find line (s.core c).l1).isSome then s.detect (.l1 c line) 2 c line else (s, false)
    let s := if q.2 then q.1.modCore c (fun k => { k with l1 := Tab.del k.l1 line }) else q.1
    let r := if ((s.core c).overlays line).isEmpty then (s, false) else s.detect (.overlay c line) 3 c line
    if r.2 then r.1.modCore c (fun k => { k with overlay := k.overlay.map (fun (o : Overlay) =>
      if o.line = line then { o with poison := true } else o) })
    else r.1

/-- Installs the home view of a line as an L1 copy, where none stands, through the core's die cache (R163, R259). -/
def State.l1Fill (s : State) (c line : Nat) : State :=
  if (Tab.find line (s.core c).l1).isSome then s
  else
    let q := s.dieRead (c / 64) line
    let l : L1Line := { data := q.2.1, tick := s.tick, order := s.arrivals, newer := [], used := 0, poison := q.2.2 }
    q.1.modCore c (fun k =>
      Core.evict (Core.useLine { k.refreshLine line q.2.1 q.2.2 s.arrivals with l1 := Tab.put k.l1 line l } line))

/-- One byte as LD reads it, the copy of its line standing in L1 (R163). -/
def State.ldByte (s : State) (c pa : Nat) : Byte :=
  match (s.core c).overlayByte pa with
  | some b => b
  | none =>
    if isRemote pa then s.homeOrRouted c pa
    else match Tab.find (pa / 64) (s.core c).l1 with
      | some l => lineByte l.data (pa % 64)
      | none => s.homeByte pa

/-- One byte as LD.h reads it (R164). -/
def State.ldhByte (s : State) (c pa : Nat) : Byte :=
  match (s.core c).overlayByte pa with
  | some b => b
  | none => s.homeOrRouted c pa

/-- Every byte of a load stands in the core's own overlay. -/
def State.ownBytes (s : State) (c pa n : Nat) : Bool := (List.range n).all (fun i => ((s.core c).overlayByte (pa + i)).isSome)

/-- LD.h refreshes the unmarked bytes of its line's L1 copy that it has read (R164), poison among them (R348). -/
def State.refreshCopy (s : State) (c pa n : Nat) : State :=
  let line := pa / 64
  s.modCore c (fun k =>
    match Tab.find line k.l1 with
    | none => k
    | some l =>
      let at_ := ((List.range n).map (fun i => pa % 64 + i)).filter (fun i => (k.overlayByte (line * 64 + i)).isNone)
      let d := lineOf (fun i => if at_.contains i then s.homeByte (line * 64 + i) else lineByte l.data i)
      let l' : L1Line := { l with
        data := d, poison := l.poison || (!at_.isEmpty && s.isPoisoned line), newer := at_.foldl (fun t i => Tab.put t i s.arrivals) l.newer }
      Core.useLine { k with l1 := Tab.put k.l1 line l' } line)

/-- A load of `n` bytes within one line: what it returns, the state with its fill or refresh (R163, R164), and the store of
Table 19.2 from which it took in an error, if it did (R345, R347, R348). -/
def State.loadBytes (s : State) (c pa n : Nat) (home : Bool) : State × List Byte × Option Nat :=
  let line := pa / 64
  let s := s.checkCopies c line
  let own := s.ownBytes c pa n
  let bad := ((s.core c).overlays line).any (·.poison)
  let err := fun (poison : Bool) => if bad then some 3 else if !own && poison then some 5 else none
  if home then
    let s := s.readHome line
    let bs := (List.range n).map (fun i => s.ldhByte c (pa + i))
    ((s.refreshHome c line).refreshCopy c pa n, bs, err (s.isPoisoned line))
  else
    let s' := if own then s else if isRemote pa then s.readHome line
      else (s.l1Fill c line).modCore c (fun k => k.useLine line)
    let bs := (List.range n).map (fun i => s'.ldByte c (pa + i))
    let poison := match Tab.find line (s'.core c).l1 with
      | some l => l.poison
      | none => isRemote pa && s'.isPoisoned line
    (s', bs, err poison)

/-! The log unit -/

/-- The open segment's overlay lines, in the order they were taken. -/
def Core.openLines (k : Core) : List Overlay := k.overlay.filter (fun o => o.seg = k.openSeq)

/-- A segment's length in 64-byte units (R260). -/
def segUnits (n : Nat) : Nat := 1 + 2 * n + (n + 7) / 8

/-- The bytes of a segment (Tables 13.2 to 13.4). -/
def segBytes (g : Segment) : List Byte :=
  let n := g.records.length
  let header := g.seq % 2 ^ 32 + 2 ^ 64 * n + 2 ^ 96 * segUnits n + 2 ^ 128 * (g.ntick.getD 0)
  let recs := (g.records.zipIdx).flatMap (fun (r, i) =>
    toBytes 64 r.data.toNat ++ toBytes 8 r.mask.toNat ++ toBytes 8 (r.line % 2 ^ 46 + 2 ^ 56 * r.slot + 2 ^ 63 * r.void.toNat)
      ++ toBytes 8 (g.seq % 2 ^ 32 + 2 ^ 32 * i) ++ toBytes 40 0)
  let digest := g.records.flatMap (fun r => toBytes 8 (r.line % 2 ^ 46))
  toBytes 64 header ++ recs ++ digest ++ toBytes (((n + 7) / 8) * 64 - 8 * n) 0

/-- Units of the log area taken by segments that stand in it. -/
def Core.logUsed (k : Core) : Nat := (k.segs.filter (·.at_.isSome)).foldl (fun a g => a + segUnits g.records.length) 0

/-- Puts a segment in the place of the one with its number. -/
def Core.setSeg (k : Core) (g : Segment) : Core := { k with segs := k.segs.map (fun x => if x.seq = g.seq then g else x) }

/-- Writes a segment's bytes into the log area, modulo its size (R260). -/
def State.writeSegment (s : State) (c : Nat) (g : Segment) : State :=
  match g.at_ with
  | none => s
  | some off =>
    let p := s.pubSlot c
    let size := max 64 (s.core c).logSize
    let m := ((segBytes g).zipIdx).foldl
      (fun m (b, i) => Tab.set memDefault m (p.base + (off * 64 + i) % size) b) s.mem
    { s with mem := m }

/-- Gives the oldest unwritten segment its place, where the log area has room (R180). -/
def State.placeSegment (s : State) (c : Nat) : State :=
  let k := s.core c
  match k.segs.find? (·.at_.isNone) with
  | none => s
  | some g =>
    let n := segUnits g.records.length
    if k.logUsed + n ≤ max 64 k.logSize / 64 then
      let g' := { g with at_ := some k.logAt }
      let s := s.setCore c { k.setSeg g' with logAt := (k.logAt + n) % max 1 (k.logSize / 64) }
      s.writeSegment c g'
    else s

/-- The workgroup owns a record. -/
def Group.owns (g : Group) (r : Record) : Bool := r.owner = (g.launch, g.linear)

/-- Voids the unpublished records of a workgroup (R261): its overlay lines in the open segment are dropped, and its
records in sealed segments whose notices have not been sent are voided. -/
def State.voidRecords (s : State) (c g : Nat) : State :=
  let x := s.group c g
  s.modCore c (fun k =>
    let unsent := (k.segs.filter (·.ntick.isNone)).map (·.seq)
    { k with overlay := k.overlay.filter (fun o => !(o.slot = g && (o.seg = k.openSeq || unsent.contains o.seg)))
             segs := k.segs.map (fun (q : Segment) =>
               if q.ntick.isNone then { q with records := q.records.map (fun r => if x.owns r then { r with void := true } else r) }
               else q) })

/-- The log unit meets the errors of overlay lines: an uncorrectable one is charged to every workgroup with marked bytes in its
line, and the records of one that can roll back are void (Table 19.1, R345). -/
def State.chargeOverlay (s : State) (c : Nat) (lines : List Nat) : State :=
  if s.upsets.isEmpty then s
  else lines.foldl (fun s l =>
    let t := s.checkCopies c l
    if ((s.core c).overlays l).any (·.poison) || !((t.core c).overlays l).any (·.poison) then t
    else
      ((((t.core c).overlays l).filter (fun q => q.mask ≠ 0)).map (·.slot)).dedup.foldl (fun s g =>
        let s := { s with charged := s.charged ++ [(c, g, 3, l)] }
        if (s.group c g).snapshot.isSome then s.voidRecords c g else s) t) s

/-- A record built from an overlay line in which an error stands has the error (Table 19.1). -/
def State.spoilRecords (s : State) (c seq : Nat) (ls : List Overlay) : State :=
  { s with upsets := s.upsets ++ (ls.filter (·.poison)).map (fun o =>
      ({ place := .record c seq o.line, fatal := true, found := false } : Upset)) }

/-- Seals the open segment where it holds records (R177, R179, R180): its contents are fixed at once, and the errors of its
overlay lines are met. -/
def State.sealSeg (s : State) (c : Nat) (forced : Bool) : State :=
  let s := s.chargeOverlay c ((s.core c).openLines.map (·.line))
  let k := s.core c
  let ls := k.openLines
  if ls.isEmpty then s
  else
    let s := s.spoilRecords c k.openSeq ls
    let recs := ls.map (fun o =>
      let g := s.group c o.slot
      ({ line := o.line, mask := o.mask, data := o.data, slot := o.slot, void := false, order := 0, owner := (g.launch, g.linear) } : Record))
    let g : Segment := { seq := k.openSeq, records := recs, at_ := none, ntick := none, waiting := [], published := false
                         routed := recs.any (fun r => isRemote (r.line * 64)), lost := false, forced := forced }
    (s.setCore c { k with openSeq := k.openSeq + 1, segs := k.segs ++ [g] }).placeSegment c

/-- Closes a workgroup's rollback interval (R344). -/
def State.closeInterval (s : State) (c g : Nat) : State :=
  match Tab.find g (s.core c).groups with
  | none => s
  | some x => s.setGroup c g { x with snapshot := none }

/-- The workgroups of a core that own records of a segment. -/
def State.segOwners (s : State) (c : Nat) (g : Segment) : List Nat :=
  (s.core c).groups.filterMap (fun (i, x) =>
    if g.records.any (fun r => !r.void && r.owner = (x.launch, x.linear)) then some i else none)

/-- Sends the fold notices of the next segment the publication asked for reaches, one segment at a time (R263): NTICK
is the sending tick, and a publication that carries a workgroup's records closes its interval (R344). -/
def State.sendNotices (s : State) (c : Nat) : State :=
  let k := s.core c
  match k.segs.find? (fun g => !g.published) with
  | none => s
  | some g =>
    if g.at_.isNone || g.ntick.isSome || k.goal < g.seq then s
    else
      let homes := ((g.records.filter (fun r => !isRemote (r.line * 64))).map (fun r => homeOf (r.line * 64))).dedup
      let g' := { g with ntick := some s.tick, waiting := homes }
      let s := s.setCore c (k.setSeg g')
      let owners := s.segOwners c g
      let s := owners.foldl (fun s i => (s.closeInterval c i).modGroup c i (fun x => { x with published := true })) s
      s.writeSegment c g'

/-- Asks for the publication of every segment sealed so far (R177). -/
def State.publish (s : State) (c : Nat) : State :=
  (s.modCore c (fun k => { k with goal := k.openSeq - 1 })).sendNotices c

/-- A forced publication (R180). -/
def State.forcePublish (s : State) (c : Nat) : State :=
  ((s.sealSeg c true).publish c).count c (coreCtr 0x43) 1

/-- Every segment up to a sequence number is published (R177). -/
def Core.publishedTo (k : Core) (seq : Nat) : Bool := k.segs.all (fun g => decide (seq < g.seq) || g.published)

/-- A published segment's overlay line becomes bytes of the line's L1 copy (R258): `order` is its record's place in the coherence
order. One in which an error stands leaves no copy. -/
def mergeOverlay (k : Core) (o : Overlay) (ntick order : Nat) : Core :=
  let own := fun (t : Tab Nat) => (setBits 64 o.mask).foldl (fun t i => Tab.put t i order) t
  if isRemote (o.line * 64) then k
  else if o.poison then { k with l1 := Tab.del k.l1 o.line }
  else match Tab.find o.line k.l1 with
    | some l =>
      let l' : L1Line := { l with
        data := lineMerge o.mask l.data o.data, tick := max l.tick ntick, newer := own l.newer
        poison := l.poison && o.mask ≠ BitVec.allOnes 64 }
      { k with l1 := Tab.put k.l1 o.line l' }
    | none =>
      let l' : L1Line :=
        { data := o.data, tick := ntick, order := o.order, newer := own [], used := 0, poison := o.tainted && o.mask ≠ BitVec.allOnes 64 }
      Core.useLine { k with l1 := Tab.put k.l1 o.line l' } o.line

/-- The place in the coherence order of a segment's record of a line. -/
def Segment.orderOf (g : Segment) (line : Nat) : Nat := ((g.records.find? (fun r => r.line = line)).map (·.order)).getD 0

/-- The acknowledgement of a segment by every home: the tidemark is written and the overlay lines merged (R258,
R262). -/
def State.tidemark (s : State) (c : Nat) : State :=
  let ready : Option Segment := (s.core c).segs.find? (fun g => !g.published)
  let s : State := match ready with
    | some g => if g.ntick.isSome && g.waiting = [] then
        s.chargeOverlay c (((s.core c).overlay.filter (fun o => decide (o.seg = g.seq))).map Overlay.line) else s
    | none => s
  let k := s.core c
  match k.segs.find? (fun g => !g.published) with
  | none => s
  | some g =>
    match g.ntick with
    | none => s
    | some nt =>
      if g.waiting ≠ [] then s
      else
        let mine := k.overlay.filter (fun (o : Overlay) => decide (o.seg = g.seq))
        let k := mine.foldl (fun k o => mergeOverlay k o nt (g.orderOf o.line)) k
        let k := { k.setSeg { g with published := true } with overlay := k.overlay.filter (fun o => o.seg ≠ g.seq) }
        let p := s.pubSlot c
        let size := max 1 (k.logSize / 64)
        let p := { p with seq := g.seq, offset := ((g.at_.getD 0) + segUnits g.records.length) % size }
        let s := (s.setCore c k.evict).count c (coreCtr 0x42) 1
        ({ s with pub := Tab.put s.pub c p }).sendNotices c

/-- A home queues the records of an arriving notice, invalidates the die caches' copies and acknowledges (R259, R263, R266). -/
def State.foldNotice (s : State) (c home : Nat) : State :=
  let k := s.core c
  match k.segs.find? (fun g => !g.published) with
  | none => s
  | some g =>
    if g.waiting.contains home then
      let here := g.records.map (fun (r : Record) => if homeOf (r.line * 64) = home then { r with order := s.arrivals + 1 } else r)
      let recs := (here.filter (fun r => homeOf (r.line * 64) = home)).map
        (fun r => ({ home := home, core := c, seq := g.seq, record := r } : FoldRec))
      let s := recs.foldl (fun (s : State) r => s.dropCopies r.record.line)
        { s with foldq := s.foldq ++ recs, arrivals := s.arrivals + 1 }
      s.setCore c (k.setSeg { g with records := here, waiting := g.waiting.filter (· ≠ home) })
    else s

/-- EBBMARK advances over published segments whose records are all folded, and their space is freed (R262, R266). -/
def State.ebbAdvance (s : State) (c : Nat) : Nat → State
  | 0 => s
  | n + 1 =>
    let k := s.core c
    match k.segs with
    | [] => s
    | g :: r =>
      if g.published && !g.routed && s.foldq.all (fun f => f.core ≠ c || f.seq ≠ g.seq) then
        let p := s.pubSlot c
        let size := max 1 (k.logSize / 64)
        let p := { p with ebbSeq := g.seq, ebbOffset := ((g.at_.getD 0) + segUnits g.records.length) % size }
        State.ebbAdvance ({ (s.setCore c { k with segs := r }) with pub := Tab.put s.pub c p }) c n
      else s

/-- The ebb engine folds the head record of a home (R266). -/
def State.ebbFold (s : State) (home : Nat) : State :=
  match s.foldq.find? (fun r => r.home = home) with
  | none => s
  | some r =>
    let s' := s.applyFold r
    let s' := { s' with foldq := s'.foldq.erase r }
    s'.ebbAdvance r.core ((s'.core r.core).segs.length)

/-- Every log's EBBMARK advances as far as it can, whichever fold or tidemark made that possible (R266). -/
def State.ebbAll (s : State) : State :=
  s.cores.foldl (fun s e => if e.2.segs.isEmpty then s else s.ebbAdvance e.1 e.2.segs.length) s

/-- A remote package acknowledges routed records, which enter its home view (R177, R235, R380). -/
def State.routedAck (s : State) (c : Nat) : State :=
  let k := s.core c
  match k.segs.find? (fun g => g.routed && g.ntick.isSome) with
  | none => s
  | some g =>
    let recs := g.records.filter (fun r => isRemote (r.line * 64))
    if recs.any (fun r => s.lost.contains (bitsAt (r.line * 64) 40 6)) then s
    else
      let s := recs.foldl (fun s r => s.applyRecord r) s
      let s := s.modCore c (fun k => k.setSeg { g with routed := false })
      s.ebbAdvance c (k.segs.length)

/-! Stores -/

/-- The overlay line that a store of a workgroup slot merges into: the line's overlay line in the open segment, under
the same slot (R257). -/
def Core.openOverlay (k : Core) (line slot : Nat) : Option Overlay :=
  k.openLines.find? (fun o => o.line = line && o.slot = slot)

/-- Takes an overlay line for a store, sealing the open segment first where it holds the line under another slot, and
filling it from a sealed overlay line or the home view (R165, R257). -/
def State.takeOverlay (s : State) (c line slot : Nat) : State :=
  let k := s.core c
  if (k.openOverlay line slot).isSome then s
  else
    let s := if k.openLines.any (fun o => o.line = line) then s.sealSeg c false else s
    let s := s.chargeOverlay c [line]
    let k := s.core c
    let last := (k.overlays line).getLast?
    let s := if last.isSome then s else s.readHome line
    let o : Overlay := match last with
      | some o => { o with mask := 0, slot := slot, seg := k.openSeq, poison := false, tainted := o.tainted || o.poison }
      | none => { line := line, data := s.homeLine line, mask := 0, slot := slot, seg := k.openSeq, order := s.arrivals, poison := false
                  tainted := s.isPoisoned line }
    (s.modCore c (fun k => Core.evict { k with overlay := k.overlay ++ [o] })).count c (coreCtr 0x41) 1

/-- Writes bytes of one line into the store's overlay line and marks them (R165). -/
def State.storeBytes (s : State) (c slot pa : Nat) (bs : List Byte) : State :=
  let line := pa / 64
  let s := s.takeOverlay c line slot
  let off := pa % 64
  s.modCore c (fun k => { k with overlay := k.overlay.map (fun o =>
    if o.line = line && o.seg = k.openSeq && o.slot = slot then
      { o with data := lineOf (fun i => if decide (off ≤ i) && decide (i < off + bs.length) then bs.getD (i - off) 0 else lineByte o.data i)
               mask := o.mask ||| maskOf 64 ((List.range bs.length).map (· + off)) }
    else o) })

/-- A store to some lines makes the log unit seal the open segment first: one of them is open there under another slot
(R257). -/
def Core.sealsFirst (k : Core) (slot : Nat) (lines : List Nat) : Bool :=
  k.openLines.any (fun o => lines.contains o.line && o.slot ≠ slot)

/-- The lines of a list for which a store of the slot would need a new overlay line: all of them, where it seals first. -/
def Core.newLines (k : Core) (slot : Nat) (lines : List Nat) : List Nat :=
  if k.sealsFirst slot lines then lines.dedup else lines.dedup.filter (fun l => (k.openOverlay l slot).isNone)

/-- A log-full stall (R180): the store needs a new overlay line while no line is free or a sealed segment waits for
room in the log area. -/
def Core.logFull (k : Core) (slot : Nat) (lines : List Nat) : Bool :=
  let n := (k.newLines slot lines).length
  n ≠ 0 && (decide (1024 < k.overlay.length + n) || k.segs.any (·.at_.isNone))

/-! Acquire -/

/-- Invalidates every L1 copy of a core; overlay lines stay, and their unmarked bytes follow the home view (R176, R241, R234). -/
def State.invalidateAll (s : State) (c : Nat) : State :=
  (s.core c).overlayLines.foldl (fun s l => s.refreshHome c l) (s.modCore c (fun k => { k with l1 := [] }))

/-- Invalidates the L1 copy of a line. -/
def State.invalidateLine (s : State) (c line : Nat) : State :=
  (s.modCore c (fun k => { k with l1 := Tab.del k.l1 line })).refreshHome c line

/-- The segments of a log that an acquire replays: from the cursor up to the tidemark (R176, R264). -/
def State.batch (s : State) (log cursor tide : Nat) : List Segment :=
  (s.core log).segs.filter (fun g => decide (cursor < g.seq) && decide (g.seq ≤ tide))

/-- The batch of one log taken by a replay of core `c`. -/
structure LogBatch where
  log : Nat
  tide : Nat
  segs : List Segment
  /-- EBBMARK lies beyond the cursor (R264). -/
  beyond : Bool
  deriving DecidableEq, Repr

def State.logBatch (s : State) (c log : Nat) : LogBatch :=
  let cur := Tab.get 0 (s.core c).cursors log
  let p := s.pubSlot log
  { log := log, tide := p.seq, segs := s.batch log cur p.seq, beyond := decide (cur < p.ebbSeq) }

/-- The records of a line in a batch, in segment order. -/
def LogBatch.records (b : LogBatch) (line : Nat) : List Record :=
  b.segs.flatMap (fun g => g.records.filter (fun r => r.line = line))

/-- A tick is before the earliest NTICK of the batch's segments that touch a line (R176). -/
def LogBatch.before (b : LogBatch) (line tick : Nat) : Bool :=
  b.segs.all (fun g => !(g.records.any (fun r => r.line = line)) || decide (tick < g.ntick.getD 0))

/-- A record of the batch for a line holds an uncorrectable error. -/
def State.badRecord (s : State) (b : LogBatch) (line : Nat) : Bool :=
  s.upsets.any (fun u => u.fatal && b.segs.any (fun g => u.place = .record b.log g.seq line))

/-- Patches a copy from a record: its bytes that the overlay does not mark (R176), but for those read at the home, or patched,
from later in the coherence order than the record (R234; log entry 24). -/
def L1Line.patch (l : L1Line) (k : Core) (r : Record) : L1Line :=
  if r.void then l
  else
    let at_ := (setBits 64 r.mask).filter (fun i =>
      (k.overlayByte (r.line * 64 + i)).isNone && decide ((Tab.find i l.newer).getD l.order < r.order))
    { l with data := lineOf (fun i => if at_.contains i then lineByte r.data i else lineByte l.data i)
             newer := at_.foldl (fun t i => Tab.put t i r.order) l.newer }

/-- Replays one line (R176): invalidated where two logs touch it or the copy is not older than the notices, patched
otherwise; a record with an uncorrectable error invalidates (Table 19.1). -/
def State.replayLine (s : State) (c : Nat) (bs : List LogBatch) (line : Nat) : State :=
  match Tab.find line (s.core c).l1 with
  | none => s.refreshHome c line
  | some l =>
    match bs.filter (fun b => !(b.records line).isEmpty) with
    | [b] =>
      if b.before line l.tick && !s.isPoisoned line && !s.badRecord b line then
        let l' := (b.records line).foldl (fun l r => l.patch (s.core c) r) l
        ((s.modCore c (fun k => { k with l1 := Tab.put k.l1 line l' })).refreshHome c line).count c (coreCtr 0x45) 1
      else (s.invalidateLine c line).count c (coreCtr 0x46) 1
    | _ => (s.invalidateLine c line).count c (coreCtr 0x46) 1

/-- Replay(logset) of a core's acquire (R176, R264): degraded, or the batch of every named log other than its own. -/
def State.replayLogs (s : State) (c : Nat) (logs : List Nat) (degrade system : Bool) : State :=
  let logs := logs.filter (· ≠ c)
  if degrade then
    let s := (s.invalidateAll c).modCore c (fun k =>
      { k with cursors := logs.foldl (fun t l => Tab.set 0 t l (s.pubSlot l).seq) k.cursors })
    s.count c (coreCtr 0x47) 1
  else
    let bs := logs.map (fun l => s.logBatch c l)
    let far := bs.any (·.beyond)
    let near := bs.filter (fun b => !b.beyond)
    let lines := (near.flatMap (fun b => b.segs.flatMap (fun g => g.records.map (·.line)))).dedup
    let s := lines.foldl (fun s l => s.replayLine c near l) s
    let s := if far then (s.invalidateAll c).count c (coreCtr 0x47) 1 else s
    let s := if system then s.invalidateAll c else s
    s.modCore c (fun k => { k with cursors := bs.foldl (fun t b => Tab.set 0 t b.log b.tide) k.cursors })

end Sys2Proof.Machine
end

