-- ==== Sys2Proof/Machine/Device.lean ====
section
/-! DEFINITION. What the package tells the outside: device events and interrupts (R374), error records (R347), and
the trace unit's packets (R356–R364). -/

namespace Sys2Proof.Machine

/-! Device events (R374, Table 21.5) -/

/-- The 16-byte entry of an event. -/
def eventEntry (num core slot fd region tick : Nat) : Nat :=
  num + 2 ^ 8 * core + 2 ^ 17 * slot + 2 ^ 24 * fd + 2 ^ 36 * region + 2 ^ 64 * tick

/-- An interface's event ring takes entries (R374). -/
def VI.ringUsable (v : VI) : Bool :=
  let n := BitVec.field v.evsize 4 0
  decide (8 ≤ n) && decide (n ≤ 16) && BitVec.field v.evsize 15 5 = 0 && v.evbase ≠ 0

/-- Raises an event on an interface: the ring entry first, then the interrupt; a full or unusable ring drops the entry
and sets OVF (R374). -/
def State.event (s : State) (v num core slot fd region : Nat) : State :=
  let vi := s.vi v
  let n := 2 ^ BitVec.field vi.evsize 4 0
  let used := (vi.evtail.toNat + n - vi.evhead.toNat % n) % n
  let s : State :=
    if vi.ringUsable && decide (used < n - 1) then
      let at' := vi.evtail.toNat % n
      (s.homeWrite (vi.evbase + 16 * at') (toBytes 16 (eventEntry num core slot fd region s.tick))).modVi v
        (fun x => { x with evtail := BitVec.ofNat 16 ((at' + 1) % n) })
    else s.modVi v (fun x => { x with ovf := true })
  { s with msis := s.msis ++ [({ addr := vi.msiaddr, data := vi.msidata + BitVec.ofNat 32 num, tick := s.tick } : Msi)] }

/-- An event of a workgroup's region. -/
def State.groupEvent (s : State) (g : Group) (num core slot : Nat) : State :=
  s.event g.region.vi num core slot g.region.faultDom g.region.index

/-- One error record, concerning a workgroup or none; an uncorrectable outcome also sends event 3, to the workgroup's
interface (R347, R374). -/
def State.errorRecord (s : State) (outcome store core loc : Nat) (x : Option Group) : State :=
  let s := { s with errors := s.errors ++
    [({ tick := BitVec.ofNat 64 s.tick, outcome := outcome, store := store, core := core, loc := loc } : ErrorRecord)] }
  if outcome = 0 then s.count core (coreCtr 0x4C) (if store ≤ 3 && store ≠ 1 then 1 else 0)
  else match x with
    | some g => s.groupEvent g 3 core 0
    | none => s.event 0 3 core 0 0 0

/-- The stack that holds a line (R265). -/
def stackOf (line : Nat) : Nat := homeOf (line * 64) / 16

/-- A corrected error of a line of a stack counts towards its scrubber's rate (R350). -/
def State.noteCorrected (s : State) (e : ErrorRecord) : State :=
  if e.outcome = 0 && decide (5 ≤ e.store) && stackOf e.loc < 16 then
    let q := Tab.get Scrubber.reset s.scrub (stackOf e.loc)
    { s with scrub := Tab.put s.scrub (stackOf e.loc) { q with corrected := q.corrected ++ [s.tick] } }
  else s

/-- Writes the error records of what has been found, one after the other (R347). -/
def State.reportFound (s : State) : State :=
  s.found.foldl (fun s e => (s.errorRecord e.outcome e.store e.core e.loc none).noteCorrected e) { s with found := [] }

/-! The trace unit -/

/-- A core's trace unit follows the warps of these slots (R356). -/
def Trace.covers (t : Trace) (slot : Nat) : Bool := t.en && decide (t.first ≤ slot) && decide (slot < t.first + t.count)

/-- Free bytes of the buffer (R359). -/
def Trace.room (t : Trace) : Nat := t.size.toNat - (t.write.toNat - t.read.toNat)

/-- Writes a whole packet at TBASE + (TWRITE mod TSIZE), wrapping at the end of the buffer, or drops it (R356, R359,
R361). -/
def State.putPacket (s : State) (c : Nat) (bs : List Byte) : State :=
  let t := (s.core c).trace
  if t.dropped ≠ 0 || t.room < bs.length || t.size = 0 then
    (s.modCore c (fun k => { k with trace := { t with
      dropped := t.dropped + 1, firstDrop := if t.dropped = 0 then s.tick else t.firstDrop, lastDrop := s.tick } })).count
        c (coreCtr 0x4F) 1
  else
    let s := (bs.zipIdx).foldl
      (fun s (b, i) => s.homeWrite (t.base.toNat + (t.write.toNat + i) % t.size.toNat) [b]) s
    s.modCore c (fun k => { k with trace := { t with write := t.write + BitVec.ofNat 64 bs.length } })

/-- Each gang of each warp of a core that has a live slice (R363). -/
def Core.gangMarks (k : Core) : List GangMark :=
  k.warps.flatMap (fun (slot, w) => w.gangs.map (fun g =>
    let sl := w.slice (gangLeader g)
    ({ slot := slot, pc := sl.pc, gang := g, m0 := w.m0 g, depth := sl.depth } : GangMark)))

/-- An entry of a SYNC (R357). -/
def GangMark.entry (q : GangMark) : List Byte :=
  toBytes 8 (q.pc.toNat + 2 ^ 57 * q.slot) ++ toBytes 8 (q.gang.toNat + 2 ^ 16 * q.m0.toNat + 2 ^ 48 * q.depth)

/-- The SYNC entries of the present tick: the gangs of the traced warps as they stood when it began (R363). -/
def State.syncNow (s : State) (c : Nat) : List Byte :=
  let k := s.core c
  ((if k.trace.startTick = s.tick then k.trace.atStart else k.gangMarks).filter (fun q => k.trace.covers q.slot)).flatMap GangMark.entry

/-- Writes a SYNC (R358, R363). -/
def State.putSync (s : State) (c : Nat) : State :=
  let es := s.syncNow c
  let at' := (s.core c).trace.write
  let n0 := (s.core c).trace.dropped
  let s := s.putPacket c ([0x08, BitVec.ofNat 8 (es.length / 16)] ++ toBytes 8 s.tick ++ es)
  if (s.core c).trace.dropped = n0 then
    s.modCore c (fun k => { k with trace := { k.trace with
      sync := at', tick := s.tick, owed := false, syncTick := s.tick } })
  else s

/-- The SYNC that must precede the next packet, where one is due (R357, R358); while packets are being dropped none is
(R359, Table 20.7). -/
def State.traceSyncDue (s : State) (c : Nat) : State :=
  let t := (s.core c).trace
  if t.dropped = 0 && (t.owed || 4096 ≤ t.write.toNat - t.sync.toNat) then s.putSync c else s

/-- Moves the running base tick to the present, unless the packet just put was dropped (R362). -/
def State.traceBase (s : State) (c dropped : Nat) : State :=
  if (s.core c).trace.dropped = dropped then s.modCore c (fun k => { k with trace := { k.trace with tick := s.tick } }) else s

/-- The DELTA that must precede the next packet, where the gap is too long for its tag (R362); while packets are being
dropped none is due (R359, Table 20.7). -/
def State.traceDelta (s : State) (c : Nat) : State :=
  let t := (s.core c).trace
  let gap := s.tick - t.tick
  if t.dropped = 0 && decide (63 < gap) then (s.putPacket c (0x0A :: toBytes 4 gap)).traceBase c t.dropped else s

/-- A packet with its tag (R357). -/
def State.putTagged (s : State) (c : Nat) (q : TracePkt) : State :=
  let t := (s.core c).trace
  let tag := q.slot * 512 + q.low * 64 + (s.tick - t.tick) % 64
  (s.putPacket c (q.type :: toBytes 2 tag ++ q.rest)).traceBase c t.dropped

/-- Puts a packet among those of its tick in ascending warp slot, then slice, behind those of its own gang (R358). -/
def insertPkt (q : TracePkt) : List TracePkt → List TracePkt
  | [] => [q]
  | p :: r =>
    if q.slot < p.slot || (q.slot = p.slot && decide (q.low < p.low)) then q :: p :: r else p :: insertPkt q r

/-- The packets of the tick that ends, in their order, each with the SYNC and the DELTA that must precede it (R357, R358,
R362). -/
def State.flushTrace (s : State) (c : Nat) : State :=
  let ps := ((s.core c).trace.packets).foldl (fun l q => insertPkt q l) []
  let s := s.modCore c (fun k => { k with trace := { k.trace with packets := [] } })
  ps.foldl (fun s q => ((s.traceSyncDue c).traceDelta c).putTagged c q) s

/-- One tagged packet of a gang, where its warp slot is traced; it is written when the tick ends (R358). -/
def State.tracePacket (s : State) (c slot : Nat) (g : Mask8) (type : Byte) (rest : List Byte) : State :=
  if (s.core c).trace.covers slot then
    s.modCore c (fun k => { k with trace := { k.trace with packets := k.trace.packets ++
      [({ slot := slot, low := gangLeader g, type := type, rest := rest } : TracePkt)] } })
  else s

/-- An INDIRECT packet (Table 19.7). -/
def State.traceIndirect (s : State) (c slot : Nat) (issuer g : Mask8) (target : VA) : State :=
  s.tracePacket c slot issuer 0x02 (BitVec.ofNat 8 g.toNat :: toBytes 8 target.toNat)

/-- An EVENT packet: 0 exit, 1 handler entry, 2 SUPRET, 3 halt, 4 saved, 5 restored, 6 rollback (Table 19.7). -/
def State.traceEvent (s : State) (c slot : Nat) (g : Mask8) (kind : Nat) : State :=
  s.tracePacket c slot g (BitVec.ofNat 8 (0x07 + 16 * kind)) []

/-- A CALL packet: bit 4 return, bit 5 gate (Table 19.7). -/
def State.traceCall (s : State) (c slot : Nat) (g : Mask8) (ret gate : Bool) : State :=
  s.tracePacket c slot g (BitVec.ofNat 8 (0x06 + 16 * ret.toNat + 32 * gate.toNat)) []

/-- A MASK packet where the m0 bits of a gang changed between two states (Table 19.7). -/
def State.traceMask (s pre : State) (c slot : Nat) (g : Mask8) : State :=
  let m := fun (t : State) => (gangSlices g).foldl
    (fun a j => a + (Tab.get 0 ((t.warp c slot).slice j).m 0).toNat * 2 ^ (4 * j)) 0
  if m pre = m s then s else s.tracePacket c slot g 0x04 (toBytes 4 (m s))

/-- MASK packets of every gang of a warp (Table 19.7). -/
def State.traceMasks (s pre : State) (c slot : Nat) : State := ((s.warp c slot).gangs).foldl (fun s g => s.traceMask pre c slot g) s

/-- A LOSS and the SYNC after it, once 2,048 bytes are free (R359). -/
def State.traceLossOut (s : State) (c : Nat) : State :=
  let t := (s.core c).trace
  if t.dropped ≠ 0 && decide (2048 ≤ t.room) then
    let bs := 0x09 :: toBytes 4 t.dropped ++ toBytes 8 t.firstDrop ++ toBytes 8 t.lastDrop
    let s := s.modCore c (fun k => { k with trace := { k.trace with dropped := 0, firstDrop := 0, lastDrop := 0 } })
    (s.putPacket c bs).putSync c
  else s

/-- Time passes: 10 of 33 parts of a tick. Where a tick ends, its packets are written, and a new one begins with the gangs as
they stand (R358, R363). -/
def State.passTime (s : State) : State :=
  let t := { s with quanta := s.quanta + 10 }
  if t.tick = s.tick then t
  else
    let traced := (s.cores.filter (fun e => e.2.trace.en || !e.2.trace.packets.isEmpty)).map (·.1)
    let s := traced.foldl (fun s c => s.flushTrace c) s
    let s := { s with quanta := s.quanta + 10 }
    { s with cores := s.cores.map (fun e => (e.1, { e.2 with trace := { e.2.trace with atStart := e.2.gangMarks, startTick := s.tick } })) }

end Sys2Proof.Machine
end

