-- ==== Sys2Proof/Machine/Frames.lean ====
section
/-! DEFINITION. The frame stack and the undertow (R24–R36, R117, R126, R273, R331): which stack a row spills to,
making room, opening, resizing and closing frames, spills that land and rows that come back. -/

namespace Sys2Proof.Machine

/-- The number of open gate frames whose service owns the row at a stack position; a gate frame's header row belongs
to the caller (R126). -/
def Slice.level (sl : Slice) (pos : Nat) : Nat :=
  (sl.gates.filter (fun g => decide (g.first ≤ pos) && pos ≠ g.hdr)).length

/-- The save-stack entry that guards the rows of a level, counted from the outermost caller; `none` for the innermost
owner, whose stack SPILLTOP itself addresses (R126). -/
def Slice.guardOf (sl : Slice) (level : Nat) : Option GateSave := sl.gates.reverse[level]?

/-- SPILLTOP of the stack a level spills to. -/
def Slice.topOf (sl : Slice) (level : Nat) : VA := match sl.guardOf level with | some g => g.spillTop | none => sl.spillTop

/-- Base of the stack a level spills to. -/
def Slice.baseOf (sl : Slice) (level : Nat) : VA := match sl.guardOf level with | some g => g.base | none => sl.bsBase

/-- First address beyond the stack a level spills to: BSLIMIT, or the latched limit of the gate it runs in. -/
def Slice.limitOf (sl : Slice) (level : Nat) : VA :=
  if level = 0 then sl.bsLimit else match sl.guardOf (level - 1) with | some g => g.limit | none => sl.bsLimit

/-- ASID that owns the rows of a level (R34, R126). -/
def Slice.asidOf (sl : Slice) (asid : BitVec 16) (level : Nat) : BitVec 16 :=
  match sl.guardOf level with | some g => g.asid | none => asid

/-- Moves a level's SPILLTOP. -/
def Slice.setTopOf (sl : Slice) (level : Nat) (t : VA) : Slice :=
  match sl.guardOf level with
  | some _ =>
    { sl with gates := (sl.gates.reverse.zipIdx.map (fun (g, i) => if i = level then { g with spillTop := t } else g)).reverse }
  | none => { sl with spillTop := t }

/-- Resident rows of the slice (R331). -/
def Slice.resident (sl : Slice) : Nat := sl.top - sl.low

/-- Rows spilled on every stack of the slice. -/
def Slice.spilled (sl : Slice) : Nat := sl.low

/-- The oldest row that stands in the ring: rows whose refills have not landed count as resident below it (R331). -/
def Slice.landedLow (sl : Slice) : Nat := sl.low + sl.coming.length

/-- Whether the oldest resident row may not be spilled now: it is pinned (R36), or a variable-latency result is still to be written
to it (log entry 16). -/
def Slice.oldestPinned (sl : Slice) (B : Nat) : Bool :=
  sl.pins.any (fun p => p.1 = sl.low % B)
  || sl.hazards.any (fun h => h.kind = .row && h.idx = sl.low % B && h.varLat && !h.landed)

/-- The current frame, from its FP through its header row, is wholly resident. -/
def Slice.frameResident (sl : Slice) : Bool := decide (sl.landedLow ≤ sl.top - 2 - sl.fsz)

/-- Gives the status word of an unwound gate to the caller's f(FSZ − 1), in the lanes of the entry mask, once the frame
is resident (R127). -/
def Slice.takeStatus (sl : Slice) (B : Nat) : Slice :=
  match sl.unwound with
  | none => sl
  | some st =>
    if sl.frameResident then
      let r := sl.ringRow B (sl.fsz - 1)
      ({ sl with unwound := none } : Slice).putRow r (rowMerge (Tab.get 0 sl.m 0) (Tab.get 0 sl.rows r) (rowOf4 (fun _ => st)))
    else sl

/-- The oldest resident row. -/
def Slice.oldestRow (sl : Slice) (B : Nat) : W128 :=
  match Tab.find sl.low sl.aside with
  | some r => r
  | none => Tab.get 0 sl.rows (sl.low % B)

/-- Puts rows, as `v` has them, into the ring rows listed. -/
def Slice.putRows (sl : Slice) (rs : List Nat) (v : Nat → W128) : Slice := rs.foldl (fun s r => s.putRow r (v r)) sl

/-- Rows come back for a stalled RET take their ring rows once the closing frame has given them up. -/
def Slice.settle (sl : Slice) (B : Nat) : Slice :=
  let (home, rest) := (sl.aside.filter (fun e => decide (e.1 < sl.top))).partition (fun e => decide (sl.top ≤ e.1 + B))
  { (home.foldl (fun (s : Slice) e => s.putRow (e.1 % B) e.2) sl) with aside := rest, returning := false }

/-- The lanes in which some frame that holds the row at a stack position defines it (R29; log entry 91): the entry masks of
the frames, from the one whose header stands at `hdr` down to the last that reaches the row; all four for a header row, the
root frame and a gate frame. `fuel` bounds the frames. -/
def Slice.lanesAt (sl : Slice) (B pos : Nat) : Nat → Nat → Nat → Nat → BitVec 4
  | 0, _, _, _ => 15
  | fuel + 1, hdr, fsz, depth =>
    let h := Tab.get 0 sl.rows (hdr % B)
    let fp1 := hdr - fsz
    let own : BitVec 4 := if depth = 0 || hdGate h then 15 else hdEntry h
    if pos = hdr then 15
    else if pos + 1 < fp1 then
      (if depth = 0 then 15 else Slice.lanesAt sl B pos fuel (fp1 + hdK h - 1) (hdCallerFsz h) (depth - 1))
    else if depth = 0 || fp1 + hdK h - 1 < pos then own
    else own ||| Slice.lanesAt sl B pos fuel (fp1 + hdK h - 1) (hdCallerFsz h) (depth - 1)

/-- Spills the oldest resident row: it is copied out at once and held until its write lands (R30, R331); in the lanes that no
frame of the row defines, what is spilled is undefined (R29). -/
def Slice.spillOne (sl : Slice) (B seed : Nat) (asid : BitVec 16) : Slice :=
  let lv := sl.level sl.low
  let t := sl.topOf lv
  let d := sl.lanesAt B sl.low (sl.depth + 1) (sl.top - 1) sl.fsz sl.depth
  let row := rowMerge d (rowOf4 (fun l => free32 seed (regKey sl.num .row (sl.low % B) l + 4000000 * 5))) (sl.oldestRow B)
  let h : HeldSpill := { pos := sl.low, va := t, asid := sl.asidOf asid lv, row := row, level := lv, poison := false }
  { (sl.setTopOf lv (t + 16)) with
    low := sl.low + 1, aside := Tab.del sl.aside sl.low, held := sl.held ++ [h], spilledRows := Tab.put sl.spilledRows sl.low row
    spilledAt := Tab.del sl.spilledAt sl.low }

/-- Outcome of making room (R31, R33, R36). -/
inductive Room where
  | ok (sl : Slice) (spills : Nat)
  /-- The margin needs a pinned row, and too few rows are free, or a row whose refill has not landed. -/
  | stall
  | overflow
  deriving DecidableEq, Repr

/-- Spills oldest rows until `need + 8` ring rows are free, never one at or above position `keep`, stopping at a
pinned row; a row whose refill is under way counts as resident, and is spilled once it has landed (R331). `fuel` bounds the
spills (R31, R33, R36). -/
def Slice.makeRoom (sl : Slice) (B seed : Nat) (asid : BitVec 16) (need keep : Nat) : Nat → Nat → Room
  | 0, n => if sl.resident + need ≤ B then .ok sl n else .stall
  | fuel + 1, n =>
    if sl.resident + need + 8 ≤ B || keep ≤ sl.low then (if sl.resident + need ≤ B then .ok sl n else .stall)
    else if !sl.coming.isEmpty then .stall
    else if sl.oldestPinned B then (if sl.resident + need ≤ B then .ok sl n else .stall)
    else
      let lv := sl.level sl.low
      if (sl.limitOf lv).toNat < (sl.topOf lv).toNat + 16 then .overflow
      else Slice.makeRoom (sl.spillOne B seed asid) B seed asid need keep fuel (n + 1)

/-- New rows hold free values: registers of a new frame are undefined until written (R117, R121). Nothing writes them, so that
they take no shadow block (R256). -/
def Slice.freeRows (sl : Slice) (B seed first n : Nat) : Slice :=
  { sl with rows := ((List.range n).map (fun i => (first + i) % B)).foldl (fun t r =>
      Tab.set 0 t r (rowOf4 (fun l => free32 seed (regKey sl.num .row r l + 4000000 * 4)))) sl.rows }

/-- Opens a frame of `size` registers over `k` of the current one, room having been made (R26, R117). No RET asks for refills any
more: below the new frame the margin of R31 holds (R32). -/
def Slice.openFrame (sl : Slice) (B seed size k : Nat) (header : W128) : Slice :=
  let new := size - k + 1
  let s1 := sl.freeRows B seed sl.top (new - 1)
  let top := sl.top + new
  { s1.putRow ((top - 1) % B) header with top := top, fsz := size, depth := sl.depth + 1, returning := false, refillTo := none }

/-- The stack position of the current frame's FP plus one, so that the root frame's is 0 (R27). -/
def Slice.fpPos1 (sl : Slice) : Nat := sl.top - 1 - sl.fsz

/-- The stack position of the caller's header row (R26). -/
def Slice.callerHdr (sl : Slice) (B : Nat) : Nat := sl.fpPos1 + hdK (sl.hdr B) - 1

/-- The oldest stack position of the caller's frame, from its FP (R32). -/
def Slice.callerLow (sl : Slice) (B : Nat) : Nat := sl.callerHdr B - (hdCallerFsz (sl.hdr B) + 1)

/-- The caller frame is wholly resident (R32). -/
def Slice.callerResident (sl : Slice) (B : Nat) : Bool := decide (sl.landedLow ≤ sl.callerLow B)

/-- Closes the current frame (R26, R118 step 5), the ring rows of `gone` quenched, and asks for the refills of R32. -/
def Slice.closeFrameOver (sl : Slice) (B : Nat) (gone : List Nat) : Slice :=
  let h := sl.hdr B
  let top := sl.callerHdr B + 1
  let s0 := sl.putRows gone (fun _ => 0)
  let s1 := { s0 with top := top, fsz := hdCallerFsz h, depth := sl.depth - 1 }
  { s1.settle B with refillTo := some (s1.fpPos1 - 9) }

/-- Closes the current frame (R26, R118 step 5) and asks for the refills of R32. -/
def Slice.closeFrame (sl : Slice) (B : Nat) : Slice := sl.closeFrameOver B []

/-- Replaces the current frame by one of `size` registers with the same FP, K and header fields (R121, R122), room
having been made. -/
def Slice.resize (sl : Slice) (B seed size : Nat) : Slice :=
  let h := sl.hdr B
  let pos := sl.top - 1
  let top := sl.fpPos1 + size + 1
  let s1 := if sl.fsz < size then sl.freeRows B seed pos (size - sl.fsz) else sl
  { s1.putRow ((top - 1) % B) h with
            top := top, fsz := size, refillTo := if sl.fsz < size then none else sl.refillTo
            gates := sl.gates.map (fun g => if g.hdr = pos then { g with hdr := top - 1 } else g) }

/-- The room a resize needs (R121): none where the frame shrinks. -/
def Slice.resizeNeed (sl : Slice) (size : Nat) : Nat := size - sl.fsz

/-- A backing-store fault becomes pending against its slice (R34): PAGE sub-kind 1 in all four lanes, delivered W for
a row that is the caller's under a gate open now (R126). -/
def Slice.frameFault (sl : Slice) (j : Nat) (f : XlatFail) (va : VA) (level : Nat) : Slice :=
  if sl.pending.any (fun p => p.sub ≠ 2) then sl
  else
    let m : Mask32 := BitVec.ofNat 32 (15 * 2 ^ (4 * j))
    let p : PendFault := match f with
      | .minor => { cause := 0x08, cls := if level < sl.gates.length then .w else .s, sub := 1, mask := m, va := va }
      | .major => { cause := 0x08, cls := .w, sub := 1, mask := m, va := va }
      | .prot => { cause := 0x09, cls := .h, sub := 0, mask := m, va := va }
    { sl with pending := sl.pending ++ [p], resting := true }

/-- Moves the spill stack that SPILLTOP addresses: it keeps the rows it holds, so that its base moves along (R30, R229). -/
def Slice.moveTop (sl : Slice) (v : VA) : Slice :=
  { sl with bsBase := v - (sl.spillTop - sl.bsBase), spillTop := v, newSpillTop := none }

/-- Lets the undertow retry a transfer that faulted, its fault having been delivered and the handler having returned
(R34). -/
def Slice.retries (sl : Slice) : Slice := { sl with resting := sl.pending.any (fun p => p.sub ≠ 2) }

/-- How many of the oldest held spills are written together: four that take consecutive entries from a multiple of 64,
else one (R273). -/
def gathered (l : List HeldSpill) : Nat :=
  match l with
  | a :: b :: c :: d :: _ =>
    if a.va.toNat % 64 = 0 && [b, c, d].map (fun h => h.va) = [a.va + 16, a.va + 32, a.va + 48]
        && [b, c, d].all (fun h => h.asid = a.asid && h.level = a.level) then 4 else 1
  | _ => 1

/-- A value that MTS wrote to SPILLTOP takes effect once no transfer is in flight (R229). -/
def Slice.takeTop (sl : Slice) : Slice :=
  match sl.newSpillTop with
  | some t => if sl.held.isEmpty && sl.coming.isEmpty then sl.moveTop t else sl
  | none => sl

/-- A slice's oldest held spills land: the rows are written in place at the home (R273, R331), or the fault becomes
pending and they are retried later (R34). A spill below the interval's starting SPILLTOP closes it (R344). -/
def State.spillLand (s : State) (c slot j : Nat) : State :=
  let w := s.warp c slot
  let sl := w.slice j
  match sl.held with
  | [] => s
  | h :: _ =>
    if sl.resting then s
    else match s.xlate c (s.tableOf c w.group) h.asid h.va.toNat false true false with
    | .error f => s.setWarp c slot (w.setSlice j (sl.frameFault j f h.va h.level))
    | .ok pa =>
      let n := gathered sl.held
      let out := sl.held.take n
      let sl' := ({ sl with held := sl.held.drop n
                            spilledAt := out.zipIdx.foldl (fun t e => Tab.put t e.1.pos (pa + 16 * e.2)) sl.spilledAt } : Slice).takeTop
      let s := ((s.notePage (s.tableOf c w.group) h.asid h.va.toNat).setWarp c slot (w.setSlice j sl')).homeWrite pa (out.flatMap (fun q => toBytes 16 q.row.toNat))
      let s := if out.any (·.poison) then s.poisonLine (pa / 64) 7 c else s
      match (s.group c w.group).snapshot with
      | none => s
      | some sn =>
        if sn.spill.any (fun (a, b, t) => a = slot && b = j && decide (h.va.toNat < t.toNat)) then s.closeInterval c w.group
        else s

/-- The stack positions of a slice's spilled rows whose entries bytes at a physical address meet; `place` gives the address of an
entry whose write has not landed. -/
def Slice.spilledOver (sl : Slice) (place : HeldSpill → Option Nat) (pa n : Nat) : List Nat :=
  let meets := fun (q : Nat) => decide (q < pa + n) && decide (pa < q + 16)
  (sl.spilledAt.filter (fun e => meets e.2)).map (·.1)
    ++ (sl.held.filter (fun h => match place h with | some q => meets q | none => false)).map (·.pos)

/-- The row that stands spilled at a stack position is no longer what its spill wrote (R273). -/
def Slice.spoilRow (sl : Slice) (pos : Nat) : Slice := { sl with spilledRows := Tab.del sl.spilledRows pos }

/-- A program stores bytes: the rows spilled there are undefined from now on, whatever the bytes are (R273; log entry 53). -/
def State.spoilSpilled (s : State) (pa n : Nat) : State :=
  let hit := fun (c : Nat) (v : AsidTable) (sl : Slice) => sl.spilledOver (fun h =>
    match s.xlate c v h.asid h.va.toNat false true false with
    | .ok q => some q
    | .error _ => none) pa n
  let hits := s.cores.flatMap (fun e => e.2.warps.flatMap (fun w => w.2.slices.flatMap (fun q =>
    (hit e.1 (s.tableOf e.1 w.2.group) q.2).map (fun pos => (e.1, w.1, q.1, pos)))))
  let t := hits.foldl (fun (t : State) h =>
    t.modWarp h.1 h.2.1 (fun w => w.setSlice h.2.2.1 ((w.slice h.2.2.1).spoilRow h.2.2.2))) s
  { t with saved := t.saved.map (fun (x : Saved) => { x with warps := x.warps.map (fun w => (w.1, { w.2 with slices := w.2.slices.map (fun q =>
      (q.1, (hit x.core x.group.region.table q.2).foldl Slice.spoilRow q.2)) })) }) }

/-- Whether the undertow has a refill to issue for a slice (R32): rows stand spilled on the stack of the row's level. -/
def Slice.wantsRefill (sl : Slice) (B : Nat) : Bool :=
  match sl.refillTo with
  | none => false
  | some t =>
    let lv := sl.level (sl.low - 1)
    decide (t < sl.low) && (decide (sl.resident < B) || sl.returning) && sl.live
      && decide ((sl.baseOf lv).toNat + 16 ≤ (sl.topOf lv).toNat)

/-- Issues refills of the youngest spilled rows, as many as are wanted: each counts as resident from here on and lowers its
SPILLTOP (R30, R331). `fuel` bounds them. -/
def Slice.issueRefills (sl : Slice) (B : Nat) (asid : BitVec 16) : Nat → Slice
  | 0 => sl
  | fuel + 1 =>
    if sl.wantsRefill B then
      let pos := sl.low - 1
      let lv := sl.level pos
      let va := sl.topOf lv - 16
      let r : Refill := { pos := pos, va := va, asid := sl.asidOf asid lv, level := lv }
      Slice.issueRefills { (sl.setTopOf lv va) with
        low := pos, coming := sl.coming ++ [r], refillTo := if sl.refillTo = some pos then none else sl.refillTo } B asid fuel
    else sl

/-- A row that has come back stands in its ring row, or aside while the closing frame of a stalled RET still fills it. -/
def Slice.refilled (sl : Slice) (B : Nat) (r : Refill) (row : W128) : Slice :=
  let s1 : Slice := if r.pos + B < sl.top then { sl with aside := Tab.put sl.aside r.pos row } else sl.putRow (r.pos % B) row
  (({ s1 with coming := sl.coming.tail, spilledRows := Tab.del sl.spilledRows r.pos
              spilledAt := Tab.del sl.spilledAt r.pos } : Slice).takeTop).takeStatus B

/-- What a refill's read of its row ends in. -/
inductive RefillEnd where
  /-- It waits. -/
  | still
  | landed
  /-- The line holds poison (R345). -/
  | poison (line : Nat)
  /-- The package that holds the row's line is lost (R380). -/
  | lost (line : Nat)
  deriving DecidableEq, Repr

/-- The undertow issues the refills a slice wants, and brings back the row of the oldest one (R30, R32, R331): it waits
while spills of the slice are held, which come before it (R273), and a fault becomes pending. A row whose backing store no
longer holds what its spill wrote is undefined (R273). -/
def State.refillOne (s : State) (c slot j : Nat) : State × RefillEnd :=
  let s := s.modWarp c slot (fun w => w.setSlice j ((w.slice j).issueRefills w.rowB w.asid w.rowB))
  let w := s.warp c slot
  let sl := w.slice j
  match sl.coming with
  | [] => (s, .still)
  | r :: _ =>
    if sl.resting || !sl.held.isEmpty then (s, .still)
    else match s.xlate c (s.tableOf c w.group) r.asid r.va.toNat true false false with
      | .error f => (s.setWarp c slot (w.setSlice j (sl.frameFault j f r.va r.level)), .still)
      | .ok pa =>
        let s := s.readHome (pa / 64)
        if s.lostAt pa then (s, .lost (pa / 64))
        else if s.isPoisoned (pa / 64) then (s, .poison (pa / 64))
        else
          let (d, s) := s.draw1
          let home := BitVec.ofNat 128 (ofBytes (s.homeBytes pa 16))
          let row := if Tab.find r.pos sl.spilledRows = some home then home else rowOf4 (fun l => free32 d l)
          ((s.setWarp c slot (w.setSlice j (sl.refilled w.rowB r row))).count c (coreCtr 0x49) 1, .landed)

/-- Writes zero to frame registers in all four lanes (Quench, R44). -/
def Slice.quenchRows (sl : Slice) (B : Nat) (regs : List Nat) : Slice :=
  sl.putRows (regs.map (sl.ringRow B)) (fun _ => 0)

/-- Quench of the registers outside the frame: the s-registers of a mask, p0–p6, m1–m7 and b0–b15 (R44). -/
def Slice.quenchRegs (sl : Slice) (scrub : W32) : Slice :=
  { sl with s := sl.s.filter (fun e => !scrub.getLsbD e.1), p := [], b := []
            m := sl.m.filter (fun e => e.1 = 0)
            hazards := sl.hazards.filter (fun h => match h.kind with
              | .row | .hrow | .fs | .sys => true
              | .s => !scrub.getLsbD h.idx
              | .m => h.idx = 0
              | .b | .p => false) }

end Sys2Proof.Machine
end

