-- ==== Sys2Proof/Machine/Save.lean ====
section
/-! DEFINITION. Stopping and moving workgroups: voided records (R261), freed resources, the steps of a save (R325–R327),
mooring (R274), the rollback interval (R256, R343–R345), and halts (R316). -/

namespace Sys2Proof.Machine

/-- Decrements a token counter of a warp (R18); `tok` is the token plus one, 0 for none. -/
def State.decTok (s : State) (c slot tok : Nat) : State :=
  if tok = 0 then s
  else s.modWarp c slot (fun w => { w with tok := Tab.set 0 w.tok (tok - 1) (Tab.get 0 w.tok (tok - 1) - 1) })

/-- Abandons copy requests of a warp (R221, R316): all of them, or those that a fault holds; their tokens are counted
down. -/
def State.abandonCopies (s : State) (c slot : Nat) (all : Bool) : State :=
  let k := s.core c
  let mine := k.copyq.filter (fun r => r.slot = slot && (all || r.held))
  let ids := mine.map (·.id)
  let s := s.setCore c { k with copyq := k.copyq.filter (fun r => !ids.contains r.id)
                                chunks := k.chunks.filter (fun q => !ids.contains q.req) }
  let s := mine.foldl (fun s r => s.decTok c slot r.tok) s
  s.modWarp c slot (fun w => { w with pend := w.pend.filter (fun p => match p.op with
    | .engine r => !ids.contains r
    | _ => true) })

/-! Mooring (R274) -/

/-- The pool granules of a core that no resident workgroup and no moored context holds. -/
def Core.idle (k : Core) : List Nat :=
  (List.range 96).filter (fun i =>
    !(k.groups.any (fun e => e.2.grans.contains i))
    && !(k.moored.any (fun m => decide (m.first ≤ i) && decide (i < m.first + m.count))))

/-- The first run of `n` consecutive idle granules. -/
def Core.idleRun (k : Core) (n : Nat) : Option Nat :=
  let idle := k.idle
  idle.find? (fun a => (List.range n).all (fun i => idle.contains (a + i)))

/-- The mooring-table entry of a core (Table 13.7). -/
def Core.mooringEntry (k : Core) : W128 :=
  let moored := k.moored.foldl (fun a m => a + m.count) 0
  BitVec.ofNat 128 (k.idle.foldl (fun a i => a + 2 ^ i) 0 + 2 ^ 96 * moored)

/-- The core rewrites its entry of the mooring table, its idle granules having changed (R274). -/
def Core.moor (k : Core) : Core := { k with mooring := k.mooringEntry }

/-! Resources -/

/-- Removes every trace of a workgroup's work from its core, and frees its granules and warp slots. -/
def State.dropGroup (s : State) (c g : Nat) : State :=
  s.modCore c (fun k =>
    let slots := (Tab.get Group.empty k.groups g).slots
    let reqs := (k.copyq.filter (fun r => r.group = g)).map (·.id)
    Core.moor
      { k with warps := k.warps.filter (fun e => !slots.contains e.1)
               groups := Tab.del k.groups g
               copyq := k.copyq.filter (fun r => r.group ≠ g)
               chunks := k.chunks.filter (fun q => !reqs.contains q.req)
               mq := k.mq.filter (fun e => e.group ≠ g)
               windows := k.windows.filter (fun e => e.group ≠ g) })

/-- Fields of the partition word (Table 13.1). -/
def pwReg (p : W32) : Nat := BitVec.field p 6 0
def pwSpad (p : W32) : Nat := BitVec.field p 13 7
def pwAcc (p : W32) : Nat := BitVec.field p 20 14
def pwShadow (p : W32) : Nat := BitVec.field p 27 21
def pwTotal (p : W32) : Nat := pwReg p + pwSpad p + pwAcc p + pwShadow p

/-- FP64 in a stage of a format block. -/
def fmtWide (f : W64) : Bool := BitVec.field f 3 0 = 3

/-- Bytes of the carry tiles a chain stopped mid-way holds (R203, R326). -/
def EngInstr.carryBytes (e : EngInstr) : Nat :=
  let n := 2 * e.blk * e.pairs * e.cols
  let one := match BitVec.field e.fmt 45 44 with
    | 1 => 2 * n
    | 2 => n + n / (32 * 2 ^ BitVec.field e.fmt 26 25)
    | _ => if fmtWide e.fmt then 8 * n else 4 * n
  let pad := fun b => (b + 63) / 64 * 64
  (if e.carry.isEmpty then 0 else pad one) + (if e.partialOut.isEmpty then 0 else pad one)

/-- The size of a context (R326). -/
def Group.contextBytes (g : Group) (carry : Nat) : Nat :=
  256 + 8192 * g.slots.length + 8192 + 1024 * pwAcc g.partition + carry
    + 16384 * (pwReg g.partition + pwSpad g.partition + pwAcc g.partition)

/-- The 256-byte context header (Table 16.5). -/
def Saved.header (x : Saved) (carry : Nat) : List Byte :=
  toBytes 256 (x.mgran * 2 ^ 16 + x.mcore * 2 ^ 23 + x.place * 2 ^ 38 + x.kind * 2 ^ 46 + x.warps.length * 2 ^ 49
    + x.core * 2 ^ 55 + carry * 2 ^ 64 + x.bytes * 2 ^ 96 + x.group.partition.toNat * 2 ^ 128 + x.linear * 2 ^ 160
    + x.launch * 2 ^ 192 + x.saveTick * 2 ^ 256)

/-- Writes bytes at a virtual address in place, page by page, at the homes; `none` where a byte does not translate for
writing. -/
def State.virtWrite (s : State) (c : Nat) (v : AsidTable) (asid : BitVec 16) (va : Nat) : List Byte → Option State
  | [] => some s
  | b :: r =>
    match s.xlate c v asid va false true false with
    | .error _ => none
    | .ok pa => State.virtWrite ((s.notePage v asid va).homeWrite pa [b]) c v asid (va + 1) r

/-! Contents of the pool and of scale memory (R41, R255) -/

/-- A free byte. -/
def free8 (seed key : Nat) : Byte := BitVec.ofNat 8 (Config.free seed key).toNat

/-- One scratchpad byte; what nothing has written is undefined (R41). -/
def Group.padByte (g : Group) (a : Nat) : Byte :=
  match Tab.find a g.spad with
  | some b => b
  | none => free8 g.seed (6000000 + a)

/-- Scratchpad bytes from an address upward. -/
def Group.padRead (g : Group) (a n : Nat) : List Byte := (List.range n).map (fun i => g.padByte (a + i))

/-- One accumulator word; what nothing has written is undefined (R41). -/
def Group.accWord (g : Group) (i : Nat) : W32 :=
  match Tab.find i g.acc with
  | some v => v
  | none => free32 g.seed (60000000 + i)

/-- One byte of scale memory; what nothing has written is undefined (R41). -/
def Group.scaleByte (g : Group) (a : Nat) : Byte :=
  match Tab.find a g.scale with
  | some b => b
  | none => free8 g.seed (160000000 + a)

/-! The context in memory (R326, R327) -/

/-- Fills up to a length with zero bytes. -/
def padTo (n : Nat) (bs : List Byte) : List Byte := bs ++ List.replicate (n - bs.length) 0

/-- A carry tile in its carry format, its elements in flat order (R326). -/
def EngInstr.packTile (e : EngInstr) (vals exps : List Nat) : List Byte :=
  let w := match BitVec.field e.fmt 45 44 with | 1 => 2 | 2 => 1 | _ => if fmtWide e.fmt then 8 else 4
  let bs := vals.flatMap (toBytes w) ++ exps.flatMap (toBytes 1)
  padTo ((bs.length + 63) / 64 * 64) bs

/-- The carry tiles a chain stopped mid-way holds, packed (R203, R326). -/
def EngInstr.carryImage (e : EngInstr) : List Byte :=
  (if e.carry.isEmpty then [] else e.packTile (e.carry.map (·.toNat)) e.carryExp)
  ++ (if e.partialOut.isEmpty then []
      else e.packTile ((List.range (2 * e.blk * e.pairs * e.cols)).map (fun i => (Tab.get 0 e.partialOut i).toNat)) [])

/-- A warp's rows as its register granules hold them: slice by slice, ring rows and then handler rows (R255; log entry 10). -/
def Warp.rowImage (w : Warp) : List Byte :=
  (List.range 8).flatMap (fun j =>
    (List.range w.rowB).flatMap (fun r => toBytes 16 (Tab.get 0 (w.slice j).rows r).toNat)
      ++ (List.range 16).flatMap (fun r => toBytes 16 (Tab.get 0 (w.slice j).hrows r).toNat))

/-- The bytes of a context in the order of R326. The spec gives no layout inside the warp blocks and the engine block: their
bytes are free (log entry 99). -/
def Saved.image (x : Saved) (seed : Nat) : List Byte :=
  let g := x.group
  let acc := pwAcc g.partition
  x.header (x.mq.foldl (fun a e => a + e.carryBytes) 0)
    ++ (List.range (8192 * (x.warps.length + 1))).map (fun i => free8 seed i)
    ++ (List.range (1024 * acc)).map g.scaleByte
    ++ x.mq.flatMap EngInstr.carryImage
    ++ padTo (16384 * pwReg g.partition) (x.warps.flatMap (fun e => e.2.rowImage))
    ++ (List.range (16384 * pwSpad g.partition)).map g.padByte
    ++ (List.range (4096 * acc)).flatMap (fun i => toBytes 4 (g.accWord i).toNat)

/-- Puts a block of bytes into memory at once. -/
def Memory.splice (m : List Host.Cell) (a : Nat) (bs : List Byte) : List Host.Cell :=
  m.filter (fun e => decide (e.1 < a))
    ++ (bs.zipIdx a).filterMap (fun e => if e.1 = memDefault then none else some (e.2, e.1))
    ++ m.filter (fun e => decide (a + bs.length ≤ e.1))

/-- An in-place write of a block within a page. -/
def State.blockWrite (s : State) (a : Nat) (bs : List Byte) : State :=
  let lines := linesOf a bs.length
  let t := lines.foldl (fun t l => (t.foldLine l).dropCopies l) s
  lines.foldl (fun t l => (t.stamp l).seeWords l) { t with mem := Memory.splice t.mem a bs, poison := t.poison.filter (fun l => !lines.contains l) }

/-- Writes bytes at a virtual address in place, page by page; `none` where a page does not translate for writing. `fuel` bounds
the pages. -/
def State.areaWrite (s : State) (c : Nat) (v : AsidTable) (asid : BitVec 16) (va : Nat) : Nat → List Byte → Option State
  | 0, _ => some s
  | fuel + 1, bs =>
    if bs.isEmpty then some s
    else match s.xlate c v asid va false true false with
      | .error _ => none
      | .ok pa =>
        let n := 4096 - va % 4096
        State.areaWrite (s.blockWrite pa (bs.take n)) c v asid (va + n) fuel (bs.drop n)

/-- The lines of the context area that take poisoned words are poisoned (R347, R348; log entry 119). -/
def State.poisonArea (s : State) (x : Saved) : State :=
  let r := x.group.region
  ((x.bad.map (fun o => r.ctxArea.toNat + x.area + o)).map (fun va => s.xlate x.core r.table r.asid va false true false)).foldl (fun s q =>
    match q with
    | .ok pa => if s.poison.contains (pa / 64) then s else s.poisonLine (pa / 64) 8 x.core
    | .error _ => s) s

/-- Writes a context to its place in the region's context area (R326, R327). -/
def State.writeArea (s : State) (x : Saved) : Option State :=
  let (d, s) := s.draw1
  let r := x.group.region
  (s.areaWrite x.core r.table r.asid (r.ctxArea.toNat + x.area) (x.bytes / 4096 + 2) (x.image d)).map (fun s => s.poisonArea x)

/-- Where a word of a workgroup's granules or scale windows stands in its context (R326). -/
def Group.contextAt (g : Group) (c carry : Nat) (p : UpsetAt) : Option Nat :=
  let acc := pwAcc g.partition
  let scale := 256 + 8192 * (g.slots.length + 1)
  let index := fun (n : Nat) => if g.grans.contains n then some (g.grans.idxOf n) else none
  match p with
  | .pool d n o => if d = c then (index n).bind (fun i =>
      if i < pwReg g.partition + pwSpad g.partition + acc then some (scale + 1024 * acc + carry + 16384 * i + o) else none) else none
  | .scale d n o => if d = c then (index n).bind (fun i =>
      let k := pwReg g.partition + pwSpad g.partition
      if k ≤ i && i < k + acc then some (scale + 1024 * (i - k) + o) else none) else none
  | _ => none

/-- The contexts that stand in a region's context area: offset and bytes. -/
def State.areaHeld (s : State) (r : Region) : List (Nat × Nat) :=
  (s.saved.filter (fun x => x.place = 2 && x.kind ≠ 4 && x.group.region.vi = r.vi && x.group.region.ctxArea = r.ctxArea)).map
    (fun x => (x.area, x.bytes))

/-- The lowest offset in a region's context area at which `bytes` bytes meet no context that stands there (log entry 9);
`none` where the area is too small. -/
def State.areaFor (s : State) (r : Region) (bytes : Nat) : Option Nat :=
  let held := s.areaHeld r
  let ends := (held.map (fun e => e.1 + e.2)).foldl (fun (l : List Nat) n => l.takeWhile (· ≤ n) ++ n :: l.dropWhile (· ≤ n)) []
  (0 :: ends).find? (fun o =>
    decide (o + bytes ≤ r.ctxSize * 2 ^ 20) && held.all (fun e => decide (e.1 + e.2 ≤ o) || decide (o + bytes ≤ e.1)))

/-- Every page of a range translates for writing. -/
def State.areaOk (s : State) (c : Nat) (v : AsidTable) (asid : BitVec 16) (va n : Nat) : Bool :=
  (List.range (n / 4096 + 2)).all (fun i =>
    let a := min (va + 4096 * i) (va + n - 1)
    match s.xlate c v asid a false true false with
    | .ok _ => true
    | .error _ => false)

/-- A place in a region's context area that takes `bytes` bytes: one where every page translates (R327). -/
def State.areaPlace (s : State) (c : Nat) (r : Region) (bytes : Nat) : Option Nat :=
  match s.areaFor r bytes with
  | some o => if s.areaOk c r.table r.asid (r.ctxArea.toNat + o) bytes then some o else none
  | none => none

/-- Where a context of `bytes` bytes saved on core `c` goes (R274): PLACE, MCORE, MGRAN and the offset in the context area;
`none` where the context area does not take it (R327). -/
def State.placeContext (s : State) (c : Nat) (g : Group) (bytes : Nat) : Option (Nat × Nat × Nat × Nat) :=
  let n := (bytes + 16383) / 16384
  let cluster := (List.range 4).map (fun i => c / 4 * 4 + i)
  let die := ((List.range 64).map (fun i => c / 64 * 64 + i)).filter (fun x => x / 4 ≠ c / 4)
  let try' := fun (cs : List Nat) => cs.findSome? (fun x => ((s.core x).idleRun n).map (fun a => (x, a)))
  match try' cluster with
  | some (x, a) => some (0, x, a, 0)
  | none => match try' die with
    | some (x, a) => some (1, x, a, 0)
    | none => (s.areaPlace c g.region bytes).map (fun o => (2, 0, 0, o))

/-! The rollback interval -/

/-- Opens a workgroup's rollback interval (R256, R343): a snapshot of every warp and every block clean, where the
workgroup has shadow granules. -/
def State.openInterval (s : State) (c g : Nat) : State :=
  let x := s.group c g
  if pwShadow x.partition = 0 then s
  else
    let ws := x.slots.map (fun i => (i, s.warp c i))
    let spill := ws.flatMap (fun (i, w) => w.slices.map (fun (j, sl) => (i, j, sl.spillTop)))
    let sn : Snapshot :=
      { warps := ws, spad := x.spad, acc := x.acc, scale := x.scale, dirty := [], bars := x.bars, ended := x.ended
        spill := spill, owed := x.owed }
    s.setGroup c g { x with snapshot := some sn }

/-- Notes writes to 1 KiB blocks of a workgroup in its open interval: a clean block takes a shadow block, and where
none is free the interval closes (R256). -/
def Group.shadow (g : Group) (blocks : List Nat) : Group :=
  match g.snapshot with
  | none => g
  | some sn =>
    let d := sn.dirty ++ (blocks.dedup.filter (fun b => !sn.dirty.contains b))
    if 16 * pwShadow g.partition < d.length then { g with snapshot := none }
    else { g with snapshot := some { sn with dirty := d } }

/-- Blocks of the scratchpad, the accumulator words and the scale windows, numbered apart. -/
def padBlock (a : Nat) : Nat := 100000 + a / 1024
def accBlock (i : Nat) : Nat := 200000 + i / 256
def scaleBlock (a : Nat) : Nat := 300000 + a / 1024

/-- First row of a warp in the register granules: warps one after another, 8 × (B + 16) rows each (R255; log entry
10). -/
def State.rowBase (s : State) (c : Nat) (g : Group) (idx : Nat) : Nat :=
  (g.slots.take idx).foldl (fun a i => a + 8 * ((s.warp c i).rowB + 16)) 0

/-- Blocks of the rows that a warp has written since its shadow was last looked at. -/
def rowBlocks (base : Nat) (w : Warp) : List Nat :=
  w.slices.flatMap (fun e => e.2.touched.map (fun r =>
    (base + e.1 * (w.rowB + 16) + (if r.1 then w.rowB else 0) + r.2) / 64))

/-- The rows that a warp has written have been looked at. -/
def Warp.looked (w : Warp) : Warp := { w with slices := w.slices.map (fun e => (e.1, { e.2 with touched := [] })) }

/-- Notes the register rows that a warp has written, whatever their values, for the workgroup's shadow (R256). -/
def State.shadowRows (s : State) (c slot : Nat) : State :=
  let w := s.warp c slot
  if w.slices.all (fun e => e.2.touched.isEmpty) then s
  else
    let s' := s.modWarp c slot Warp.looked
    match Tab.find w.group (s.core c).groups with
    | none => s'
    | some g => if g.snapshot.isNone then s' else s'.setGroup c w.group (g.shadow (rowBlocks (s.rowBase c g w.idx) w))

/-- Where words of the pool lie: the granule and byte offset of register row `r` of a workgroup, of a scratchpad byte and of an
accumulator word (R255). -/
def Group.rowWord (g : Group) (r : Nat) : Nat × Nat := (g.grans.getD (r / 1024) 0, r % 1024 * 16)
def Group.padWord (g : Group) (a : Nat) : Nat × Nat := (g.grans.getD (pwReg g.partition + a / 16384) 0, a % 16384 / 8 * 8)
def Group.accWordAt (g : Group) (i : Nat) : Nat × Nat :=
  (g.grans.getD (pwReg g.partition + pwSpad g.partition + i / 4096) 0, i % 4096 * 4 / 8 * 8)
def Group.scaleWord (g : Group) (a : Nat) : Nat × Nat :=
  (g.grans.getD (pwReg g.partition + pwSpad g.partition + a / 1024) 0, a % 1024 / 8 * 8)

/-- A read of pool or scale words meets their errors (Table 19.1): a correctable one is corrected, an uncorrectable one poisons
its word until it is written, with one error record; the answer is STORE and WHERE of the first poisoned word. -/
def State.meetWords (s : State) (places : List UpsetAt) : State × Option (Nat × Nat) :=
  if s.upsets.isEmpty then (s, none)
  else places.foldl (fun q p =>
    let (store, core, loc) := match p with
      | .scale c g o => (1, c, g * 16384 + o)
      | .pool c g o => (0, c, g * 16384 + o)
      | _ => (0, 0, 0)
    match q.1.upsets.find? (fun u => u.place = p) with
    | none => q
    | some u =>
      let s := q.1
      if !u.fatal then ((s.detect p store core loc).1, q.2)
      else
        let s := if u.found then s else { s with
          upsets := s.upsets.map (fun (x : Upset) => if x = u then { x with found := true } else x)
          found := s.found ++ [({ tick := BitVec.ofNat 64 s.tick, outcome := 1, store := store, core := core, loc := loc } : ErrorRecord)] }
        (s, if q.2.isSome then q.2 else some (store, loc))) (s, none)

/-- The words of the pool in which row `r` of a slice lies: its ring rows, and its handler rows after them (R255; log entry 10). -/
def State.sliceWords (s : State) (c slot j r : Nat) : List UpsetAt :=
  let w := s.warp c slot
  let g := s.group c w.group
  let at_ := g.rowWord (s.rowBase c g w.idx + j * (w.rowB + 16) + r)
  [.pool c at_.1 at_.2, .pool c at_.1 (at_.2 + 8)]

/-- The undertow meets the errors of the rows that it has just copied out: a poisoned one goes poisoned to its backing store (R347,
R348; log entry 119). -/
def State.spillErrors (s : State) (c slot : Nat) (pre : Warp) : State :=
  if s.upsets.isEmpty then s
  else (s.warp c slot).slices.foldl (fun s e =>
    (e.2.held.filter (fun h => !(pre.slice e.1).held.contains h)).foldl (fun s h =>
      let q := s.meetWords (s.sliceWords c slot e.1 (h.pos % pre.rowB))
      if q.2.isNone then q.1
      else q.1.modWarp c slot (fun w => w.setSlice e.1 { w.slice e.1 with held := (w.slice e.1).held.map (fun x =>
        if x = h then { x with poison := true } else x) })) s) s

/-- Whole words written anew hold no error any more. -/
def State.freshWords (s : State) (places : List UpsetAt) : State :=
  if s.upsets.isEmpty then s else { s with upsets := s.upsets.filter (fun u => !places.contains u.place) }

/-- The words in error that lie in blocks restored from their shadows. -/
def State.restoredWords (s : State) (c : Nat) (g : Group) (dirty : List Nat) : List UpsetAt :=
  let holds := fun (b : Nat) (p : UpsetAt) =>
    let at_ := if b < 100000 then g.rowWord (b * 64) else if b < 200000 then g.padWord ((b - 100000) * 1024)
      else if b < 300000 then g.accWordAt ((b - 200000) * 256) else g.scaleWord ((b - 300000) * 1024)
    match p with
    | .pool d n o => b < 300000 && d = c && n = at_.1 && o / 1024 = at_.2 / 1024
    | .scale d n _ => 300000 ≤ b && d = c && n = at_.1
    | _ => false
  (s.upsets.map (·.place)).filter (fun p => dirty.any (fun b => holds b p))

/-- Rolls a workgroup back to its snapshot (R345): its requests and stages are abandoned, its unpublished records
voided, its blocks and warps restored, its tokens zero; a member that stood at the latch arrives there again. -/
def State.rollback (s : State) (c g : Nat) : State :=
  let x := s.group c g
  match x.snapshot with
  | none => s
  | some sn =>
    let pre := s
    let s := s.voidRecords c g
    let s := s.modCore c (fun k =>
      let reqs := (k.copyq.filter (fun r => r.group = g)).map (·.id)
      { k with copyq := k.copyq.filter (fun r => r.group ≠ g)
               chunks := k.chunks.filter (fun q => !reqs.contains q.req)
               mq := k.mq.filter (fun e => e.group ≠ g)
               windows := k.windows.filter (fun e => e.group ≠ g) })
    let s := s.setGroup c g { x with
      spad := sn.spad, acc := sn.acc, scale := sn.scale, bars := sn.bars, ended := sn.ended, latch := [], unfenced := []
      owed := sn.owed
      rollbacks := x.rollbacks + 1, snapshot := some { sn with dirty := [] } }
    let s := sn.warps.foldl (fun s (i, w) =>
      let now := s.warp c i
      let w' : Warp := { w with
        tok := [], pend := [], walk := none, pipe := now.pipe, age := now.age, active := now.active, seed := now.seed
        preq := now.preq
        slices := w.slices.map (fun (j, sl) => (j, { sl with pins := [], hazards := [], touched := [], stall := s.cycle, wait := if sl.wait = .latch then .ready else sl.wait })) }
      ((w'.gangs).foldl (fun s q => s.traceEvent c i q 6) (s.setWarp c i w')).traceMasks pre c i) s
    (s.freshWords (s.restoredWords c x sn.dirty)).count c (coreCtr 0x4D) 1

/-! Halts (R316) -/

/-- The fault domain of a region is put on hold (R282). -/
def State.holdDomain (s : State) (r : Region) : State :=
  if r.faultDom = 0 then s
  else s.modVi r.vi (fun v => if v.holds.contains r.faultDom then v else { v with holds := v.holds ++ [r.faultDom] })

/-- Causes whose code stands in the halt report: BKPT, WATCH and TRAP (Table 16.2). -/
def haltCode (cause : Nat) : Bool := cause = 0x0F || cause = 0x10 || cause = 0x13

/-- Halts a warp whole, writes its halt report, and reports event 0 and, under PREQ, event 5 (R316, R320). -/
def State.haltNow (s : State) (c slot : Nat) (gang : Mask8) (t : Trap) : State :=
  let w := s.warp c slot
  let ld := w.slice (gangLeader gang)
  let low := (setBits 32 t.mask).head?
  let rep : Report :=
    { tick := BitVec.ofNat 64 s.tick, pc := ld.pc, addr := (low.bind (fun l => Tab.find l t.addrs)).getD 0
      fmask := t.mask, m0 := w.m0 0xFF, code := if haltCode t.cause then BitVec.ofNat 16 t.code else 0, stopGang := gang, live := w.live
      sub := BitVec.ofNat 8 t.sub, cause := BitVec.ofNat 8 t.cause, asid := w.asid, domain := w.domain
      gdepth := BitVec.ofNat 3 ld.gates.length, inHandler := ld.handler.isSome
      pending := w.slices.any (fun (_, sl) => sl.pending ≠ []), second := t.second }
  let g := s.group c w.group
  let s := s.abandonCopies c slot true
  let s := s.modWarp c slot (fun w => { w with report := some rep, walk := none, stepping := none })
  let s := s.closeInterval c w.group
  let s := s.traceEvent c slot gang 3
  let s := (s.holdDomain g.region).groupEvent g 0 c slot
  if w.preq then
    ((s.modGroup c w.group (fun x => { x with deadline := none })).groupEvent g 5 c slot)
  else s

/-- Halts a warp, at once or, where its workgroup is being saved, once it is resident again (R329). -/
def State.haltWarp (s : State) (c slot : Nat) (gang : Mask8) (t : Trap) : State :=
  let w := s.warp c slot
  if (s.group c w.group).saving.isSome then
    s.setWarp c slot (if w.heldHalt.isNone then { w with heldHalt := some (gang, t) } else w)
  else s.haltNow c slot gang t

/-! Saving a workgroup (R325–R329) -/

/-- A ring take that has not got a slot is withdrawn: it issues afresh on restore (R339). -/
def Warp.withdraw (w : Warp) : Warp :=
  w.slices.foldl (fun w (j, sl) =>
    match sl.wait with
    | .ring _ _ _ tok pcAt =>
      let w := w.setSlice j { sl with wait := .ready, pc := pcAt }
      if tok ≠ 0 && gangLeader sl.gang = j then { w with tok := Tab.set 0 w.tok (tok - 1) (Tab.get 0 w.tok (tok - 1) - 1) } else w
    | _ => w) w

/-- The stop step of a save: no gang of the workgroup issues from here on; members at the latch wait there still (R203, R325,
R339). -/
def State.startSave (s : State) (c g kind slot : Nat) : State :=
  let x := s.group c g
  if x.saving.isSome then s
  else
    let s := s.setGroup c g { x with saving := some (kind, slot), deadline := none }
    x.slots.foldl (fun s i => s.modWarp c i Warp.withdraw) s

/-- The drain step is done: nothing issued is outstanding, and the engines stand at chunk boundaries (R325). A spill that
has faulted is not in flight: its copy is held across the fault and its retry, and goes with the context (R34, R331). -/
def State.drained (s : State) (c g : Nat) : Bool :=
  let x := s.group c g
  let k := s.core c
  x.slots.all (fun i =>
    let w := s.warp c i
    w.walk.isNone
    && w.pend.all (fun p => match p.op with | .engine _ => true | _ => false)
    && w.slices.all (fun e => (e.2.held.isEmpty && e.2.coming.isEmpty) || e.2.resting))
  && k.chunks.all (fun q => match k.copyq.find? (fun r => r.id = q.req) with
    | some r => r.group ≠ g
    | none => true)

/-- Writes the context and frees the workgroup (R325 step 4, R326, R327); where no place takes it, every warp halts with
PAGE sub-kind 3 and the workgroup stays. Words read there meet their errors, and poisoned ones go as such (R347). -/
def State.writeContext (s : State) (c g kind slot : Nat) : State :=
  let x := s.group c g
  let k := s.core c
  let mine := k.mq.filter (fun e => e.group = g)
  let carry := mine.foldl (fun a e => a + e.carryBytes) 0
  let bytes := x.contextBytes carry
  match s.placeContext c x bytes with
  | none =>
    let t : Trap := { cause := 0x08, cls := .h, sub := 3, mask := 0, addrs := [], code := 0, resumeNext := false }
    let s := s.setGroup c g { x with saving := none, saveSeq := none }
    x.slots.foldl (fun s i => if (s.warp c i).live = 0 then s else s.haltWarp c i (((s.warp c i).gangs).headD 0) t) s
  | some (place, mcore, mgran, area) =>
    let met := if s.upsets.isEmpty then s
      else (s.meetWords ((s.upsets.map (·.place)).filter (fun p => (x.contextAt c carry p).isSome))).1
    let bad := met.upsets.filterMap (fun u => if u.fatal then x.contextAt c carry u.place else none)
    let s := met
    let ws := x.slots.map (fun i =>
      let w := s.warp c i
      (i, { w with preq := false, active := false, readySince := none, swap := 0 }))
    let opened := (ws.filter (fun e => e.2.slices.any (fun q => q.2.gates ≠ []))).map (fun e => (c, e.1))
    let reqs := k.copyq.filter (fun r => r.group = g)
    let entry : Saved :=
      { id := s.nextHandle, launch := x.launch, linear := x.linear, kind := kind
        released := decide (kind ≠ 2 ∧ kind ≠ 3) || ws.any (fun e => e.2.heldHalt.isSome)
        saveTick := s.tick, core := c
        group := { x with saving := none, saveSeq := none, snapshot := none, windows := (x.windows ++ opened).dedup }
        warps := ws, copyq := reqs, chunks := [], mq := mine, windows := k.windows.filter (fun e => e.group = g)
        place := place, mcore := mcore, mgran := mgran, bytes := bytes, area := area, wide := x.wide, bad := bad }
    let s := x.slots.foldl (fun s i => ((s.warp c i).gangs).foldl (fun s q => s.traceEvent c i q 4) s) s
    let s := s.dropGroup c g
    let s := { s with saved := s.saved ++ [entry], nextHandle := s.nextHandle + 1 }
    let s := if place = 2 then
        match s.writeArea entry with
        | some s' => s'
        | none => s
      else s.modCore mcore (fun k =>
        Core.moor { k with moored := k.moored ++ [({ saved := entry.id, first := mgran, count := (bytes + 16383) / 16384 } : Mooring)] })
    if kind = 2 then s.groupEvent x 1 c slot
    else if kind = 3 then (s.holdDomain x.region).groupEvent x 2 c slot
    else s

/-- The next step of a save in progress, where it can be taken (R325). -/
def State.continueSave (s : State) (c g : Nat) : State :=
  let x := s.group c g
  match x.saving with
  | none => s
  | some (kind, slot) =>
    if !s.drained c g then s
    else match x.saveSeq with
      | none =>
        let s := s.forcePublish c
        s.modGroup c g (fun x => { x with saveSeq := some (s.core c).goal })
      | some q => if (s.core c).publishedTo q then s.writeContext c g kind slot else s

/-- Moves a moored context to the region's context area, where that takes it (R274). -/
def State.evictMooring (s : State) (c : Nat) (m : Mooring) : State :=
  match s.saved.find? (fun x => x.id = m.saved) with
  | none => s.modCore c (fun k => Core.moor { k with moored := k.moored.erase m })
  | some x =>
    let r := x.group.region
    match s.areaPlace c r x.bytes with
    | none => s
    | some o =>
      let x' := { x with place := 2, mcore := 0, mgran := 0, area := o }
      let s := { s with saved := s.saved.map (fun (y : Saved) => if y.id = x.id then x' else y) }
      let s := s.modCore c (fun k => Core.moor { k with moored := k.moored.erase m })
      match s.writeArea x' with
      | some s' => s'
      | none => s

end Sys2Proof.Machine
end

