-- ==== Sys2Proof/Machine/Uses.lean ====
section
/-! DEFINITION. What an instruction reads and writes: its opcode and fields, its issue class (Table 3.16), its fixed
latency (Table 3.3), the registers its entry uses (R69, R86 step 6) and the early reads of R73 and R74. -/

namespace Sys2Proof.Machine

/-- The parts of an instruction by format. -/
inductive Parts where
  | a (op : Nat) (h : Header) (o : FmtA)
  | b (op : Nat) (h : Header) (o : FmtB)
  | c (op : Nat) (h : Header) (o : FmtC)
  | d (op : Nat) (h : Header) (o : FmtD)
  | e (op : Nat) (h : Header) (o : FmtE)
  | g (op : Nat) (h : Header) (o : FmtG)
  | event
  deriving DecidableEq, Repr

/-- An instruction's opcode, header and format fields; events have none. -/
def Instr.parts : Instr → Parts
  | .nop h o => .a 0 h o
  | .mov h o => .a 1 h o
  | .movi h o => .b 2 h o
  | .movih h o => .b 3 h o
  | .add h o => .a 4 h o
  | .addi h o => .b 5 h o
  | .sub h o => .a 6 h o
  | .neg h o => .a 7 h o
  | .mul h o => .a 8 h o
  | .muli h o => .b 9 h o
  | .mulhi h o => .a 10 h o
  | .mad h o => .a 11 h o
  | .madw h o => .a 12 h o
  | .minI h o => .a 13 h o
  | .maxI h o => .a 14 h o
  | .absI h o => .a 15 h o
  | .clamp h o => .a 37 h o
  | .andB h o => .a 16 h o
  | .andi h o => .b 17 h o
  | .orB h o => .a 18 h o
  | .ori h o => .b 19 h o
  | .xorB h o => .a 20 h o
  | .xori h o => .b 21 h o
  | .notB h o => .a 22 h o
  | .andn h o => .a 23 h o
  | .shl h o => .a 24 h o
  | .shr h o => .a 25 h o
  | .shi h o => .b 26 h o
  | .rol h o => .a 27 h o
  | .ror h o => .a 28 h o
  | .bfe h o => .a 29 h o
  | .bfi h o => .a 30 h o
  | .popc h o => .a 31 h o
  | .clz h o => .a 32 h o
  | .brev h o => .a 33 h o
  | .sel h o => .a 34 h o
  | .setp h o => .a 35 h o
  | .setpi h o => .b 36 h o
  | .lea h o => .a 38 h o
  | .rdlane h o => .a 39 h o
  | .wrlane h o => .a 40 h o
  | .sext h o => .a 41 h o
  | .zext h o => .a 42 h o
  | .plop h o => .a 48 h o
  | .pmov h o => .a 49 h o
  | .mlop h o => .a 50 h o
  | .mmov h o => .a 51 h o
  | .ballot h o => .a 52 h o
  | .anyP h o => .a 53 h o
  | .allP h o => .a 54 h o
  | .mfirst h o => .a 55 h o
  | .mcount h o => .a 56 h o
  | .mtop h o => .a 57 h o
  | .mseti h o => .b 58 h o
  | .pseti h o => .b 59 h o
  | .br h o => .c 64 h o
  | .brx h o => .c 65 h o
  | .call h o => .c 66 h o
  | .calli h o => .c 67 h o
  | .tcall h o => .c 68 h o
  | .tcallIndirect h o => .c 68 h o
  | .ret h o => .c 69 h o
  | .frame h o => .c 70 h o
  | .regang h o => .c 71 h o
  | .gate h o => .c 72 h o
  | .gret h o => .c 73 h o
  | .yield h o => .c 74 h o
  | .exit h o => .c 75 h o
  | .trap h o => .c 76 h o
  | .bkpt h o => .c 77 h o
  | .waitk h o => .c 78 h o
  | .supret h o => .c 79 h o
  | .fadd h o => .a 96 h o
  | .fsub h o => .a 97 h o
  | .fmul h o => .a 98 h o
  | .ffma h o => .a 99 h o
  | .fmin h o => .a 100 h o
  | .fmax h o => .a 101 h o
  | .fabs h o => .a 102 h o
  | .fneg h o => .a 103 h o
  | .fsetp h o => .a 104 h o
  | .fclass h o => .a 105 h o
  | .frcp h o => .a 106 h o
  | .fsqrt h o => .a 107 h o
  | .frsq h o => .a 108 h o
  | .fexp2 h o => .a 109 h o
  | .flog2 h o => .a 110 h o
  | .faddi h o => .b 111 h o
  | .fmuli h o => .b 112 h o
  | .fdot2 h o => .a 113 h o
  | .frnd h o => .a 114 h o
  | .dadd h o => .a 136 h o
  | .dsub h o => .a 137 h o
  | .dmul h o => .a 138 h o
  | .dfma h o => .a 139 h o
  | .dmin h o => .a 140 h o
  | .dmax h o => .a 141 h o
  | .dsetp h o => .a 142 h o
  | .dsqrt h o => .a 143 h o
  | .cvt h o => .a 144 h o
  | .pcvt h o => .a 145 h o
  | .qblk h o => .a 146 h o
  | .xshf h o => .a 160 h o
  | .xbcast h o => .a 161 h o
  | .xred h o => .a 162 h o
  | .xscan h o => .a 163 h o
  | .ld h o => .d 176 h o
  | .ldH h o => .d 176 h o
  | .st h o => .d 177 h o
  | .lds h o => .d 178 h o
  | .sts h o => .d 179 h o
  | .ldl h o => .d 180 h o
  | .atom h o => .d 181 h o
  | .atoms h o => .d 182 h o
  | .acq h o => .d 183 h o
  | .rel h o => .d 184 h o
  | .fence h o => .d 185 h o
  | .seal h o => .d 186 h o
  | .xkick h o => .e 208 h o
  | .lbinit h o => .e 209 h o
  | .lbarrive h o => .e 210 h o
  | .lbwait h o => .e 211 h o
  | .ringget h o => .e 212 h o
  | .ringgetFree h o => .e 212 h o
  | .ringput h o => .e 213 h o
  | .ringputFill h o => .e 213 h o
  | .barr h o => .e 214 h o
  | .launch h o => .e 215 h o
  | .rdctr h o => .e 240 h o
  | .rdtick h o => .e 241 h o
  | .mfs h o => .e 242 h o
  | .mts h o => .e 243 h o
  | .mshape h o => .g 224 h o
  | .mteam h o => .g 225 h o
  | .mteamRd h o => .g 225 h o
  | .mstride h o => .g 226 h o
  | .mfence h o => .g 227 h o
  | .bfly h o => .g 228 h o
  | .bchain h o => .g 229 h o
  | .mscale h o => .g 230 h o
  | .mscaleOut h o => .g 230 h o
  | .mwait h o => .g 231 h o
  | .mload h o => .g 232 h o
  | .mstore h o => .g 233 h o
  | .mzero h o => .g 234 h o
  | _ => .event

/-- The opcode, 256 for an event. -/
def Instr.opcode (i : Instr) : Nat :=
  match Instr.parts i with
  | .a op _ _ | .b op _ _ | .c op _ _ | .d op _ _ | .e op _ _ | .g op _ _ => op
  | .event => 256

/-- The header; that of an unguarded instruction for an event. -/
def Instr.header (i : Instr) : Header :=
  match Instr.parts i with
  | .a _ h _ | .b _ h _ | .c _ h _ | .d _ h _ | .e _ h _ | .g _ h _ => h
  | .event => { lvl := 0, drain := 0, settok := 0, gneg := false, guard := 7, yield := false, stall := 0 }

/-- The issue classes of Table 3.16. -/
inductive IssueClass where
  | v | c | m | x
  deriving DecidableEq, Repr

def opClass (op : Nat) : IssueClass :=
  if op < 0x40 then .v else if op < 0x50 then .c else if op < 0xB0 then .v else if op < 0xD0 then .m else .x

/-- The fixed latency of Table 3.3; `none` for a variable one. -/
def opLatency (op : Nat) : Option Nat :=
  if op = 0x08 || op = 0x09 || op = 0x0A || op = 0x0B || op = 0x0C then some 6
  else if op < 0x40 then some 4
  else if 0x60 ≤ op && op ≤ 0x72 then some 5
  else if op = 0x8F then some 8
  else if 0x88 ≤ op && op < 0x90 then some 8
  else if op = 0x90 || op = 0x91 then some 5
  else if op = 0xA0 || op = 0xA1 || op = 0xF0 || op = 0xF1 || op = 0xF2 then some 6
  else none

/-! Registers used -/

/-- A register by kind and number; a frame register by its number in the frame. -/
abbrev RegRef := RegKind × Nat

/-- The registers a specifier names, `n` of them where it names frame registers. -/
def Operand.span (n : Nat) : Operand → List RegRef
  | .f i => (List.range n).map (fun k => (.row, i.val + k))
  | .s i => [(.s, i.val)]
  | .b i => [(.b, i.val)]
  | .m i => [(.m, i.val)]
  | .p i => [(.p, i.val)]
  | .c _ => []

/-- Opcodes of the float chapter that may raise a flag, so that FSTATUS counts as a destination (R139): all but FCLASS,
XSHF and XBCAST, CVT between integers and the reductions of integers. -/
def mayFlag (op : Nat) (o : FmtA) : Bool :=
  (0x60 ≤ op && op ≤ 0x72 && op ≠ 0x69) || (0x88 ≤ op && op ≤ 0x8F) || (op = 0x90 && !(fcInt o.type && fcInt o.subop))
  || op = 0x91 || op = 0x92 || ((op = 0xA2 || op = 0xA3) && o.type = 4)

/-- The pair of scalar registers an even s-register stands for. -/
def Operand.pairS : Operand → List RegRef
  | .s i => [(.s, i.val), (.s, i.val + 1)]
  | o => Operand.span 1 o

/-- How many sources an opcode of format A reads. -/
def sources (op : Nat) : Nat :=
  if op = 0x00 then 0
  else if [0x0B, 0x0C, 0x25, 0x1E, 0x22, 0x63, 0x8B, 0x71].contains op then 3
  else if [0x01, 0x07, 0x0F, 0x16, 0x1F, 0x20, 0x21, 0x66, 0x67, 0x6A, 0x6B, 0x6C, 0x6D, 0x6E, 0x72, 0x8F, 0x31, 0x33,
      0x34, 0x35, 0x36, 0x37, 0x38, 0x39, 0x29, 0x2A, 0x90, 0xA2, 0xA3, 0x69].contains op then 1
  else 2

/-- Frame registers that a value of a type takes. -/
def tyRegs (t : BitVec 4) : Nat := if tyPair t then 2 else 1

/-- The predicate a carry or range result goes to, p7 taking none (R95). -/
def pdstRef (p : BitVec 3) : List RegRef := if p = 7 then [] else [(.p, p.toNat)]

/-- Frame registers of the wide side of PCVT: one for each FP32 value, one for two packed halves (R151). -/
def pcvtRegs (o : FmtA) (fmt : BitVec 4) : Nat := if fmt = 0 then pcvtCount o else (pcvtCount o + 1) / 2

/-- Reads and writes of format A. -/
def usesA (op : Nat) (o : FmtA) : List RegRef × List RegRef :=
  let n := tyRegs o.type
  let plain : List RegRef × List RegRef :=
    ((if 1 ≤ sources op then Operand.span n o.srcA else [])
      ++ (if 2 ≤ sources op then Operand.span n o.srcB else [])
      ++ (if 3 ≤ sources op then Operand.span n o.srcC else []), Operand.span n o.dst)
  match op with
  | 0x00 => ([], [])
  | 0x04 | 0x06 =>
    (plain.1 ++ (if o.subop = 1 then Operand.span 1 o.srcC else []), plain.2 ++ pdstRef o.pdst)
  | 0x07 | 0x08 | 0x0B | 0x0F => (plain.1, plain.2 ++ pdstRef o.pdst)
  | 0x0C => (Operand.span 1 o.srcA ++ Operand.span 1 o.srcB ++ Operand.span 2 o.srcC, Operand.span 2 o.dst)
  | 0x22 => (Operand.span n o.srcA ++ Operand.span n o.srcB ++ Operand.span 1 o.srcC, Operand.span n o.dst)
  | 0x23 | 0x68 | 0x8E => (plain.1 ++ (if 8 ≤ o.subop.toNat then Operand.span 1 o.srcC else []), Operand.span 1 o.dst)
  | 0x26 => (Operand.span 2 o.srcA ++ Operand.span 1 o.srcB, Operand.span 2 o.dst)
  | 0x29 | 0x2A => (Operand.span 1 o.srcA, Operand.span (if tyWidth o.type = 32 then 2 else 1) o.dst)
  | 0x30 | 0x32 =>
    (Operand.span 1 o.srcA ++ (if 2 ≤ plArity o.subop then Operand.span 1 o.srcB else [])
      ++ (if 3 ≤ plArity o.subop then Operand.span 1 o.srcC else []), Operand.span 1 o.dst)
  | 0x69 => (Operand.span 1 o.srcA ++ (if Operand.isP o.dst then Operand.span 1 o.srcB else []), Operand.span 1 o.dst)
  | 0x92 =>
    let k := 2 ^ o.pdst.toNat
    (Operand.span (if o.subop = 0 then k else (k + 1) / 2) o.srcA, Operand.span 1 o.dst ++ Operand.span 1 o.srcB)
  | 0x90 => (Operand.span (if o.subop = 3 then 2 else 1) o.srcA ++ (if o.type = 1 || o.type = 2 then Operand.span 1 o.dst else []),
      Operand.span (if o.type = 3 || (o.type = 6 && 4 ≤ o.pdst.toNat) then 2 else 1) o.dst)
  | 0x91 =>
    if fcBfp o.subop then (Operand.span 1 o.srcA ++ Operand.span 1 o.srcB, Operand.span (pcvtRegs o o.type) o.dst)
    else (Operand.span (pcvtRegs o o.subop) o.srcA ++ Operand.span 1 o.srcB, Operand.span 1 o.dst)
  | 0xA0 | 0xA1 => (Operand.span n o.srcA ++ Operand.span 1 o.srcB, Operand.span n o.dst)
  | _ => plain

def usesB (op : Nat) (o : FmtB) : List RegRef × List RegRef :=
  let n := tyRegs o.type
  match op with
  | 0x02 => ([], Operand.span n o.dst)
  | 0x03 => ([], Operand.span n o.dst)
  | 0x05 | 0x09 => (Operand.span n o.srcA, Operand.span n o.dst ++ pdstRef o.pdst)
  | 0x24 => (Operand.span n o.srcA, Operand.span 1 o.dst)
  | 0x3A => (if o.subop = 0 then [] else Operand.span 1 o.dst, Operand.span 1 o.dst)
  | 0x3B => ([], Operand.span 1 o.dst)
  | _ => (Operand.span n o.srcA, Operand.span n o.dst)

def usesC (op : Nat) (o : FmtC) : List RegRef × List RegRef :=
  match op with
  | 0x40 => (Operand.span 1 o.srcA, [])
  | 0x41 => (Operand.span 2 o.srcA ++ Operand.span 1 o.srcB, [])
  | 0x43 => (Operand.span 2 o.srcB, Operand.span 1 o.srcA ++ [(.m, 0)])
  | 0x44 => (if o.subop = 1 then Operand.span 1 o.srcA else [], [])
  | 0x48 => (if o.subop = 1 then Operand.span 1 o.srcB else [], Operand.span 1 o.srcA)
  | _ => ([], [])

/-- The scalar pair of an explicit log set (Table 7.4). -/
def lsetRefs (off : BitVec 16) : List RegRef :=
  let l := lsetOf off
  if 0x40 ≤ l then [(.s, l - 0x40), (.s, l - 0x3F)] else []

def usesD (op : Nat) (o : FmtD) : List RegRef × List RegRef :=
  let n := sizeRegs o.size
  match op with
  | 0xB0 => (Operand.span 1 o.buf ++ Operand.span 1 o.index, Operand.span n o.dst)
  | 0xB1 => (Operand.span 1 o.buf ++ Operand.span 1 o.index ++ Operand.span n o.data, [])
  | 0xB2 => (Operand.span 1 o.buf, Operand.span n o.dst)
  | 0xB3 => (Operand.span 1 o.buf ++ Operand.span n o.data, [])
  | 0xB4 => (Operand.span 1 o.buf ++ Operand.span 1 o.index ++ Operand.span 1 o.data, [])
  | 0xB5 | 0xB6 =>
    (Operand.span 1 o.buf ++ (if op = 0xB5 then Operand.span 1 o.index ++ lsetRefs o.offset else [])
      ++ (if o.subop = 0 then [] else Operand.span n o.data) ++ (if o.subop = 3 then Operand.span n o.dst else []),
     if o.subop = 1 then [] else Operand.span n o.dst)
  | 0xB7 | 0xB9 => (lsetRefs o.offset, [])
  | _ => ([], [])

def usesE (op : Nat) (o : FmtE) : List RegRef × List RegRef :=
  match op with
  | 0xD1 | 0xD2 => (Operand.span 1 o.srcA ++ Operand.span 1 o.srcB, [])
  | 0xD4 => (Operand.span 1 o.srcA, Operand.span 1 o.dst)
  | 0xD7 => (Operand.span 1 o.srcA, Operand.span 1 o.dst)
  | 0xF2 => ((if o.imm = 0x13 then [(.fs, 0)] else []) ++ (if sysWritable o.imm.toNat then [(.sys, o.imm.toNat)] else []),
      Operand.span 1 o.dst)
  | 0xF3 => (Operand.span 1 o.srcA, (if o.imm = 0x13 then [(.fs, 0)] else []) ++ [(.sys, o.imm.toNat)])
  | 0xF0 | 0xF1 => ([], Operand.span 1 o.dst)
  | _ => (Operand.span 1 o.srcA, [])

def usesG (op : Nat) (o : FmtG) : List RegRef × List RegRef :=
  match op with
  | 0xE0 => (Operand.span 1 o.opx, Operand.span 1 o.opw)
  | 0xE1 => if o.subop = 1 then ([], Operand.span 1 o.opw) else (Operand.span 1 o.opx, [])
  | 0xE2 => (Operand.span 1 o.opx, [])
  | 0xE4 | 0xE5 =>
    (Operand.pairS o.opx ++ Operand.pairS o.opw ++ Operand.span 1 o.fmt ++ (if Operand.isS o.aux then Operand.span 1 o.aux else []), [])
  | 0xE6 => (Operand.span 1 o.opx ++ Operand.span 1 o.opw ++ Operand.span 1 o.aux, [])
  | 0xE8 => (Operand.pairS o.opx ++ Operand.span 1 o.aux, [])
  | 0xE9 => (Operand.pairS o.opx ++ Operand.span 1 o.aux ++ (if fcBfp o.subop then Operand.span 1 o.fmt else []), [])
  | _ => ([], [])

/-- The registers an instruction's entry reads and those it writes, the guard and m0 apart. -/
def Instr.uses (i : Instr) : List RegRef × List RegRef :=
  match Instr.parts i with
  | .a op _ o => ((usesA op o).1, (usesA op o).2 ++ (if mayFlag op o then [(.fs, 0)] else []))
  | .b op _ o => ((usesB op o).1, (usesB op o).2 ++ (if op = 0x6F || op = 0x70 then [(.fs, 0)] else []))
  | .c op _ o => usesC op o
  | .d op _ o => usesD op o
  | .e op _ o => usesE op o
  | .g op _ o => usesG op o
  | .event => ([], [])

/-- Everything an instruction reads: its entry's registers, its guard (R69) and m0 (R75). -/
def Instr.reads (i : Instr) : List RegRef :=
  (Instr.uses i).1 ++ (if (Instr.header i).guard = 7 then [] else [(.p, (Instr.header i).guard.toNat)]) ++ [(.m, 0)]

/-- The highest frame register an instruction names, plus one. -/
def Instr.frameTop (i : Instr) : Nat :=
  ((Instr.uses i).1 ++ (Instr.uses i).2).foldl (fun a r => if r.1 = .row then max a (r.2 + 1) else a) 0

/-- An instruction with the fields that it does not use as the registers stand taken as zero: BFLY and BCHAIN read AUX under ACCMODE
0b10 alone (R191). -/
def Warp.asUsed (w : Warp) (g : Mask8) (i : Instr) : Instr :=
  let decays := fun (o : FmtG) => match o.fmt with
    | .s k => decide (BitVec.field (w.readS g k) 43 42 = 2)
    | _ => true
  match i with
  | .bfly h o => if decays o then i else .bfly h { o with aux := .f 0 }
  | .bchain h o => if decays o then i else .bchain h { o with aux := .f 0 }
  | _ => i

/-- An early read by some slice of the gang, its hazards counted down to this issue: a hazard of a register that the
instruction reads still stands (R73, R74, R139). -/
def Warp.earlyRead (w : Warp) (g : Mask8) (i : Instr) : Bool :=
  (gangSlices g).any (fun j =>
    let sl := w.slice j
    (Instr.reads (w.asUsed g i)).any (fun r =>
      let key : RegKind × Nat := match r.1 with
        | .row => if sl.handler.isSome then (.hrow, r.2) else (.row, sl.ringRow w.rowB r.2)
        | k => (k, r.2)
      sl.hazards.any (fun h => h.kind = key.1 && h.idx = key.2 && !h.window)))

/-- Slots j and j+1 may form a pair (R69). -/
def pairOk (a b : Instr) : Bool :=
  let ca := opClass (Instr.opcode a)
  let cb := opClass (Instr.opcode b)
  let nop := Instr.opcode a = 0 || Instr.opcode b = 0
  (nop || ca ≠ cb) && ca ≠ .c
  && (let w := (Instr.uses a).2.filter (fun r => r ≠ (.p, 7))
      !((Instr.reads b) ++ (Instr.uses b).2).any (fun r => w.contains r))
  && ((Instr.header a).settok = 0 || (Instr.header a).settok ≠ (Instr.header b).settok)

end Sys2Proof.Machine
end

