-- ==== Sys2Proof/Machine/Ops.lean ====
section
/-! DEFINITION. Slot addresses (R66) and transfer targets (R113), the causes of Table 16.1, and the one operation that
takes an exception: supervisor entry (R230), gate unwind (R127), halt (R316), swap-out (R321), re-queue (R305) and
rollback (R345), with the return from a handler beside it (R134). -/

namespace Sys2Proof.Machine

/-! Slot addresses (R66) -/

/-- An address names an instruction. -/
def slotAligned (a : Nat) : Bool := a % 64 % 12 = 0 && decide (a % 64 ≤ 48)

/-- The slot number of an instruction's address. -/
def slotNum (a : Nat) : Nat := a / 64 * 5 + a % 64 / 12

/-- The address of a slot number. -/
def slotAddr (n : Nat) : Nat := n / 5 * 64 + n % 5 * 12

/-- The slot after an address. -/
def nextSlot (a : VA) : VA := BitVec.ofNat 57 (slotAddr (slotNum a.toNat + 1))

/-- The destination of a branch by a signed count of slots, as a 64-bit address; a negative slot number has bits 63:57
set. -/
def branchDest (a : VA) (off : BitVec 24) : Nat :=
  let n : Int := (slotNum a.toNat : Int) + off.toInt
  if n < 0 then 2 ^ 64 - 64 else slotAddr n.toNat

/-! Transfer targets (R68, R113) -/

/-- Key of a fetch line in the instruction cache. -/
def icKey (asid : BitVec 16) (va : Nat) : Nat := asid.toNat * 2 ^ 51 + va / 64

/-- The line that holds an address, as fetched under an ASID; `none` where it cannot be fetched, or comes poisoned or from a package
that is lost (R348, R380). -/
def State.codeLine (s : State) (c : Nat) (v : AsidTable) (asid : BitVec 16) (va : Nat) : Option LineBits :=
  match Tab.find (icKey asid va) (s.core c).icache with
  | some l => if (s.core c).icBad.contains (icKey asid va) then none else some l
  | none =>
    match s.xlate c v asid va false false true with
    | .ok pa => if s.isPoisoned (pa / 64) || s.lostAt pa then none else some (s.homeLine (pa / 64))
    | .error _ => none

/-- The line word (Table 3.1). -/
def lineWord (l : LineBits) : Nat := bitsAt l.toNat 480 32

/-- The 96 bits of a slot. -/
def lineSlot (l : LineBits) (i : Nat) : Nat := bitsAt l.toNat (96 * i) 96

/-- Outcome of the check of a destination. -/
inductive TargetCheck where
  | ok
  | bad
  /-- The line cannot be fetched: the transfer is made and the slice carries the target-check mark (R113). -/
  | unread
  deriving DecidableEq, Repr

/-- The check of R113 on a 64-bit destination under the ASID it will run in. -/
def State.target (s : State) (c : Nat) (v : AsidTable) (asid : BitVec 16) (dest : Nat) : TargetCheck :=
  if 2 ^ 57 ≤ dest || !slotAligned dest then .bad
  else match s.codeLine c v asid dest with
    | none => .unread
    | some l => if bitsAt (lineWord l) (dest % 64 / 12) 1 = 1 then .ok else .bad

/-! Causes -/

/-- A cause of class H. -/
def trapH (cause sub : Nat) (mask : Mask32) : Trap :=
  { cause := cause, cls := .h, sub := sub, mask := mask, addrs := [], code := 0, resumeNext := false }

/-- A cause of class S with each faulter's address. -/
def trapS (cause sub : Nat) (mask : Mask32) (addrs : Tab VA) (code : Nat) : Trap :=
  { cause := cause, cls := .s, sub := sub, mask := mask, addrs := addrs, code := code, resumeNext := false }

def illegal (g : Mask8) : Trap := trapH 0x01 0 (gangMask g)
def protFault (g : Mask8) : Trap := trapH 0x09 0 (gangMask g)
def badTarget (g : Mask8) : Trap := trapH 0x03 0 (gangMask g)
def boundsFault (mask : Mask32) : Trap := trapH 0x07 0 mask
def frameOvf (mask : Mask32) : Trap := trapH 0x0A 0 mask

/-- FEATURE, class Q (R84). -/
def featureFault (g : Mask8) : Trap :=
  { cause := 0x02, cls := .q, sub := 0, mask := gangMask g, addrs := [], code := 0, resumeNext := false }

/-- A failed translation as a cause (R312). -/
def xlatTrap (f : XlatFail) (sub : Nat) (mask : Mask32) (addrs : Tab VA) : Trap :=
  match f with
  | .minor => { trapS 0x08 sub mask addrs 0 with cls := .s }
  | .major => { trapS 0x08 sub mask addrs 0 with cls := .w }
  | .prot => { trapS 0x09 (if sub = 2 then 2 else 0) mask addrs 0 with cls := .h }

/-! Dies -/

/-- FEATURES.FP64: the wide dies CD6 and CD7 (Table 1.6). -/
def coreWide (c : Nat) : Bool := decide (6 ≤ c / 64)

/-- FEATURES as a workgroup reads it (Table 1.6). -/
def features (c : Nat) (g : Group) : W32 :=
  BitVec.ofNat 32 (2 * 256 + 2 * g.region.redund.toNat + (coreWide c).toNat)

/-- ATOMCAP (Table 1.5). -/
def atomcap : W32 := 0x00006635

/-! Supervisor entry and return -/

/-- The handler a cause of class S enters: the gate's latched one, or HANDLER (R126, R230). -/
def Warp.handlerVA (w : Warp) (g : Mask8) : VA :=
  match (w.slice (gangLeader g)).gates with
  | e :: _ => e.handler
  | [] => w.handler

/-- The handler rows at entry (Table 9.8), for one slice. -/
def handlerRows (t : Trap) (pc : VA) (m0 : Mask32) (j : Nat) : Tab W128 :=
  let same := fun (x : Nat) => rowOf4 (fun _ => BitVec.ofNat 32 x)
  let addr := fun (l : Nat) => if t.mask.getLsbD l then ((Tab.find l t.addrs).getD 0).toNat else 0
  let rows : List (Nat × W128) :=
    [(0, same t.cause), (1, same t.sub),
     (2, rowOf4 (fun l => BitVec.ofNat 32 (addr (4 * j + l)))),
     (3, rowOf4 (fun l => BitVec.ofNat 32 (addr (4 * j + l) / 2 ^ 32))),
     (4, same t.mask.toNat), (5, same t.code), (6, same pc.toNat), (7, same (pc.toNat / 2 ^ 32)), (8, same m0.toNat)]
  rows.foldl (fun tb e => Tab.set 0 tb e.1 e.2) []

/-- Enters the supervisor handler in the gang that stopped (R230). -/
def State.enterHandler (s pre : State) (c slot : Nat) (g : Mask8) (t : Trap) : State :=
  let w := s.warp c slot
  let h := w.handlerVA g
  let m0 := w.m0 g
  let w' := w.onGang g (fun j sl =>
    { sl with handler := some { m0 := sliceBits m0 j, gang := g, fsz := sl.fsz, markAt := if sl.mark then some sl.pc else none }
              hrows := handlerRows t sl.pc m0 j
              touched := (List.range 9).foldl (fun l i => touch l (true, i)) sl.touched
              hazards := sl.hazards.filter (fun x => x.window || (x.kind ≠ .hrow && !(x.kind = .m && x.idx = 0)))
              m := Tab.set 0 sl.m 0 (sliceBits t.mask j)
              resume := if t.resumeNext then nextSlot sl.pc else sl.pc
              pc := h, wait := .ready, mark := false })
  let s := ((s.setWarp c slot w').shadowRows c slot).traceEvent c slot g 1
  let s := s.traceIndirect c slot g g h
  s.traceMask pre c slot g

/-- RESUME as SUPRET reads it. -/
def Slice.resumeAt (sl : Slice) (seed : Nat) : VA := BitVec.truncate 57 (sl.readSys seed 0x19 (BitVec.zeroExtend 64 sl.resume))

/-- The handler rows after SUPRET has released them: free values (R134). -/
def releasedRows (seed num : Nat) : Tab W128 :=
  (List.range 16).foldl (fun t i => Tab.set 0 t i (rowOf4 (fun l => free32 seed (regKey num .hrow i l)))) []

/-- Ends the handler for the slices of the gang that issues SUPRET, and resumes them at RESUME (R134); a destination whose fetch
had faulted carries its target-check mark again (R113). -/
def State.leaveHandler (s : State) (c slot : Nat) (g : Mask8) : State :=
  let w := s.warp c slot
  let w' := w.onGang g (fun _ sl =>
    match sl.handler with
    | none => sl
    | some a =>
      let s1 : Slice := { sl with
        handler := none, hrows := releasedRows w.seed sl.num, hunfenced := [], mark := a.markAt = some (sl.resumeAt w.seed), m := Tab.set 0 sl.m 0 a.m0, gang := a.gang &&& g, pc := sl.resumeAt w.seed
        hazards := sl.hazards.filter (fun x => x.window || x.kind ≠ .hrow) }
      s1.retries)
  let s := (s.setWarp c slot w').traceEvent c slot g 2
  s.traceIndirect c slot g g ((w.slice (gangLeader g)).resumeAt w.seed)

/-! Gate unwind -/

/-- The status word of a gate (Table 5.5). -/
def gateStatus (kind index depth reason : Nat) : W32 := BitVec.ofNat 32 (kind * 2 ^ 30 + index * 2 ^ 12 + depth * 2 ^ 8 + reason)

/-- Takes one slice back to its caller over the innermost gate frame (R127): the service's frames are discarded and
their resident rows quenched, the save stack popped (a spilled gate header leaves the caller's stack with its frame), FP, FSZ, DEPTH and m0 restored from the gate frame's header, and
pd cleared; the caller's frame is refilled where it was spilled. -/
def Slice.unwindGate (sl : Slice) (B seed : Nat) (e : GateSave) (status : W32) : Slice :=
  let top := e.first
  let gone := (List.range (sl.top - e.first)).map (fun i => (e.first + i) % B)
  let s1 := (sl.putRows gone (fun _ => 0)).quenchRegs e.scrub
  let low := min sl.low top
  let s2 : Slice := { s1 with
    gates := sl.gates.tail, top := top, low := low, fsz := hdCallerFsz e.header
    depth := e.depth, spillTop := if e.hdr < sl.low then e.spillTop - 16 else e.spillTop, bsBase := e.base
    m := Tab.set 0 s1.m 0 (hdEntry e.header), wait := .ready, handler := none, mark := false
    hrows := if s1.handler.isSome then releasedRows seed s1.num else s1.hrows
    coming := s1.coming.filter (fun r => decide (r.pos < top))
    hazards := s1.hazards.filter (fun x => x.kind = .s)
    unwound := some status
    pc := BitVec.ofNat 57 (hdRetLine e.header * 64 + hdRetSlot e.header * 12) }
  let s3 := { s2.retries with refillTo := some (s2.fpPos1 - 9) }
  (s3.settle B).takeStatus B

/-- An operation in flight without the values that it was to return to its warp; a slot j+1 that has not issued is gone. -/
def PendOp.dropResult : PendOp → PendOp
  | .regs _ f => .regs [] f
  | .sys _ _ => .regs [] 0
  | .load n sg hm ls => .load n sg hm (ls.map (fun a => { a with dst := [] }))
  | .padLoad n sg ls => .padLoad n sg (ls.map (fun a => { a with dst := [] }))
  | .atom op n ord sc st mk lg dg ls out t => .atom op n ord sc st mk lg dg (ls.map (fun a => { a with dst := [] })) out t
  | .padAtom op n ls => .padAtom op n (ls.map (fun a => { a with dst := [] }))
  | .launch pa _ st => .launch pa [] st
  | .loaded _ h => .loaded [] h
  | .second _ _ _ => .regs [] 0
  | op => op

/-- Results of a service that are still in flight when its gate closes are written nowhere: its registers read zero in the caller
(R128), and no rule has a GRET or an unwind wait for them; the model's choice (log entry 125). -/
def Warp.dropResults (w : Warp) (since : Nat) : Warp :=
  { w with pend := w.pend.map (fun p => if since < p.born then { p with op := p.op.dropResult } else p) }

/-- The token that a slice's waiting RINGGET counted, where it waits for the whole gang. -/
def Warp.ringTokens (w : Warp) : List Nat :=
  w.gangs.filterMap (fun g => match (w.slice (gangLeader g)).wait with
    | .ring _ _ _ tok _ => if tok = 0 then none else some (tok - 1)
    | _ => none)

/-- Unwinds the innermost gate of a warp with status in the caller (R127). Slices whose gangs had parted inside the service
stand in one gang again, as at the GATE (log entry 100); results of the service in flight are dropped (log entry 125), and a RINGGET of
the service that waits is abandoned with its token. -/
def State.unwindGate (s pre : State) (c slot : Nat) (g : Mask8) (cause : Nat) : State :=
  let w := s.warp c slot
  let ld := w.slice (gangLeader g)
  match ld.gates with
  | [] => s
  | e :: rest =>
    let live := w.live
    let status := gateStatus 2 e.index rest.length cause
    let w' := w.onGang live (fun _ sl =>
      match sl.gates with
      | [] => sl
      | q :: _ => { sl.unwindGate w.rowB w.seed q status with gang := live })
    let w' := { w'.dropResults e.born with
      asid := e.asid, domain := e.domain, bs := [], mteam := 0, walk := none
      tok := w.ringTokens.foldl (fun t k => Tab.set 0 t k (Tab.get 0 t k - 1)) w.tok }
    let s := (((s.setWarp c slot w').shadowRows c slot).abandonCopies c slot false).traceCall c slot g true true
    s.traceMask pre c slot live

/-! The latch -/

/-- Members waiting at the latch with a warp of their team are taken out of it; their warps are answered (R197, R316). -/
def teamHas (mteam : W64) (idx : Nat) : Bool :=
  let n := BitVec.field mteam 32 30
  (List.range n).any (fun i => bitsAt mteam.toNat (5 * i) 5 = idx)

def State.latchVictims (s : State) (c g idx : Nat) : List Arrival × State :=
  let x := s.group c g
  let gone := x.latch.filter (fun a => teamHas a.mteam idx && a.warp ≠ idx)
  (gone, s.setGroup c g { x with latch := x.latch.filter (fun a => !(teamHas a.mteam idx)) })

/-! Delivery -/

/-- Causes that halt even inside a gate: BKPT, WATCH, UNCORR and FEATURE (R127). -/
def neverUnwinds (cause : Nat) : Bool := cause = 0x0F || cause = 0x10 || cause = 0x12 || cause = 0x02

/-- Delivery of class H to one warp: an unwind inside a gate, or a halt (R127, R316). -/
def State.deliverH (s pre : State) (c slot : Nat) (g : Mask8) (t : Trap) : State :=
  let ld := (s.warp c slot).slice (gangLeader g)
  if ld.gates ≠ [] && ld.handler.isNone && !neverUnwinds t.cause then s.unwindGate pre c slot g t.cause
  else s.haltWarp c slot g t

/-- Class H with the members left at the latch, who raise COLLECTIVE (R197, R316). -/
def State.takeH (s pre : State) (c slot : Nat) (g : Mask8) (t : Trap) : State :=
  let w := s.warp c slot
  let s1 := s.deliverH pre c slot g t
  if (s1.warp c slot).report.isNone then s1
  else
    let (victims, s2) := s1.latchVictims c w.group w.idx
    victims.foldl (fun s a =>
      let s := s.modWarp c a.slot (fun x => x.onGang a.gang (fun _ sl => { sl with wait := .ready }))
      s.deliverH pre c a.slot a.gang (trapH 0x0C 0 (gangMask a.gang))) s2

/-- UNCORR delivered to every warp of a workgroup (R345). -/
def State.uncorrAll (s : State) (c g : Nat) : State :=
  let x := s.group c g
  x.slots.foldl (fun s i =>
    let w := s.warp c i
    if w.live = 0 || w.report.isSome then s
    else s.haltWarp c i (w.gangs.headD 0) (trapH 0x12 0 (gangMask (w.gangs.headD 0)))) s

/-- Consumption of an uncorrectable error charged to a workgroup (R345): it rolls back where its interval is open, and
otherwise UNCORR is delivered to every warp of it; one error record is written (R347). -/
def State.consume (s : State) (c g store loc : Nat) : State :=
  if (s.group c g).snapshot.isSome then (s.errorRecord 2 store c loc (some (s.group c g))).rollback c g
  else (s.errorRecord 3 store c loc (some (s.group c g))).uncorrAll c g

/-- What a step has found to be consumed is charged (R345). -/
def State.chargeFound (s : State) : State :=
  s.charged.foldl (fun s q => s.consume q.1 q.2.1 q.2.2.1 q.2.2.2) { s with charged := [] }

/-- A difference between two redundant runs, where one is to come: it is counted, and the runs are made again; true where they
differ again (R349). -/
def State.meetSlip (s : State) (c slot : Nat) : State × Bool :=
  match s.slips.find? (fun p => p.core = c && p.slot = slot) with
  | none => (s, false)
  | some p =>
    let s := { s with slips := s.slips.erase p }
    (s.count c (coreCtr 0x4E) (if p.again then 2 else 1), p.again)

/-- A second difference is consumption of an uncorrectable error, of a store and a place that the spec does not name (R349; log
entry 95). -/
def State.consumeSlip (s : State) (c g : Nat) : State :=
  let (d, s) := s.draw1
  s.consume c g ((Config.free d 0).toNat % 10) ((Config.free d 1).toNat % 2 ^ 43)

/-- Consumption by a reader of workgroup `g`: an error of an overlay line is charged to every workgroup with marked bytes in the
line (R345, Table 19.1). -/
def State.consumeLine (s : State) (c g store line : Nat) : State :=
  if store = 3 then
    ((((s.core c).overlays line).filter (fun o => o.mask ≠ 0)).map (·.slot)).dedup.foldl (fun s q => s.consume c q store line) s
  else s.consume c g store line

/-- R305: the workgroup and the rest of its launch go back to the head of their queue, limited to the wide dies. -/
def State.requeue (s : State) (c g : Nat) : State :=
  let x := s.group c g
  let s := (s.voidRecords c g).dropGroup c g
  match s.launches.find? (fun l => l.handle = x.launch) with
  | none => s
  | some l =>
    let l' : Launch := { l with requeued := x.linear :: l.requeued, wide := true }
    { s with launches := l' :: s.launches.filter (fun q => q.handle ≠ x.launch) }

/-- FEATURE (R305): a halt where the workgroup has committed itself or no wide die is granted, else a re-queue. -/
def State.takeFeature (s pre : State) (c slot : Nat) (g : Mask8) (t : Trap) : State :=
  let w := s.warp c slot
  let x := s.group c w.group
  if x.committed || x.published || (x.region.dieMask &&& 0xC0) = 0 || (w.slice (gangLeader g)).handler.isSome then
    s.takeH pre c slot g { t with cls := .h }
  else s.requeue c w.group

/-- TAKING AN EXCEPTION: delivers a cause to the gang that stopped, by its class (R309). An uncorrectable error has the store and
the place of Table 19.2 in its sub-kind and code. A fault in a handler is
delivered H (R230); a handler address that fails R66 makes it BADTARGET (R68). -/
def State.deliver (s pre : State) (c slot : Nat) (g : Mask8) (t : Trap) : State :=
  let w := s.warp c slot
  let ld := w.slice (gangLeader g)
  match t.cls with
  | .uncorr => s.consume c w.group t.sub t.code
  | .q => s.takeFeature pre c slot g t
  | .h => s.takeH pre c slot g t
  | .w =>
    if ld.handler.isSome then s.takeH pre c slot g { t with cls := .h }
    else
      let f : PendFault := { cause := t.cause, cls := .w, sub := t.sub, mask := t.mask
                             va := (((setBits 32 t.mask).head?).bind (fun l => Tab.find l t.addrs)).getD 0 }
      (s.modGroup c w.group (fun x => { x with fault := some f })).startSave c w.group 2 slot
  | .s =>
    if ld.handler.isSome then s.takeH pre c slot g { t with cls := .h }
    else if slotAligned (w.handlerVA g).toNat then s.enterHandler pre c slot g t
    else s.takeH pre c slot g (badTarget g)

/-- A fault held pending against a slice of the gang is delivered to it, restricted to the gang; a fault of the copy engine, held
against several slices, leaves the gang's others with it (R308). -/
def State.deliverPending (s : State) (c slot : Nat) (g : Mask8) : Option State :=
  let w := s.warp c slot
  if (w.slice (gangLeader g)).handler.isSome then none
  else
    match (gangSlices g).find? (fun j => (w.slice j).pending ≠ []) with
    | none => none
    | some j =>
      match (w.slice j).pending with
      | [] => none
      | p :: rest =>
        let m := p.mask &&& gangMask g
        let t : Trap := { cause := p.cause, cls := p.cls, sub := p.sub, mask := m
                          addrs := (setBits 32 m).map (fun l => (l, p.va)), code := 0, resumeNext := false }
        let w' := w.onGang g (fun i sl =>
          if i = j then { sl with pending := rest }
          else { sl with pending := sl.pending.erase p })
        some ((s.setWarp c slot w').deliver s c slot g t)

/-- Frees the requests of a warp that a delivered copy fault held, so that the engine takes them up at their cursors
(R221). -/
def State.releaseCopies (s : State) (c slot : Nat) : State :=
  s.modCore c (fun k => { k with copyq := k.copyq.map (fun (r : CopyReq) => if r.slot = slot then { r with held := false } else r) })

end Sys2Proof.Machine
end

