-- ==== Sys2Proof/Machine/Address.lean ====
section
/-! DEFINITION. The addresses of memory instructions: lanes and forms (R157), buffer records (R159–R162), scratchpad and
cluster scratchpad (R38, R167), translation through the core's unit (R306, R312) and watch entries (R319). -/

namespace Sys2Proof.Machine

/-! Lanes and forms -/

/-- The lanes that make an access, each with the lanes it stands for: one by one, or once for the gang by its lowest
executing lane (R157). -/
def Warp.accLanes (w : Warp) (g : Mask8) (h : Header) (scalar : Bool) : List (Nat × Mask32) :=
  let m := w.execLanes g h
  if scalar then
    if w.gangActs g h then [((setBits 32 m).headD (4 * gangLeader g), m)] else []
  else (setBits 32 m).map (fun l => (l, BitVec.ofNat 32 (2 ^ l)))

/-- The union of the lanes that accesses stand for. -/
def lanesMask (ls : List (Nat × Mask32)) : Mask32 := ls.foldl (fun a e => a ||| e.2) 0

/-- The access size of a code (Table 3.11). -/
def sizeBytes (sz : BitVec 3) : Nat := 2 ^ sz.toNat

/-- The integer type of an access width, for constants (R158). -/
def sizeType (n : Nat) : BitVec 4 := if n = 1 then 10 else if n = 2 then 8 else if n = 8 then 2 else 0

/-- The bytes of a data operand (R158): register fi+j carries bytes 4j to 4j+3. -/
def Warp.dataBytes (w : Warp) (g : Mask8) (n : Nat) (o : Operand) (l : Nat) : List Byte :=
  match o with
  | .f i => ((List.range ((n + 3) / 4)).flatMap (fun k => toBytes 4 (w.readF l (i + k)).toNat)).take n
  | _ => toBytes n (w.src g (sizeType n) o l).toNat

/-! Buffer records (Table 1.2) -/

def recBase (r : W128) : Nat := BitVec.field r 56 0
def recStride (r : W128) : Nat := BitVec.field r 76 57
def recExtent (r : W128) : Nat := BitVec.field r 108 77
def recSwizzle (r : W128) : Nat := BitVec.field r 114 109
def recOobTrap (r : W128) : Bool := r.getLsbD 115
def recR (r : W128) : Bool := r.getLsbD 116
def recW (r : W128) : Bool := r.getLsbD 117
def recReserved (r : W128) : Bool := BitVec.field r 127 118 ≠ 0

/-- Swizzle of a byte offset (R160). -/
def swizzle (code o : Nat) : Nat :=
  let y := code / 8
  let z := code % 8
  if y = 0 then o else o ^^^ (o / 2 ^ (z + 2 + y) % 2 ^ y * 2 ^ (z + 2))

/-- The conditions of R160 that make a record ILLEGAL for an access of `n` bytes. -/
def swizzleBad (r : W128) (n : Nat) : Bool :=
  let y := recSwizzle r / 8
  let z := recSwizzle r % 8
  (y = 0 && z ≠ 0) || (y ≠ 0 && recStride r = 0) || (y ≠ 0 && decide (2 ^ (z + 2) < n))

/-- Bounds of an element (R161). -/
def recIn (r : W128) (e : Int) (n : Nat) : Bool :=
  decide (0 ≤ e) && decide (e < recExtent r)
  && (recStride r = 0
      || (let o := e.toNat * recStride r
          decide (max o (swizzle (recSwizzle r) o) + n ≤ recExtent r * recStride r)))

/-- The address of an element (R159). -/
def recAddr (r : W128) (e : Int) : Nat := recBase r + swizzle (recSwizzle r) (e.toNat * recStride r)

/-- The same address as an exact integer, for an element that may be negative: the swizzle changes low bits of the two's
complement offset (R159, R160). -/
def recAddrInt (r : W128) (e : Int) : Int :=
  let o := e * (recStride r : Int)
  let y := recSwizzle r / 8
  let z := recSwizzle r % 8
  let low := (o % (2 : Int) ^ (2 * y + z + 2)).toNat
  (recBase r : Int) + (o - (low : Int)) + ((if y = 0 then low else swizzle (recSwizzle r) low : Nat) : Int)

/-- The element number of a lane (R159): the low 32 bits of the index plus the signed offset. -/
def Warp.element (w : Warp) (g : Mask8) (idx : Operand) (off : Int) (l : Nat) : Int :=
  ((w.src g 0 idx l).toNat % 2 ^ 32 : Nat) + off

/-! Outcomes of the address checks -/

/-- What the checks of R162 end in: a cause, translations to wait for, or the accesses. -/
inductive AccCheck (α : Type) where
  | bad (t : Trap)
  /-- A fault of translation or permission, or a watch entry: it arises as the instruction executes (R86). -/
  | fault (t : Trap)
  | walk (w : Walk)
  | ok (accs : List α)
  deriving DecidableEq, Repr

/-- What kind of access watch entries and permissions see. -/
structure AccKind where
  read : Bool
  write : Bool
  /-- 0 load, 1 store, 2 atomic: the sub-kind of WATCH. -/
  watch : Nat
  deriving DecidableEq, Repr

/-- A cause that names failing lanes with their addresses; an access of the gang's has one, in each lane it stands for (Table 9.8). -/
def laneTrap (cause : Nat) (cls : TrapClass) (sub code : Nat) (ls : List (Nat × Mask32 × Nat)) : Trap :=
  { cause := cause, cls := cls, sub := sub, mask := ls.foldl (fun a e => a ||| e.2.1) 0
    addrs := ls.flatMap (fun e => (setBits 32 e.2.1).map (fun l => (l, BitVec.ofNat 57 e.2.2))), code := code, resumeNext := false }

/-- The translation of each access as the core's unit gives it, `none` where it must be walked first. -/
def State.translated (s : State) (c : Nat) (asid : BitVec 16) (k : AccKind) (va : Nat) : Option (Except XlatFail Nat) :=
  ((s.core c).tlbFind asid va).map (fun e => s.permit e va k.read k.write false)

/-- The lowest failing access decides the cause, and the lanes that fail with it are the faulters (R162 step 7). -/
def xlatTrapOf (sub : Nat) (fails : List (Nat × Mask32 × Nat × XlatFail)) : Option Trap :=
  match fails with
  | [] => none
  | (_, _, _, f) :: _ =>
    let same := fails.filter (fun e => (e.2.2.2 = .prot) = (f = .prot))
    let ls := same.map (fun e => (e.1, e.2.1, e.2.2.1))
    some (match f with
      | .minor => laneTrap 0x08 .s sub 0 ls
      | .major => laneTrap 0x08 .w sub 0 ls
      | .prot => laneTrap 0x09 .h (if sub = 2 then 2 else 0) 0 ls)

/-- A watch entry matches a byte range for an access kind (R319, R376). -/
def WatchEntry.hits (e : WatchEntry) (k : Nat) (va n : Nat) : Bool :=
  let len := 2 ^ BitVec.field e.ctl 3 0
  let a := BitVec.field e.va 56 0
  e.ctl.getLsbD (8 + k) && BitVec.field e.ctl 3 0 ≤ 12 && decide (a < va + n) && decide (va < a + len)

/-- WATCH of the matching lanes, with the lowest matching entry (R319). -/
def State.watchTrap (s : State) (c : Nat) (k : AccKind) (n : Nat) (ls : List (Nat × Mask32 × Nat)) : Option Trap :=
  let es := (List.range 4).filterMap (fun i => (Tab.find i (s.core c).watch).map (fun e => (i, e)))
  let hit := ls.filter (fun l => es.any (fun e => e.2.hits k.watch l.2.2 n))
  match es.find? (fun e => ls.any (fun l => e.2.hits k.watch l.2.2 n)) with
  | none => none
  | some (i, _) => some (laneTrap 0x10 .h k.watch i hit)

/-- Steps 1 to 6 of R162 for accesses of `n` bytes by the lanes `ls`, each at its element: the lanes with their addresses,
`none` for a dropped one, or the cause of the first check that fails in any lane. -/
def recCheck (r : W128) (n : Nat) (k : AccKind) (mis : Nat) (ls : List (Nat × Mask32 × Int)) :
    Except Trap (List (Nat × Mask32 × Option Nat)) :=
  let all := ls.foldl (fun a e => a ||| e.2.1) (0 : Mask32)
  if ls.isEmpty then .ok []
  else if recReserved r then .error (trapH 0x01 0 all)
  else if (k.read && !recR r) || (k.write && !recW r) then .error (trapH 0x09 0 all)
  else if swizzleBad r n then .error (trapH 0x01 0 all)
  else
    let addr := fun (e : Nat × Mask32 × Int) => recAddr r e.2.2
    let out := ls.filter (fun e => !recIn r e.2.2 n)
    let inn := ls.filter (fun e => recIn r e.2.2 n)
    let named := fun (l : List (Nat × Mask32 × Int)) => l.map (fun e => (e.1, e.2.1, addr e))
    if recOobTrap r && !out.isEmpty then
      .error (laneTrap 0x07 .h 0 0 (out.map (fun e => (e.1, e.2.1, (recAddrInt r e.2.2 % (2 : Int) ^ 57).toNat))))
    else
      let high := inn.filter (fun e => decide (2 ^ 57 ≤ addr e))
      let mal := inn.filter (fun e => addr e % n ≠ 0)
      if !high.isEmpty then .error (laneTrap 0x09 .h 0 0 (named high))
      else if !mal.isEmpty then .error (laneTrap 0x06 .s mis n (named mal))
      else .ok (ls.map (fun e => (e.1, e.2.1, if recIn r e.2.2 n then some (addr e) else none)))

/-- Step 7 of R162 and the watch entries after it, for lanes at their addresses. -/
def State.xlatLanes (s : State) (c : Nat) (g : Mask8) (asid : BitVec 16) (n : Nat) (k : AccKind)
    (ls : List (Nat × Mask32 × Option Nat)) : AccCheck LaneAcc :=
  let live := ls.filterMap (fun e => e.2.2.map (fun a => (e.1, e.2.1, a)))
  if live.any (fun e => (s.translated c asid k e.2.2).isNone) then
    .walk { gang := g, asid := asid, lanes := live.map (fun e => (e.1, e.2.1, BitVec.ofNat 57 e.2.2)), write := k.write
            read := k.read, exec := false, sub := 0 }
  else
    let fails := live.filterMap (fun e => match s.translated c asid k e.2.2 with
      | some (.error f) => some (e.1, e.2.1, e.2.2, f)
      | _ => none)
    match xlatTrapOf 0 fails with
    | some t => .fault t
    | none =>
      match s.watchTrap c k n live with
      | some t => .fault t
      | none => .ok (ls.map (fun e =>
          let base : LaneAcc := { lane := e.1, mask := e.2.1, va := 0, pa := 0, dropped := true, data := 0, bytes := [], cmp := 0, dst := [] }
          match e.2.2 with
          | none => base
          | some a =>
            match s.translated c asid k a with
            | some (.ok pa) => { base with va := BitVec.ofNat 57 a, pa := pa, dropped := false }
            | _ => base))

/-- All the checks of R162 for a record access. -/
def State.recAccs (s : State) (c slot : Nat) (g : Mask8) (ls : List (Nat × Mask32)) (buf idx : Operand) (off : Int)
    (n : Nat) (k : AccKind) (mis : Nat) : AccCheck LaneAcc :=
  let w := s.warp c slot
  let r := w.readB g (Operand.num buf)
  match recCheck r n k mis (ls.map (fun e => (e.1, e.2, w.element g idx off e.1))) with
  | .error t => .bad t
  | .ok as => s.xlatLanes c g w.asid n k as

/-- ATOM accepts global, external and remote memory (R171): the lanes on a page of any other kind. -/
def memKind (pa : Nat) : Bool := decide (bitsAt pa 50 2 ≤ 2)

/-! Scratchpad (R38, R167) -/

/-- Bytes of a workgroup's scratchpad (R38). -/
def Group.padBytes (g : Group) : Nat := 16384 * pwSpad g.partition

/-- The workgroup slot that a cluster-scratchpad address reaches on core `n` (R38). -/
def State.peerOn (s : State) (c group n : Nat) : Option Nat :=
  if n = c then some group
  else
    let launch := (s.group c group).launch
    let hits := (s.core n).groups.filter (fun e => e.2.launch = launch)
    match hits with
    | [] => none
    | e :: r => some (r.foldl (fun a b => if b.2.linear < a.2.linear then b else a) e).1

/-- Where `n` bytes at a scratchpad address lie: core, workgroup slot, offset; `none` is BOUNDS. -/
def State.padAt (s : State) (c group : Nat) (cl : Bool) (x : Int) (n : Nat) : Option (Nat × Nat × Nat) :=
  if x < 0 then none
  else
    let a := x.toNat
    if cl then
      if 2 ^ 24 ≤ a then none
      else
        let core := c / 4 * 4 + a / 2 ^ 22 % 4
        match s.peerOn c group core with
        | none => none
        | some gr =>
          let off := a % 2 ^ 22
          if off + n ≤ (s.group core gr).padBytes then some (core, gr, off) else none
    else if a + n ≤ (s.group c group).padBytes then some (c, group, a) else none

/-- The scratchpad address of a lane (R167). -/
def Warp.padAddr (w : Warp) (g : Mask8) (a : Operand) (off : Int) (n l : Nat) : Int :=
  ((w.src g 0 a l).toNat % 2 ^ 32 : Nat) + off * (n : Int)

/-- The checks of R167 for scratchpad accesses: BOUNDS, then MISALIGN. -/
def State.padAccs (s : State) (c slot : Nat) (g : Mask8) (ls : List (Nat × Mask32)) (a : Operand) (off : Int) (n : Nat)
    (cl : Bool) (mis : Nat) : Except Trap (List PadAcc) :=
  let w := s.warp c slot
  let at' : List (Nat × Mask32 × Int) := ls.map (fun e => (e.1, e.2, w.padAddr g a off n e.1))
  let named := fun (l : List (Nat × Mask32 × Int)) => l.map (fun e => (e.1, e.2.1, (e.2.2 % (2 : Int) ^ 57).toNat))
  let out := at'.filter (fun e => (s.padAt c w.group cl e.2.2 n).isNone)
  let mal := at'.filter (fun e => e.2.2 % (n : Int) ≠ 0)
  if !out.isEmpty then .error (laneTrap 0x07 .h 0 0 (named out))
  else if !mal.isEmpty then .error (laneTrap 0x06 .s mis n (named mal))
  else .ok (at'.filterMap (fun e => (s.padAt c w.group cl e.2.2 n).map (fun t =>
    ({ lane := e.1, core := t.1, group := t.2.1, addr := t.2.2, data := 0, bytes := [], cmp := 0, dst := [] } : PadAcc))))

/-- Lines a list of accesses touches. -/
def accLines (as : List LaneAcc) : List Nat := (as.filter (fun a => !a.dropped)).map (fun a => a.pa / 64)

/-- A store is scalar, executing once per gang, where every register source is an s-register or a constant (R157). -/
def storeScalar (o : FmtD) : Bool := Operand.sc o.index && Operand.sc o.data

/-- The accesses of ST (R165), before its data. -/
def State.storeAccs (s : State) (c slot : Nat) (g : Mask8) (h : Header) (o : FmtD) : AccCheck LaneAcc :=
  s.recAccs c slot g ((s.warp c slot).accLanes g h (storeScalar o)) o.buf o.index o.offset.toInt (sizeBytes o.size)
    { read := false, write := true, watch := 1 } 0

/-- A store meets the log-full stall (R180). -/
def State.storeStalls (s : State) (c slot : Nat) (g : Mask8) (h : Header) (o : FmtD) : Bool :=
  match s.storeAccs c slot g h o with
  | .ok as => (s.core c).logFull (s.warp c slot).group (accLines as)
  | _ => false

end Sys2Proof.Machine
end

