-- ==== Sys2Proof/Machine/Hold.lean ====
section
/-! DEFINITION. What holds a gang, or one instruction of it, back from issuing: the reasons of Table 19.4 in its order
(R13, R18, R72, R177, R178, R180, R199, R213, R230, R236, R300, R306). -/

namespace Sys2Proof.Machine

/-! What is still outstanding -/

def PendOp.isStore : PendOp → Bool | .store _ _ => true | _ => false
def PendOp.isSts : PendOp → Bool | .padStore _ _ => true | _ => false
def PendOp.isLoad : PendOp → Bool | .load _ _ _ _ => true | _ => false
def PendOp.isAcquire : PendOp → Bool
  | .acq _ _ _ => true
  | .fence _ _ _ _ => true
  | .atom _ _ order _ _ _ _ _ _ _ _ => order = 1 || order = 3
  | .loaded _ holds => holds
  | _ => false
def PendOp.isRelease : PendOp → Bool | .rel _ _ => true | _ => false

/-- Scratchpad writes that XKICK, MFENCE and BARR wait for (R199, R213, R226). -/
def PendOp.isPadWrite : PendOp → Bool
  | .padStore _ _ => true
  | .padAtom _ _ _ => true
  | .ldl _ _ => true
  | _ => false

/-- STS and ATOMS, which LBARRIVE and RINGPUT.fill order before themselves (R223, R338); an LDL only once completed. -/
def PendOp.isPadStore : PendOp → Bool
  | .padStore _ _ => true
  | .padAtom _ _ _ => true
  | _ => false

/-- Operations on landing barriers. -/
def PendOp.isLanding : PendOp → Bool
  | .lbinit _ _ _ _ => true
  | .lbarrive _ _ _ _ => true
  | _ => false

/-- An atomic with a remote lane whose outcomes are not all in (R306). -/
def PendOp.isRemoteAtom : PendOp → Bool
  | .atom _ _ _ _ _ _ _ _ lanes outs _ =>
    lanes.any (fun a => !a.dropped && isRemote a.pa) && lanes.any (fun a => !a.dropped && Tab.find a.lane outs ≠ some .done)
  | _ => false

/-- Memory instructions that FENCE waits for (R178, R237). -/
def PendOp.isMemory : PendOp → Bool
  | .regs _ _ | .sys _ _ | .engine _ | .launch _ _ _ | .lbinit _ _ _ _ | .lbarrive _ _ _ _ | .second _ _ _ => false
  | _ => true

/-- The reason that holds slot j+1 of a pair whose slot j has issued. -/
def PendOp.heldSecond : PendOp → Option Nat
  | .second _ _ why => some why
  | _ => none

/-! The gang -/

/-- A gang that this one does not come from runs a handler (R230); a part that has returned from the handler goes on beside
those still in it (R134). -/
def Warp.otherHandler (w : Warp) (g : Mask8) : Bool :=
  (List.range 8).any (fun j => !g.getLsbD j && (w.slice j).live
    && (match (w.slice j).handler with | some a => !a.gang.getLsbD (gangLeader g) | none => false))
  && (w.slice (gangLeader g)).handler.isNone

/-- The code line the gang's next instruction stands in is in the instruction cache. -/
def State.lineHere (s : State) (c slot : Nat) (g : Mask8) : Bool :=
  let w := s.warp c slot
  (Tab.find (icKey w.asid (w.slice (gangLeader g)).pc.toNat) (s.core c).icache).isSome

/-- Another gang has transferred to a destination whose line has not been fetched yet: the warp's gangs wait for that fetch's
checks (R113, R306). -/
def State.transferHold (s : State) (c slot : Nat) (g : Mask8) : Bool :=
  let w := s.warp c slot
  let marked := fun (q : Mask8) => (gangSlices q).any (fun j => (w.slice j).mark)
  !marked g && w.gangs.any (fun q => q ≠ g && marked q && !s.lineHere c slot q)

/-- Why a gang may not issue whatever its instruction is, as a number of Table 19.4 (log entry 11 for a warp whose
workgroup is being saved or has not started). -/
def State.gangHold (s : State) (c slot : Nat) (g : Mask8) : Option Nat :=
  let w := s.warp c slot
  let x := s.group c w.group
  let sl := w.slice (gangLeader g)
  if w.report.isSome || w.otherHandler g || x.saving.isSome || x.waiting || !w.started
      || (match w.stepping with | some q => q ≠ g | none => false) then some 0x20
  else if w.walk.isSome || w.pend.any (fun p => p.op.isRemoteAtom) || s.transferHold c slot g then some 0x22
  else if w.swap ≠ 0 then some 0x23
  else if s.cycle < sl.stall then some 0x24
  else match sl.wait with
    | .ready => w.pend.findSome? (fun p => if p.gang = g then p.op.heldSecond else none)
    | .barr _ _ => some 0x2B
    | .landing _ _ => some 0x2C
    | .ring _ _ _ _ _ => some 0x2C
    | .latch => some 0x2D
    | .regang => some 0x2E
    | .yield => some 0x2F

/-! One instruction -/

/-- A drain, or a token at its limit, is not satisfied (R18, R72). -/
def Warp.tokenHold (w : Warp) (h : Header) : Bool :=
  (setBits 6 h.drain).any (fun k => decide (h.lvl.toNat < Tab.get 0 w.tok k))
  || (h.settok ≠ 0 && decide (63 ≤ Tab.get 0 w.tok (h.settok.toNat - 1)))

/-- The slices in which a control instruction takes effect (R111). -/
def Warp.actSlices (w : Warp) (g : Mask8) (h : Header) : List Nat := (gangSlices g).filter (fun j => w.sliceActs h j)

/-- A control instruction that acts for its gang takes effect: it does in some slice (R111; log entry 14). -/
def Warp.takes (w : Warp) (g : Mask8) (h : Header) : Bool := !(w.actSlices g h).isEmpty

/-- A token stall that the instruction itself asks for: WAITK (R132) and MWAIT (R200). -/
def Warp.waitHold (w : Warp) (g : Mask8) (i : Instr) : Bool :=
  match i with
  | .waitk h o => w.takes g h && decide (o.offset.toNat % 64 < Tab.get 0 w.tok o.subop.toNat)
  | .mwait h o => w.gangActs g h && Tab.get 0 w.tok o.subop.toNat ≠ 0
  | _ => false

/-- The slices that open a frame at a CALL or CALLI: those that act and hold a live lane (R29, R117). -/
def Warp.callSlices (w : Warp) (g : Mask8) (h : Header) : List Nat :=
  (w.actSlices g h).filter (fun j => (w.slice j).readM w.seed 0 ≠ 0)

/-- FRAMEOVF before any room is asked for (R31, R33, R117). -/
def Slice.callOvf (sl : Slice) (B size : Nat) : Bool := decide (B < size + 2) || decide (65535 ≤ sl.depth)

/-- Room for a callee of `size` registers over `k` of the current frame (R31). -/
def Slice.callRoom (sl : Slice) (B seed : Nat) (asid : BitVec 16) (size k : Nat) : Room :=
  sl.makeRoom B seed asid (size - k + 1) (sl.top - 1 - k) B 0

/-- Room for a resize to `size` registers (R121): none where the frame shrinks. The rows from FP up are not spilled (R31). -/
def Slice.resizeRoom (sl : Slice) (B seed : Nat) (asid : BitVec 16) (size : Nat) : Room :=
  if size ≤ sl.fsz then .ok sl 0 else sl.makeRoom B seed asid (size - sl.fsz) (sl.top - 2 - sl.fsz) B 0

/-- Room for a gate frame of `size` registers (R124 step 6). -/
def Slice.gateRoom (sl : Slice) (B seed : Nat) (asid : BitVec 16) (size : Nat) : Room :=
  sl.makeRoom B seed asid (size + 1) (sl.top - 1) B 0

/-- The slices whose RET closes a frame: those that act at a DEPTH above 0, outside a gate frame, whose header is legal
(R118). -/
def Warp.retSlices (w : Warp) (g : Mask8) (h : Header) : List Nat :=
  (w.actSlices g h).filter (fun j =>
    let sl := w.slice j
    let hd := sl.hdr w.rowB
    sl.depth ≠ 0 && hdLegal hd sl.fsz && !hdGate hd)

/-- A frame stall (R31, R32, R36): the current frame is not resident, there is no room, or the caller is not back. -/
def Warp.frameHold (w : Warp) (g : Mask8) (i : Instr) : Bool :=
  let inHandler := (w.slice (gangLeader g)).handler.isSome
  let h := Instr.header i
  if inHandler then false
  else if (gangSlices g).any (fun j => !(w.slice j).frameResident) then true
  else match i with
    | .call _ o | .calli _ o =>
      (w.callSlices g h).any (fun j =>
        decide (o.k.toNat ≤ (w.slice j).fsz) && !((w.slice j).callOvf w.rowB o.size.toNat)
        && (w.slice j).callRoom w.rowB w.seed w.asid o.size.toNat o.k.toNat = .stall)
    | .tcall _ o | .tcallIndirect _ o | .frame _ o =>
      (w.actSlices g h).any (fun j =>
        decide (o.size.toNat + 2 ≤ w.rowB) && (w.slice j).resizeRoom w.rowB w.seed w.asid o.size.toNat = .stall)
    | .ret _ _ => (w.retSlices g h).any (fun j => !(w.slice j).callerResident w.rowB)
    | .gret _ _ =>
      w.takes g h && w.live = g && (gangSlices g).any (fun j =>
        hdGate ((w.slice j).hdr w.rowB) && !(w.slice j).callerResident w.rowB)
    | _ => false

/-- An ordering hold (R177, R236). -/
def Warp.orderHold (w : Warp) (i : Instr) : Bool :=
  let op := Instr.opcode i
  let acq := w.pend.any (fun p => p.op.isAcquire)
  let rel := w.pend.any (fun p => p.op.isRelease)
  let byAcq := opClass op = .m || opClass op = .x || op = 0x48 || op = 0x49
  let byRel := [0xB5, 0xB6, 0xB3, 0xB4, 0xB7, 0xB8, 0xB9, 0xD0, 0xD7].contains op
  (acq && byAcq && op < 256) || (rel && byRel)

/-- The gate drain (R124 step 3, R128): every token zero, every copy request of the warp complete, and its earlier
accesses performed (R243). -/
def State.gateDrain (s : State) (c slot : Nat) : Bool :=
  let w := s.warp c slot
  w.tok.all (fun e => e.2 = 0) && w.pend.isEmpty && (s.core c).copyq.all (fun r => r.slot ≠ slot)

/-- A gate instruction reaches its drain: the checks before it pass (R124, R128). -/
def Warp.gateReaches (w : Warp) (g : Mask8) (i : Instr) : Bool :=
  let h := Instr.header i
  let ld := w.slice (gangLeader g)
  w.takes g h && ld.handler.isNone && w.live = g
  && (match i with
      | .gate _ _ => decide (ld.gates.length < 4)
      | .gret _ _ => (gangSlices g).all (fun j => hdGate ((w.slice j).hdr w.rowB))
      | _ => false)

/-- The scratchpad bytes that an instruction in flight touches: core, workgroup slot, address, length. -/
def PendOp.pads : PendOp → List (Nat × Nat × Nat × Nat)
  | .padLoad n _ ls => ls.map (fun a => (a.core, a.group, a.addr, n))
  | .padStore n ls => ls.map (fun a => (a.core, a.group, a.addr, n))
  | .padAtom _ n ls => ls.map (fun a => (a.core, a.group, a.addr, n))
  | .ldl n ls => ls.map (fun a => (a.2.core, a.2.group, a.2.addr, n))
  | .lbinit c g a _ => [(c, g, a, 8)]
  | .lbarrive c g a _ => [(c, g, a, 8)]
  | _ => []

/-- The address an object operand names: its low 32 bits. -/
def Warp.objAddr (w : Warp) (g : Mask8) (o : Operand) : Nat := (w.srcS g 2 o).toNat % 2 ^ 32

/-- An earlier access of the warp's own to the bytes has not performed (R166). -/
def Warp.touches (w : Warp) (c a n : Nat) : Bool :=
  w.pend.any (fun p => p.op.pads.any (fun x => x.1 = c && x.2.1 = w.group && decide (x.2.2.1 < a + n) && decide (a < x.2.2.1 + x.2.2.2)))

/-- Engine holds: the copy queue, earlier scratchpad writes of the warp, a gate drain (R124, R166, R213, R223, R226,
R338). -/
def State.engineHold (s : State) (c slot : Nat) (g : Mask8) (i : Instr) : Bool :=
  let w := s.warp c slot
  let acts := w.gangActs g (Instr.header i)
  let pad := w.pend.any (fun p => p.op.isPadWrite)
  match i with
  | .xkick _ _ => acts && (pad || w.pend.any (fun p => p.op.isLanding) || decide (64 ≤ (s.core c).copyq.length))
  | .ringputFill _ o => acts && (w.pend.any (fun p => p.op.isPadStore) || w.touches c (w.objAddr g o.srcA) 32)
  | .ringput _ o | .ringget _ o | .ringgetFree _ o => acts && w.touches c (w.objAddr g o.srcA) 32
  | .barr _ _ => acts && (pad || w.pend.any (fun p => p.op.isStore || p.op.isLanding))
  | .gate _ _ | .gret _ _ => w.gateReaches g i && !(s.gateDrain c slot)
  | _ => false

/-- An engine hold that R13 counts with the long ones: a gate's drain (R124, R128), and a full copy queue, where nothing else
holds the XKICK (R213). -/
def State.engineLong (s : State) (c slot : Nat) (g : Mask8) (i : Instr) : Bool :=
  match i with
  | .gate _ _ | .gret _ _ => s.engineHold c slot g i
  | .xkick _ _ => s.engineHold c slot g i && !(s.warp c slot).pend.any (fun p => p.op.isPadWrite || p.op.isLanding)
  | _ => false

/-- MFENCE waits for the warp's scratchpad writes (R199). -/
def State.fenceHold (s : State) (c slot : Nat) (g : Mask8) (i : Instr) : Bool :=
  let w := s.warp c slot
  match i with
  | .mfence h _ => w.gangActs g h && w.pend.any (fun p => p.op.isPadWrite)
  | _ => false

/-- Why one instruction may not issue, as a number of Table 19.4, or none. -/
def State.instrHold (s : State) (c slot : Nat) (g : Mask8) (i : Instr) : Option Nat :=
  let w := s.warp c slot
  let h := Instr.header i
  if w.tokenHold h || w.waitHold g i then some 0x25
  else if w.frameHold g i then some 0x26
  else if (match i with | .st h o => s.storeStalls c slot g h o | _ => false) then some 0x27
  else if w.orderHold i then some 0x28
  else if s.engineHold c slot g i then some 0x29
  else if s.fenceHold c slot g i then some 0x2A
  else none

/-- What slot j of a pair holds slot j+1 back for, once it has issued: the order that the matrices keep between the two (R243,
R244), the gate's drain, or a wait on the token that it counts on (R69, R238). -/
def State.secondHold (s : State) (c slot : Nat) (g : Mask8) (i : Instr) : Option Nat :=
  let w := s.warp c slot
  if w.waitHold g i then some 0x25
  else if w.orderHold i then some 0x28
  else if s.engineHold c slot g i then some 0x29
  else if s.fenceHold c slot g i then some 0x2A
  else none

/-- What a frame stall asks of the undertow: the caller's rows for RET and GRET, the frame's own otherwise (R32). -/
def State.askRefill (s : State) (c slot : Nat) (g : Mask8) (i : Instr) : State :=
  s.modWarp c slot (fun w => w.onGang g (fun _ sl =>
    let asks := fun (t : Nat) => match sl.refillTo with | some q => some (min q t) | none => some t
    if !sl.frameResident then { sl with refillTo := asks (sl.top - 2 - sl.fsz) }
    else match i with
      | .ret _ _ | .gret _ _ =>
        if sl.depth ≠ 0 && !sl.callerResident w.rowB then { sl with refillTo := asks (sl.callerLow w.rowB), returning := true }
        else sl
      | _ => sl))

end Sys2Proof.Machine
end

