-- ==== Sys2Proof/Machine/Pads.lean ====
section
/-! DEFINITION. The scratchpad, the accumulator and the scale memory of a workgroup (R38, R269): writes with the shadow of
R256 and the old bytes of R199. -/

namespace Sys2Proof.Machine

/-- The scratchpad port of a core has served an agent: 0 own warps, 1 copy engine, 2 matrix engine, 3 peers (R269). -/
def State.served (s : State) (c agent : Nat) : State := s.modCore c (fun k => { k with portLast := agent })

/-- The ports that a warp's accesses go through have served it (R269). -/
def State.servePads (s : State) (c : Nat) (cores : List Nat) : State :=
  cores.dedup.foldl (fun s d => s.served d (if d = c then 0 else 3)) s

/-- A warp's write of scratchpad does not change the code table of a DECODE that was posted before (R272): the bytes it replaces are
kept for the requests that have not read theirs. -/
def State.keepTables (s : State) (c g a n : Nat) : State :=
  s.modCore c (fun k => { k with copyq := k.copyq.map (fun (r : CopyReq) =>
    let at_ := BitVec.field (r.words.getD 3 0) 31 0
    if r.group = g && BitVec.field (r.words.getD 0 0) 3 0 = 6 && r.table.isEmpty && decide (at_ < a + n) && decide (a < at_ + 272) then
      let new := ((List.range n).map (· + a)).filter (fun i =>
        decide (at_ ≤ i) && decide (i < at_ + 272) && !(r.shadow.any (fun e => e.2.1 = i)))
      { r with shadow := r.shadow ++ new.map (fun i => (0, i, (Tab.get Group.empty k.groups g).padByte i)) }
    else r) })

/-! What a stage may still miss (R199) -/

/-- The warps of a workgroup, as a mask. -/
def Group.warpMask (g : Group) : Mask32 := BitVec.ofNat 32 (2 ^ g.slots.length - 1)

/-- A later note of a byte: with those of the same writer that the same warps have made, seen and fenced it becomes one, which is
known complete only by what tells it of them all. -/
def addNote (l : List Unfenced) (u : Unfenced) : List Unfenced :=
  let same := fun (q : Unfenced) => decide (q.writer = u.writer ∧ q.mask = u.mask ∧ q.due = u.due)
  let mine := l.filter same
  l.filter (fun q => !(same q)) ++ [{ u with
    olds := (mine.flatMap (·.olds) ++ u.olds).dedup, tags := u.tags.filter (fun t => mine.all (fun q => q.tags.contains t)) }]

/-- A write of a byte that held `old`, by a writer, which is one of the warps `due` or none of the workgroup's. -/
def noteWrite (old : Byte) (writer : Nat) (mask due : Mask32) (l : List Unfenced) : List Unfenced :=
  let u : Unfenced := { olds := [old], writer := writer, mask := mask, due := due, tags := [] }
  (l ++ [u]).foldl addNote []

/-- A byte as some stage may still find it: what it held before the writes that the warps `idxs` have none of fenced. -/
def oldBytes (idxs : List Nat) (l : List Unfenced) : List Byte :=
  (l.reverse.takeWhile (fun u => idxs.all (fun i => u.mask.getLsbD i))).flatMap (·.olds)

/-- MFENCE of a warp ends what it may miss of a byte: its own writes and those that it has seen complete, with what came before
them. -/
def fenceByte (idx : Nat) (l : List Unfenced) : List Unfenced :=
  l.foldr (fun u t =>
    if u.due.getLsbD idx || t.any (fun q => !q.mask.getLsbD idx) then { u with mask := u.mask &&& ~~~ (BitVec.ofNat 32 (2 ^ idx)) } :: t
    else u :: t) []

/-- Changes the notes of a workgroup's writes; one that no warp may miss any more goes. -/
def Group.modWrites (g : Group) (f : Nat → List Unfenced → List Unfenced) : Group :=
  if g.unfenced.isEmpty then g
  else { g with unfenced := g.unfenced.filterMap (fun e =>
    let l := (f e.1 e.2).filter (fun u => u.mask ≠ 0)
    if l.isEmpty then none else some (e.1, l)) }

/-- Some warps have seen those of the noted writes complete that meet a condition on the byte's key and the note. -/
def Group.seeWrites (g : Group) (warps : Mask32) (p : Nat → Unfenced → Bool) : Group :=
  g.modWrites (fun a l => l.map (fun u => if p a u then { u with due := u.due ||| warps } else u))

/-- Marks those of the noted writes that meet a condition. -/
def Group.tagWrites (g : Group) (tag : Nat) (p : Nat → Unfenced → Bool) : Group :=
  g.modWrites (fun a l => l.map (fun u => if p a u && !(u.tags.contains tag) then { u with tags := u.tags ++ [tag] } else u))

/-- The phase of the landing barrier at `a` has flipped: what its count covers can be seen complete there (R222). -/
def Group.flipWrites (g : Group) (a : Nat) : Group :=
  g.modWrites (fun _ l => l.map (fun u => { u with tags := u.tags.map (fun t => if t = 2 * a then 2 * a + 1 else t) }))

/-- The mark of a request's writes by the warp slot and the token on which it counts. -/
def tokTag (slot tok : Nat) : Nat := 2 ^ 40 + 64 * slot + tok

/-- A warp has seen the writes of the copy requests complete on whose tokens it has waited (R220). -/
def State.sawTokens (s : State) (c slot : Nat) : State :=
  let w := s.warp c slot
  if w.waited = 0 then s
  else (s.modGroup c w.group (fun g => g.seeWrites (BitVec.ofNat 32 (2 ^ w.idx)) (fun _ u =>
    (setBits 6 w.waited).any (fun k => u.tags.contains (tokTag slot (k + 1)))))).modWarp c slot (fun w => { w with waited := 0 })

/-- Writes scratchpad bytes, keeping the old byte for stages that read without an MFENCE (R199). -/
def Group.padPut (g : Group) (a : Nat) (bs : List Byte) (writer : Nat) (due : Mask32) : Group :=
  let g' := (bs.zipIdx).foldl (fun (g : Group) e =>
    let i := a + e.2
    { g with spad := Tab.put g.spad i e.1
             unfenced := Tab.put g.unfenced i (noteWrite (g.padByte i) writer g.warpMask due (Tab.get [] g.unfenced i)) }) g
  g'.shadow ((List.range bs.length).map (fun i => padBlock (a + i)))

/-- Writes scratchpad bytes for the matrix engine, whose later instructions see them (R184). -/
def Group.padSet (g : Group) (a : Nat) (bs : List Byte) : Group :=
  let g' := (bs.zipIdx).foldl (fun (g : Group) e =>
    { g with spad := Tab.put g.spad (a + e.2) e.1, unfenced := Tab.del g.unfenced (a + e.2) }) g
  g'.shadow ((List.range bs.length).map (fun i => padBlock (a + i)))

/-- Writes accumulator words, with their shadow (R256). -/
def Group.accPut (g : Group) (ws : List (Nat × W32)) : Group :=
  ({ g with acc := ws.foldl (fun t e => Tab.put t e.1 e.2) g.acc } : Group).shadow (ws.map (fun e => accBlock e.1))

/-- The number under which ranges and unfenced bytes know a byte of scale memory. -/
def scaleKey (a : Nat) : Nat := 2 ^ 40 + a

/-- Writes bytes of scale memory for the matrix engine, with their shadow (R184, R256). -/
def Group.scalePut (g : Group) (a : Nat) (bs : List Byte) : Group :=
  ((bs.zipIdx).foldl (fun (g : Group) e =>
    { g with scale := Tab.put g.scale (a + e.2) e.1, unfenced := Tab.del g.unfenced (scaleKey (a + e.2)) }) g).shadow
    ((List.range bs.length).map (fun i => scaleBlock (a + i)))

/-- Writes bytes of scale memory for the copy engine, keeping the old ones (R199, R215). -/
def Group.scaleLand (g : Group) (a : Nat) (bs : List Byte) : Group :=
  ((bs.zipIdx).foldl (fun (g : Group) e =>
    let i := a + e.2
    { g with scale := Tab.put g.scale i e.1
             unfenced := Tab.put g.unfenced (scaleKey i) (noteWrite (g.scaleByte i) 0 g.warpMask 0 (Tab.get [] g.unfenced (scaleKey i))) }) g).shadow
    ((List.range bs.length).map (fun i => scaleBlock (a + i)))

/-- The old bytes that an instruction of the warps `idxs` may still read in some ranges: those that no MFENCE of any of
the warps stands after (R199; log entry 17). -/
def Group.staleIn (g : Group) (idxs : List Nat) (ranges : List (Nat × Nat)) : Tab (List Byte) :=
  g.unfenced.filterMap (fun (a, l) =>
    if ranges.any (fun r => decide (r.1 ≤ a) && decide (a ≤ r.2)) then
      (match oldBytes idxs l with | [] => none | bs => some (a, bs))
    else none)

/-- MFENCE of a warp: what it has written, or seen complete, is read from here on as it stands (R199). -/
def Group.fence (g : Group) (idx : Nat) : Group := g.modWrites (fun _ l => fenceByte idx l)

end Sys2Proof.Machine
end

