-- ==== Sys2Proof/Machine/Tile.lean ====
section
/-! DEFINITION. The arithmetic of the matrix engine: tiles and their elements (R49, R50, R189–R193, R195, R202), exact dots
(R55, R56), the combination with the destination (R57), carries (R60) and one pair of a stage (R194, R201). -/

namespace Sys2Proof.Machine

/-! Shapes and formats -/

/-- The tile a grant describes, with the granted formats (R185, R186). -/
structure Shape where
  pairs : Nat
  blk : Nat
  cols : Nat
  wfmt : Nat
  xfmt : Nat
  deriving DecidableEq, Repr

/-- The grant that MTEAM holds (Table 8.2). -/
def shapeOf (mteam : W64) : Shape :=
  { pairs := BitVec.field mteam 42 36, blk := 2 ^ BitVec.field mteam 45 43, cols := BitVec.field mteam 54 46
    wfmt := BitVec.field mteam 58 55, xfmt := BitVec.field mteam 62 59 }

/-- Rows N and elements E of the tile. -/
def Shape.rows (h : Shape) : Nat := 2 * h.blk * h.pairs

/-- Bits of an element in a format (R189). -/
def elemBits (f : Nat) : Nat := if 9 ≤ f then f - 7 else if f = 3 then 64 else if f = 0 then 32 else 16

def isBfp (f : Nat) : Bool := decide (9 ≤ f)

/-- Block length of a code (Table 2.3). -/
def lenOf (c : Nat) : Nat := 32 * 2 ^ c

/-- Fields of the format block (Table 8.5). -/
def fbCarry (f : W64) : Nat := BitVec.field f 45 44
def fbMode (f : W64) : Nat := BitVec.field f 43 42
def fbXScale (f : W64) : Nat := BitVec.field f 41 27
def fbXLen (f : W64) : Nat := BitVec.field f 26 25
def fbXFmt (f : W64) : Nat := BitVec.field f 24 21
def fbWScale (f : W64) : Nat := BitVec.field f 20 6
def fbWLen (f : W64) : Nat := BitVec.field f 5 4
def fbWFmt (f : W64) : Nat := BitVec.field f 3 0

/-- 128-byte units of a frame tile (R189). -/
def tileUnits (rows width f : Nat) : Nat := (rows * width * elemBits f + 1023) / 1024

/-- Bytes of one row (R190). -/
def rowBytes (width f : Nat) : Nat := (width * elemBits f + 7) / 8

/-! Elements -/

/-- A byte as it stands, or one of those that stood there before writes not fenced (R199). -/
def pickByte (seed key : Nat) (now : Byte) (olds : List Byte) : Byte :=
  (olds.zipIdx).foldl (fun b e => if freeBit seed (key + 2 ^ 45 * e.2) then e.1 else b) now

/-- One scratchpad byte as the engine reads it (R199). -/
def Group.tileByte (g : Group) (seed : Nat) (stale : Tab (List Byte)) (a : Nat) : Byte :=
  pickByte seed (300000000 + a) (g.padByte a) (Tab.get [] stale a)

/-- One byte of scale memory as the engine reads it (R199). -/
def Group.scaleAt (g : Group) (seed : Nat) (stale : Tab (List Byte)) (a : Nat) : Byte :=
  pickByte seed (400000000 + a) (g.scaleByte a) (Tab.get [] stale (scaleKey a))

/-- The bits of element (r, c) of a tile of `width` columns; `t` counts tiles from the first one latched, `idx` from the
operand's base; `half` is the row at which PARTNER takes over (R189, R190, R195). -/
def Group.rawElem (g : Group) (seed : Nat) (stale : Tab (List Byte)) (src : TileSrc) (rows width f t idx half r c : Nat) : Nat :=
  let n := elemBits f
  match src with
  | .none => 0
  | .frame bytes =>
    let bit := (r * width + c) * n
    let first := t * tileUnits rows width f * 128 + bit / 8
    ofBytes ((bytes.drop first).take 9) / 2 ^ (bit % 8) % 2 ^ n
  | .pad base rp tp _ partner =>
    let start := if half ≤ r then partner + (r - half) * rp else base + 64 * tp * idx + r * rp
    let bit := c * n
    ofBytes ((List.range 9).map (fun i =>
      if 8 * i < bit % 8 + n then g.tileByte seed stale (start + bit / 8 + i) else 0)) / 2 ^ (bit % 8) % 2 ^ n

/-- A value from an element's bits and, for a BFP format, its block's exponent (R49, R192). -/
def elemValue (f raw exp : Nat) : FVal := if isBfp f then bfpVal exp (mantOf (f - 7) raw) else (fmtOfCode f).decode raw

/-- The zero that a cleared sub-block counts as (R202). -/
def fzero : FVal := .fin false 0 0

/-- Bit `q` of a bitmap in scratchpad. -/
def Group.mapBit (g : Group) (seed : Nat) (stale : Tab (List Byte)) (src : TileSrc) (q : Nat) : Bool :=
  match src with
  | .pad _ _ _ map _ => (g.tileByte seed stale (map + q / 8)).getLsbD (q % 8)
  | _ => true

/-- Weight (r, u) of the stage with index `idx`. -/
def Group.weight (g : Group) (e : EngInstr) (t idx r u : Nat) : FVal :=
  let h := 2 * e.blk
  let n := h * e.pairs
  let f := fbWFmt e.fmt
  if e.sparse && !g.mapBit e.seed e.stale e.w (r / 8 * (h / 8) + u / 8) then fzero
  else
    let len := lenOf (fbWLen e.fmt)
    let exp := if isBfp f then (g.scaleAt e.seed e.stale (fbWScale e.fmt + idx * (n * h / len) + (r * h + u) / len)).toNat else 0
    elemValue f (g.rawElem e.seed e.stale e.w n h f t idx n r u) exp

/-- Activation (r, c), from the operand. -/
def Group.activation (g : Group) (e : EngInstr) (r c : Nat) : FVal :=
  let n := 2 * e.blk * e.pairs
  let f := fbXFmt e.fmt
  if e.sparse && !g.mapBit e.seed e.stale e.x (r / 8 * (e.cols / 16) + c / 16) then fzero
  else
    let len := lenOf (fbXLen e.fmt)
    let exp := if isBfp f then (g.scaleAt e.seed e.stale (fbXScale e.fmt + (r * e.cols + c) / len)).toNat else 0
    elemValue f (g.rawElem e.seed e.stale e.x n e.cols f 0 0 (if e.split then n / 2 else n) r c) exp

/-- The format of a carry (R60, Table 8.5): its code of Table 2.3. -/
def carryCode (f : W64) : Nat :=
  match fbCarry f with
  | 1 => 1
  | 2 => 15
  | _ => if fmtWide f then 3 else 0

/-- Element (r, c) of the carry into a stage. -/
def EngInstr.carried (e : EngInstr) (r c : Nat) : FVal :=
  let i := r * e.cols + c
  elemValue (carryCode e.fmt) ((e.carry.getD i 0).toNat) (e.carryExp.getD (i / lenOf (fbXLen e.fmt)) 0)

/-! Exact dots and their rounding -/

/-- An exact dot: its value, with the flags of R56; an exact zero is +0 (R57). -/
def exactDot (ps : List (FVal × FVal)) : FVal × W32 :=
  let ops := ps.flatMap (fun p => [p.1, p.2])
  if ops.any FVal.isNan then (.nan false, if ops.any FVal.isSnan then flNV else 0)
  else
    let bad := ps.any (fun p => (p.1.isInf && p.2.isZero) || (p.1.isZero && p.2.isInf))
    let ts := ps.map (fun p => p.1.mul p.2)
    let infs := ts.filter FVal.isInf
    if bad || (infs.any FVal.neg && infs.any (fun t => !t.neg)) then (.nan false, flNV)
    else match infs with
      | t :: _ => (t, 0)
      | [] =>
        let q := exactSum ts
        (if q.1 = 0 then fzero else .fin (decide (q.1 < 0)) q.1.natAbs q.2, 0)

/-- RNE of an exact dot in a format (R57, R60). -/
def Fmt.roundDot (F : Fmt) (d : FVal) : FOut := F.dot 0 [] [d]

/-- Y combined with D under the accumulate mode (R57). -/
def combine (F : Fmt) (mode : Nat) (alpha y : Nat) (d : FVal) : FOut :=
  match mode with
  | 0 => F.roundDot d
  | 1 => F.dot 0 [] [F.decode y, d]
  | _ => F.dot 0 [(F.decode alpha, F.decode y)] [d]

/-! One pair of a stage (R194) -/

/-- The lower element of pair `j` at stride `s`. -/
def pairElem (s j : Nat) : Nat := j / s * (2 * s) + j % s

/-- The tile row that column `u` of a pair's weight block meets. -/
def pairRow (b s j u : Nat) : Nat :=
  let e := pairElem s j
  if u < b then e * b + u else (e + s) * b + (u - b)

/-- The accumulator words of output (y, c) in a stage's format (R193): the index of the word, and of its upper half. -/
def accIndex (acc y c : Nat) (wide : Bool) : Nat :=
  if wide then (acc + c / 16) * 4096 + y * 32 + 2 * (c % 16) else (acc + c / 32) * 4096 + y * 32 + c % 32

/-- An accumulator element as bits. -/
def Group.accElem (g : Group) (acc y c : Nat) (wide : Bool) : Nat :=
  let i := accIndex acc y c wide
  if wide then (g.accWord i).toNat + 2 ^ 32 * (g.accWord (i + 1)).toNat else (g.accWord i).toNat

/-- The words that write an accumulator element. -/
def accWords (acc y c : Nat) (wide : Bool) (v : Nat) : List (Nat × W32) :=
  let i := accIndex acc y c wide
  if wide then [(i, BitVec.ofNat 32 v), (i + 1, BitVec.ofNat 32 (v / 2 ^ 32))] else [(i, BitVec.ofNat 32 v)]

/-- The stride of the stage a chunk works on. -/
def EngInstr.stride (e : EngInstr) : Nat := e.strides.getD e.t 1

/-- Stages of the instruction. -/
def EngInstr.stages (e : EngInstr) : Nat := if e.kind = .bchain then e.count else 1

/-- Index of the weight tile that stage `t` uses. -/
def EngInstr.tileOf (e : EngInstr) (t : Nat) : Nat := if e.kind = .bchain then t else e.count

/-- The exact dots of pair `j`: output row, column, value and flags. -/
def Group.pairDots (g : Group) (e : EngInstr) (j : Nat) : List (Nat × Nat × FVal × W32) :=
  let b := e.blk
  let s := e.stride
  (List.range (2 * b)).flatMap (fun i =>
    (List.range e.cols).map (fun c =>
      let d := exactDot ((List.range (2 * b)).map (fun u =>
        let r := pairRow b s j u
        (g.weight e e.t (e.tileOf e.t) (j * (2 * b) + i) u, if e.t = 0 then g.activation e r c else e.carried r c)))
      (pairRow b s j i, c, d.1, d.2)))

/-- Sparse steps that pair `j` runs (R202). -/
def Group.pairSteps (g : Group) (e : EngInstr) (j : Nat) : Nat :=
  if !e.sparse then 0
  else
    let b := e.blk
    let s := e.stride
    let wb := 2 * b / 8
    let gs := e.cols / 16
    ((List.range (2 * b / 8)).flatMap (fun p => (List.range wb).flatMap (fun h =>
      let row := j * (2 * b) / 8 + p
      let qs := ((List.range 8).map (fun u => pairRow b s j (8 * h + u) / 8)).dedup
      qs.flatMap (fun q => (List.range gs).filter (fun x =>
        g.mapBit e.seed e.stale e.w (row * wb + h) && g.mapBit e.seed e.stale e.x (q * gs + x)))))).length

/-! A chunk (R203) -/

/-- Flags of dots and roundings together. -/
def orFlagsOf (fs : List W32) : W32 := fs.foldl (fun a f => a ||| f) 0

/-- Requantizes the exact dots of a whole stage in blocks (R60, R201): mantissas, exponents, flags. -/
def carryBlocks (len : Nat) : Nat → List FVal → List W64 × List Nat × W32
  | 0, _ => ([], [], 0)
  | n + 1, vs =>
    let b := requantize 8 (vs.take len)
    let q := carryBlocks len n (vs.drop len)
    (b.mants.map (fun m => BitVec.ofInt 64 m) ++ q.1, b.exp :: q.2.1, b.flags ||| q.2.2)

/-- Pairs `j` to `j + n − 1` of the last stage, each output combined once. The flags of its dot (R56) are raised whatever Y and
alpha are, quiet NaNs included (log entry 106). -/
def Group.lastPairs (g : Group) (e : EngInstr) (n : Nat) : Group × W32 :=
  let wide := fmtWide e.fmt
  let F := if wide then fp64 else fp32
  (List.range n).foldl (fun (a : Group × W32) k =>
    let outs := (g.pairDots e (e.j + k)).map (fun (y, c, d, f) =>
      let o := combine F (fbMode e.fmt) e.alpha.toNat (g.accElem e.acc y c wide) d
      (accWords e.acc y c wide o.bits, f ||| o.flags))
    (a.1.accPut (outs.flatMap (·.1)), a.2 ||| orFlagsOf (outs.map (·.2)))) (g, 0)

/-- The dots of pairs of a stage that is not the last: the instruction with its partial output carry. -/
def Group.carryPairs (g : Group) (e : EngInstr) (n : Nat) : EngInstr :=
  let ds := (List.range n).flatMap (fun k => g.pairDots e (e.j + k))
  let code := carryCode e.fmt
  if code = 15 then
    let total := 2 * e.blk * e.pairs * e.cols
    let flat : Tab FVal := ds.foldl (fun t (y, c, d, _) => Tab.put t (y * e.cols + c) d) []
    let len := lenOf (fbXLen e.fmt)
    let q := carryBlocks len (total / len) ((List.range total).map (fun i => Tab.get fzero flat i))
    { e with carry := q.1, carryExp := q.2.1, flags := e.flags ||| q.2.2 ||| orFlagsOf (ds.map (fun d => d.2.2.2)) }
  else
    let F := fmtOfCode code
    let outs := ds.map (fun (y, c, d, f) => let o := F.roundDot d; (y * e.cols + c, o.bits, f ||| o.flags))
    { e with partialOut := outs.foldl (fun t o => Tab.put t o.1 (BitVec.ofNat 64 o.2.1)) e.partialOut
             flags := e.flags ||| orFlagsOf (outs.map (·.2.2)) }

/-- MACs per cycle of the stage being worked (R204). -/
def EngInstr.rate (e : EngInstr) : Nat :=
  let f := fbWFmt e.fmt
  let into := if e.t = 0 then fbXFmt e.fmt else carryCode e.fmt
  if f = 3 then 128 else if isBfp f && isBfp into then 65536 / (f - 7) else 2048

/-- Cycles of the stage being worked, its steps counted where it is sparse (R204). -/
def EngInstr.cost (e : EngInstr) : Nat :=
  let n := 2 * e.blk * e.pairs
  let macs := if e.sparse then 1024 * e.steps else n * (2 * e.blk) * e.cols
  max ((macs + e.rate - 1) / e.rate) ((n * e.cols + 1023) / 1024)

/-- The number of pairs a chunk may take: at most 4,096 cycles (R203, R204), whole stages under a BFP8 carry; a pair that alone costs
more is a chunk, the model's choice (log entry 132). -/
def EngInstr.chunkPairs (e : EngInstr) (asked : Nat) : Nat :=
  let left := e.pairs - e.j
  if carryCode e.fmt = 15 && e.kind = .bchain then left
  else
    let cost := max 1 (4 * e.blk * e.blk * e.cols / e.rate)
    min left (max 1 (min (max 1 asked) (4096 / cost)))

/-- Work on a BFLY or BCHAIN: a chunk of pairs, and the cursor after it. -/
def Group.stageChunk (g : Group) (e : EngInstr) (asked : Nat) : Group × EngInstr :=
  let n := e.chunkPairs asked
  let steps := (List.range n).foldl (fun a k => a + g.pairSteps e (e.j + k)) e.steps
  let e : EngInstr := { e with begun := true, steps := steps }
  if e.t + 1 = e.stages then
    let q := g.lastPairs e n
    (q.1, { e with j := e.j + n, flags := e.flags ||| q.2, finished := decide (e.pairs ≤ e.j + n) })
  else
    let e' := g.carryPairs e n
    if e.pairs ≤ e.j + n then
      (g, { e' with
        j := 0, t := e.t + 1, partialOut := []
        carry := if carryCode e.fmt = 15 then e'.carry
          else (List.range (2 * e.blk * e.pairs * e.cols)).map (fun i => Tab.get 0 e'.partialOut i) })
    else (g, { e' with j := e.j + n })

/-! Transfers (R205–R208) -/

/-- MLOAD: each element widened exactly (R206). -/
def Group.loadTile (g : Group) (e : EngInstr) (f : Nat) : Group × W32 :=
  let cells := (List.range e.h).flatMap (fun r => (List.range e.wd).map (fun c => (r, c)))
  let outs := cells.map (fun (r, c) =>
    let raw := g.rawElem e.seed e.stale e.x e.h e.wd f 0 0 e.h r c
    let v := (fmtOfCode f).decode raw
    let nan := v.isNan
    let o : FOut := match f with
      | 0 => if v.isSnan then fp32.nanOut true else { bits := raw, flags := 0 }
      | 3 => if v.isSnan then fp64.nanOut true else { bits := raw, flags := 0 }
      | _ => if nan then fp32.nanOut v.isSnan else fp32.dot 0 [] [v]
    (accWords e.acc r c (f = 3) o.bits, o.flags))
  (g.accPut (outs.flatMap (·.1)), orFlagsOf (outs.map (·.2)))

/-- MSTORE to a format that is not BFP: the bytes of each row with the flags (R207). -/
def Group.storeRow (g : Group) (e : EngInstr) (f r : Nat) : List Byte × W32 :=
  let outs := (List.range e.wd).map (fun c =>
    let raw := g.accElem e.acc r c (f = 3)
    let o : FOut := if f = 0 || f = 3 then { bits := raw, flags := 0 } else (fmtOfCode f).dot 0 [] [fp32.decode raw]
    (toBytes (elemBits f / 8) o.bits, o.flags))
  (outs.flatMap (·.1), orFlagsOf (outs.map (·.2)))

/-- The blocks of an MSTORE to BFP (R59, R207). -/
def Group.storeBlocks (g : Group) (e : EngInstr) (n len : Nat) : List Block :=
  let vals := (List.range (e.h * e.wd)).map (fun i => fp32.decode (g.accElem e.acc (i / e.wd) (i % e.wd) false))
  (List.range (e.h * e.wd / len)).map (fun q => requantize n ((vals.drop (q * len)).take len))

/-- MSTORE (R207). -/
def Group.storeTile (g : Group) (e : EngInstr) (f len : Nat) : Group × W32 :=
  match e.x with
  | .pad base rp _ _ _ =>
    if isBfp f then
      let bs := g.storeBlocks e (f - 7) (lenOf len)
      let ms := bs.flatMap (·.mants)
      let g' := (List.range e.h).foldl (fun (x : Group) r =>
        x.padSet (base + r * rp) (toBytes (rowBytes e.wd f) (packMants (f - 7) ((ms.drop (r * e.wd)).take e.wd)))) g
      (g'.scalePut e.off (bs.map (fun b => BitVec.ofNat 8 b.exp)), orFlagsOf (bs.map (·.flags)))
    else
      (List.range e.h).foldl (fun (a : Group × W32) r =>
        let q := g.storeRow e f r
        (a.1.padSet (base + r * rp) q.1, a.2 ||| q.2)) (g, 0)
  | _ => (g, 0)

/-- The engine works on an instruction: the whole of a transfer, a chunk of a stage. -/
def Group.engineWork (g : Group) (e : EngInstr) (asked : Nat) : Group × EngInstr :=
  let all := fun (q : Group × W32) => (q.1, ({ e with begun := true, finished := true, flags := e.flags ||| q.2 } : EngInstr))
  match e.kind with
  | .bfly | .bchain => g.stageChunk e asked
  | .mload f => all (g.loadTile e f)
  | .mstore f len => all (g.storeTile e f len)
  | .mzero => all (g.accPut ((List.range (e.count * 4096)).map (fun i => (e.acc * 4096 + i, 0))), 0)
  | .mscale out =>
    all (match e.x with
      | .pad base _ _ _ _ =>
        if out then (g.padSet base ((List.range e.count).map (fun i => g.scaleAt e.seed e.stale (e.off + i))), 0)
        else (g.scalePut e.off ((List.range e.count).map (fun i => g.tileByte e.seed e.stale (base + i))), 0)
      | _ => (g, 0))

end Sys2Proof.Machine
end

