-- ==== Sys2Proof/Machine/Window.lean ====
section
/-! DEFINITION. The undefined window of a matrix instruction (R198, R200): which bytes each output's dot reads, what a write
of them leaves undefined, and the writes of scratchpad, scale memory and rows that may be such. Bytes are known by keys:
scratchpad by address, scale memory from 2^40, the weights of a frame operand from 2^41, its activations from 2^41 + 2^40. -/

namespace Sys2Proof.Machine

/-! What a dot reads -/

/-- The key of a byte of a frame operand. -/
def frameKey (x : Bool) (byte : Nat) : Nat := 2 ^ 41 + x.toNat * 2 ^ 40 + byte

/-- Two runs of keys meet. -/
def runsMeet (a b : Nat × Nat) : Bool := decide (a.1 < b.1 + b.2) && decide (b.1 < a.1 + a.2)

/-- Some run of one list meets one of the other. -/
def keysMeet (ks dirt : List (Nat × Nat)) : Bool := ks.any (fun k => dirt.any (runsMeet k))

/-- The bytes of `k` elements from (r, c), where `Group.rawElem` reads them. -/
def TileSrc.span (src : TileSrc) (x : Bool) (rows width f t idx half r c k : Nat) : Nat × Nat :=
  let n := elemBits f
  match src with
  | .none => (0, 0)
  | .frame _ =>
    let bit := (r * width + c) * n
    (frameKey x (t * tileUnits rows width f * 128 + bit / 8), (bit % 8 + k * n + 7) / 8)
  | .pad base rp tp _ partner =>
    let start := if half ≤ r then partner + (r - half) * rp else base + 64 * tp * idx + r * rp
    (start + c * n / 8, (c * n % 8 + k * n + 7) / 8)

/-- The byte of a bitmap that holds bit `q`. -/
def TileSrc.mapRun (src : TileSrc) (q : Nat) : List (Nat × Nat) :=
  match src with
  | .pad _ _ _ map _ => [(map + q / 8, 1)]
  | _ => []

/-- The exponents of `k` elements from flat index `i`. -/
def expRun (f scale len i k : Nat) : List (Nat × Nat) :=
  if isBfp f then [(scaleKey (scale + i / len), (i + k - 1) / len + 1 - i / len)] else []

/-- What row `r` of the weight tile of stage `t` takes from memory: of a sparse operand the bitmap and the sub-blocks it sets. -/
def Group.weightRuns (g : Group) (e : EngInstr) (t r : Nat) : List (Nat × Nat) :=
  let h := 2 * e.blk
  let n := h * e.pairs
  let f := fbWFmt e.fmt
  let len := lenOf (fbWLen e.fmt)
  let part := fun (u k : Nat) => e.w.span false n h f t (e.tileOf t) n r u k
    :: expRun f (fbWScale e.fmt + e.tileOf t * (n * h / len)) len (r * h + u) k
  if !e.sparse then part 0 h
  else (List.range (h / 8)).flatMap (fun p =>
    let q := r / 8 * (h / 8) + p
    e.w.mapRun q ++ (if g.mapBit e.seed e.stale e.w q then part (8 * p) 8 else []))

/-- What activation (r, c) takes from memory. -/
def Group.actRuns (g : Group) (e : EngInstr) (r c : Nat) : List (Nat × Nat) :=
  let n := 2 * e.blk * e.pairs
  let f := fbXFmt e.fmt
  let part := e.x.span true n e.cols f 0 0 (if e.split then n / 2 else n) r c 1
    :: expRun f (fbXScale e.fmt) (lenOf (fbXLen e.fmt)) (r * e.cols + c) 1
  if !e.sparse then part
  else
    let q := r / 8 * (e.cols / 16) + c / 16
    e.x.mapRun q ++ (if g.mapBit e.seed e.stale e.x q then part else [])

/-! Spoilt outputs -/

/-- The set of the listed numbers, as the bits of a number. -/
def bitSet (l : List Nat) : Nat := l.foldl (fun a i => if a.testBit i then a else a + 2 ^ i) 0

/-- The outputs of stage `t`, by flat index, whose dots read what has been written or an input that is itself spoilt. -/
def Group.spoiltStage (g : Group) (e : EngInstr) (dirt : List (Nat × Nat)) (t inputs : Nat) : Nat :=
  let b := e.blk
  let s := e.strides.getD t 1
  bitSet ((List.range e.pairs).flatMap (fun j =>
    let cols := (List.range e.cols).filter (fun c => (List.range (2 * b)).any (fun u => inputs.testBit (pairRow b s j u * e.cols + c)))
    (List.range (2 * b)).flatMap (fun i =>
      let y := pairRow b s j i
      let hit := keysMeet (g.weightRuns e t (j * (2 * b) + i)) dirt
      (if hit then List.range e.cols else cols).map (fun c => y * e.cols + c))))

/-- A spoilt element of a carry in blocks spoils its block (R60, R201). -/
def EngInstr.spoiltCarry (e : EngInstr) (outs : Nat) : Nat :=
  if carryCode e.fmt = 15 then
    let len := lenOf (fbXLen e.fmt)
    let n := 2 * e.blk * e.pairs * e.cols
    bitSet ((List.range n).filter (fun i => (List.range len).any (fun k => outs.testBit (i / len * len + k))))
  else outs

/-- The spoilt outputs of the last stage, from those of stage `t` on. -/
def Group.spoiltFrom (g : Group) (e : EngInstr) (dirt : List (Nat × Nat)) : Nat → Nat → Nat → Nat
  | 0, _, inputs => inputs
  | n + 1, t, inputs =>
    let outs := g.spoiltStage e dirt t inputs
    Group.spoiltFrom g e dirt n (t + 1) (if n = 0 then outs else e.spoiltCarry outs)

/-- The rows and columns of the outputs of an instruction that writes of its operands leave undefined. -/
def Group.spoiltCells (g : Group) (e : EngInstr) (dirt : List (Nat × Nat)) : List (Nat × Nat) :=
  match e.kind with
  | .bfly | .bchain =>
    let n := 2 * e.blk * e.pairs
    let ins := bitSet ((List.range (n * e.cols)).filter (fun i => keysMeet (g.actRuns e (i / e.cols) (i % e.cols)) dirt))
    let outs := g.spoiltFrom e dirt e.stages 0 ins
    ((List.range (n * e.cols)).filter outs.testBit).map (fun i => (i / e.cols, i % e.cols))
  | .mload f =>
    ((List.range (e.h * e.wd)).map (fun i => (i / e.wd, i % e.wd))).filter (fun q =>
      keysMeet [e.x.span true e.h e.wd f 0 0 e.h q.1 q.2 1] dirt)
  | _ => []

/-- The bytes that a copy to or from scale memory leaves undefined, by key. -/
def EngInstr.spoiltBytes (e : EngInstr) (dirt : List (Nat × Nat)) : List Nat :=
  match e.kind, e.x with
  | .mscale out, .pad base _ _ _ _ =>
    ((List.range e.count).filter (fun i => keysMeet [(if out then scaleKey (e.off + i) else base + i, 1)] dirt)).map
      (fun i => if out then base + i else scaleKey (e.off + i))
  | _, _ => []

/-! What an instruction writes -/

/-- The accumulator tile that an instruction writes: first region, rows, columns, FP64. -/
def EngInstr.tile (e : EngInstr) : Option (Nat × Nat × Nat × Bool) :=
  match e.kind with
  | .bfly | .bchain => some (e.acc, 2 * e.blk * e.pairs, e.cols, fmtWide e.fmt)
  | .mload f => some (e.acc, e.h, e.wd, f = 3)
  | .mzero => some (e.acc, 128, 32 * e.count, false)
  | _ => none

/-- The word lies in a tile. -/
def tileHas (q : Nat × Nat × Nat × Bool) (i : Nat) : Bool :=
  let r := i / 4096 - q.1
  decide (q.1 ≤ i / 4096) && decide (i % 4096 / 32 < q.2.1)
    && decide ((if q.2.2.2 then r * 16 + i % 32 / 2 else r * 32 + i % 32) < q.2.2.1)

/-- The bytes that an instruction writes in scratchpad and scale memory, as runs of keys. -/
def EngInstr.bytesOut (e : EngInstr) : List (Nat × Nat) :=
  match e.kind, e.x with
  | .mscale out, .pad base _ _ _ _ => [(if out then base else scaleKey e.off, e.count)]
  | .mstore f len, .pad base rp _ _ _ =>
    (List.range e.h).map (fun r => (base + r * rp, rowBytes e.wd f))
      ++ (if isBfp f then [(scaleKey e.off, e.h * e.wd / lenOf len)] else [])
  | _, _ => []

/-- The accumulator tile that an instruction writes without reading what stood there (R57, R194). -/
def EngInstr.fresh (e : EngInstr) : Option (Nat × Nat × Nat × Bool) :=
  match e.kind with
  | .bfly | .bchain => if fbMode e.fmt = 0 then e.tile else none
  | _ => e.tile

/-- An instruction that the engine still holds has written over an accumulator word already (R203). -/
def EngInstr.wrote (e : EngInstr) (i : Nat) : Bool :=
  match e.fresh with
  | none => false
  | some q => tileHas q i && (e.finished || (e.kind = .bfly || e.kind = .bchain) && e.t + 1 = e.stages
      && (List.range e.j).any (fun j => (List.range (2 * e.blk)).any (fun k => pairRow e.blk e.stride j k = i % 4096 / 32)))

/-- Gives the outputs that `dirt` spoils a free value, where no later instruction has written over them (R198). -/
def State.freeOutputs (s : State) (c : Nat) (x : StageWindow) (dirt : List (Nat × Nat)) : State :=
  let (d, s) := s.draw1
  let held := (s.core c).mq.filter (fun q => q.group = x.group && decide (x.id < q.id))
  s.modGroup c x.group (fun g =>
    let words := (g.spoiltCells x.instr dirt).flatMap (fun q =>
      match x.instr.tile with
      | some t => (accWords t.1 q.1 q.2 t.2.2.2 0).map (·.1)
      | none => [])
    let g := g.accPut ((words.filter (fun i => !(x.later.any (fun t => tileHas t i)) && !(held.any (fun q => q.wrote i)))).map
      (fun i => (i, free32 d i)))
    (x.instr.spoiltBytes dirt).foldl (fun (g : Group) k =>
      if keysMeet [(k, 1)] x.laterBytes then g
      else if 2 ^ 40 ≤ k then g.scalePut (k - 2 ^ 40) [free8 d k] else g.padSet k [free8 d k]) g)

/-- A byte or row that a matrix instruction reads has been written in its window: noted until it has its outputs, and where it
has them already they are undefined from here on (R198). -/
def State.taint (s : State) (c id key n : Nat) : State :=
  let s := s.modCore c (fun k => { k with windows := k.windows.map (fun (x : StageWindow) =>
    if x.id = id then { x with dirt := x.dirt ++ [(key, n)] } else x) })
  if (s.core c).mq.any (fun e => e.id = id && !e.finished) then s
  else match (s.core c).windows.find? (fun w => w.id = id) with
    | some w => s.freeOutputs c w [(key, n)]
    | none => s

/-- An instruction has completed: what it wrote is no output of earlier ones any more. -/
def Core.writtenOver (k : Core) (e : EngInstr) : Core :=
  { k with windows := k.windows.map (fun (x : StageWindow) =>
      if x.group = e.group && decide (x.id < e.id) then
        { x with later := x.later ++ e.fresh.toList, laterBytes := x.laterBytes ++ e.bytesOut }
      else x) }

/-! Writes that may meet a window -/

/-- The stages of a workgroup in whose window a scratchpad range is read. -/
def Core.windowsOver (k : Core) (g a n : Nat) : List Nat :=
  (k.windows.filter (fun w => w.group = g && w.reads.any (fun r => decide (r.1 < a + n) && decide (a ≤ r.2)))).map (·.id)

/-- The words of a core's pool or scale memory that a write of some bytes replaces whole. -/
def wholeWords (a n : Nat) : List Nat := ((List.range (n / 8 + 2)).map (fun i => a / 8 * 8 + 8 * i)).filter (fun w => decide (a ≤ w) && decide (w + 8 ≤ a + n))

/-- The warp of a slot of a core, as the writes of scratchpad know it (R199). -/
def writerOf (c slot : Nat) : Nat := 1 + 64 * c + slot

/-- The warp of a workgroup of a core that a writer is, as a mask: none where it is of another workgroup, or an engine. -/
def State.writerMask (s : State) (c g writer : Nat) : Mask32 :=
  if writer = 0 || (writer - 1) / 64 ≠ c then 0
  else
    let w := s.warp c ((writer - 1) % 64)
    if w.group = g then BitVec.ofNat 32 (2 ^ w.idx) else 0

/-- A write to scratchpad through its port, by anything but the matrix engine (R198, R269). -/
def State.padWrite (s : State) (c g a : Nat) (bs : List Byte) (writer : Nat) : State :=
  match Tab.find g (s.core c).groups with
  | none => s
  | some x =>
    let s := s.freshWords ((wholeWords a bs.length).map (fun w => .pool c (x.padWord w).1 (x.padWord w).2))
    ((s.core c).windowsOver g a bs.length).foldl (fun s i => s.taint c i a bs.length) (s.modGroup c g (fun x => x.padPut a bs writer (s.writerMask c g writer)))

/-- A write to scratchpad by a warp (R198, R272). -/
def State.warpWrite (s : State) (c g a : Nat) (bs : List Byte) (writer : Nat) : State :=
  (s.keepTables c g a bs.length).padWrite c g a bs writer

/-- A write of scale memory by the copy engine (R198, R215). -/
def State.scaleWrite (s : State) (c g a : Nat) (bs : List Byte) : State :=
  match Tab.find g (s.core c).groups with
  | none => s
  | some x =>
    let s := s.freshWords ((wholeWords a bs.length).map (fun w => .scale c (x.scaleWord w).1 (x.scaleWord w).2))
    ((s.core c).windowsOver g (scaleKey a) bs.length).foldl (fun s i => s.taint c i (scaleKey a) bs.length)
      (s.modGroup c g (fun x => x.scaleLand a bs))

/-- Marks the stages whose operand rows a warp has written since it was last looked at (R198). -/
def State.taintRows (s : State) (c slot : Nat) : State :=
  let w := s.warp c slot
  ((s.core c).windows.flatMap (fun x => (x.rows.filter (fun r => r.1 = slot
      && (w.slice r.2.slice).touched.contains (r.2.hrow, r.2.row))).map (fun r => (x.id, r.2.key)))).foldl
    (fun s q => s.taint c q.1 q.2 16) s

/-- MWAIT of a warp on a token closes the windows of the instructions that counted on it there; of a team's instruction the
first member's MWAIT that comes is the matching one (R200; log entry 112). -/
def State.closeWindows (s : State) (c slot tok : Nat) : State :=
  let over' := ((s.core c).windows.filter (fun x => x.members.any (fun m => m.1 = slot && m.2.2 = tok))).map (·.id)
  s.modCore c (fun k =>
    { k with windows := k.windows.filter (fun x => !over'.contains x.id)
             warps := if over'.isEmpty then k.warps else k.warps.map (fun e => (e.1, { e.2 with slices := e.2.slices.map (fun q =>
               (q.1, { q.2 with hazards := q.2.hazards.filter (fun h => !(h.window && over'.contains h.left)) })) })) })

end Sys2Proof.Machine
end

