-- ==== Sys2Proof/Machine/Issue.lean ====
section
/-! DEFINITION. Issuing one instruction for the gang that stands at it: pending faults (R308), the checks of R86 from
step 4 on, the holds, the checking scoreboard (R73, R74), the instruction's own effect, and what every issue does
beside it (R72, R73, R75, R76, R317). -/

namespace Sys2Proof.Machine

/-- What an instruction's own entry ends in, from the state in which it issues. -/
inductive Eff where
  /-- It takes its effect; `counted` where it has put its own result on its token (R74). -/
  | done (s : State) (counted : Bool)
  /-- A check that its entry lists fails (R86 step 7). -/
  | trap (t : Trap)
  /-- A fault that arises as it executes (R86), or the cause it is there to raise. -/
  | fault (t : Trap)
  /-- It does not issue yet: the warp waits for translations (R306), which its entry leaves as they are. -/
  | walk (w : Walk)
  /-- It does not issue now, for want of room or of its caller's frame. -/
  | hold
  /-- It is stopped by what it would take in, and this state follows (R345). -/
  | wait (s : State)
  deriving DecidableEq, Repr

/-- `cur` names a gang that stands on a resident warp. -/
def State.standing (s : State) (u : Cur) : Bool :=
  (Tab.find u.slot (s.core u.core).warps).isSome && (s.warp u.core u.slot).gangs.contains u.gang

/-- Instructions that a supervisor handler may not run (R230). -/
def handlerForbids (i : Instr) : Bool :=
  [0x42, 0x43, 0x44, 0x45, 0x46, 0x47, 0x48, 0x49, 0x4A, 0x4B].contains (Instr.opcode i)

/-- A format code of the instruction names FP64 (R51, R62, R206). -/
def namesFp64 (i : Instr) : Bool :=
  match i with
  | .cvt _ o => o.type = 3 || o.subop = 3
  | .mload _ o | .mstore _ o => o.subop = 3
  | _ => false

/-- A CALL or CALLI from a frame of `fsz` registers that passes more registers than the frame has (R117), or whose callee could reach
the target pair (R119). -/
def callFar (fsz : Nat) (i : Instr) : Bool :=
  match i with
  | .call _ o => decide (fsz < o.k.toNat)
  | .calli _ o => decide (fsz < o.k.toNat) || decide (fsz ≤ Operand.num o.srcB + 1 + o.k.toNat)
  | _ => false

/-- Steps 4 to 6 of R86, and the handler's forbidden instructions: the first that fails, with its step in tenths. -/
def State.precheckAt (s : State) (u : Cur) (i : Instr) : Option (Nat × Trap) :=
  let w := s.warp u.core u.slot
  let op := Instr.opcode i
  if 0x88 ≤ op && op ≤ 0x8F && !coreWide u.core then some (40, featureFault u.gang)
  else if !fieldsOk i then some (50, illegal u.gang)
  else if namesFp64 i && !coreWide u.core then some (52, featureFault u.gang)
  else if (gangSlices u.gang).any (fun j => decide ((w.slice j).fszNow < Instr.frameTop i) || callFar (w.slice j).fszNow i) then
    some (60, protFault u.gang)
  else if (w.slice (gangLeader u.gang)).handler.isSome && handlerForbids i then some (62, trapH 0x01 4 (gangMask u.gang))
  else none

/-- The cause that those checks find. -/
def State.precheck (s : State) (u : Cur) (i : Instr) : Option Trap := (s.precheckAt u i).map (·.2)

/-- The one cause of a pair, both of whose slots may fail: that of the earlier step of R86, slot j's where both fail at one step
(R70; log entry 108). -/
def firstFault (a b : Option (Nat × Trap)) : Option Trap :=
  match a, b with
  | none, none => none
  | some x, none => some x.2
  | none, some y => some { y.2 with second := true }
  | some x, some y => if y.1 < x.1 then some { y.2 with second := true } else some x.2

/-- The gang issues: its free values are drawn afresh (log entry 3), a drain to level 0 shows its results complete
(R74), and the stall counts passed since are counted off its hazards (R73). The second slot of a pair issues with the
first, which has shown its drains complete (R69). -/
def State.enter (s : State) (u : Cur) (h : Header) : State :=
  let s := { s with draws := s.draws + 1 }
  s.modWarp u.core u.slot (fun w =>
    let w : Warp := { w with seed := s.draws }
    let w := if h.lvl = 0 && u.pos ≠ .second then (setBits 6 h.drain).foldl Warp.clearToken w else w
    w.onGang u.gang (fun _ sl =>
      if u.pos = .second then { sl with owed := max sl.owed (h.stall.toNat + 1) } else sl.age h.stall.toNat))

/-- Puts a variable-latency result on the warp: its work, counted on the instruction's token (R72, R74). -/
def State.addPend (s : State) (u : Cur) (tok : Nat) (op : PendOp) : State :=
  s.modWarp u.core u.slot (fun w =>
    let p : Pend := { id := w.nextId, tok := tok, gang := u.gang, pc := (w.slice (gangLeader u.gang)).pc, born := w.seed, op := op }
    { w with pend := w.pend ++ [p], nextId := w.nextId + 1
             tok := if tok = 0 then w.tok else Tab.set 0 w.tok (tok - 1) (Tab.get 0 w.tok (tok - 1) + 1) })

/-- A variable-latency result of values known at issue: the places wait for them, FSTATUS too where the instruction may
raise a flag (R74, R139). -/
def State.addRegs (s : State) (u : Cur) (tok : Nat) (ws : List (Place × W64)) (flags : W32) (mayFlag : Bool) : State :=
  (s.addPend u tok (.regs ws flags)).modWarp u.core u.slot (fun w =>
    let w := w.notePlaces tok (ws.map (fun p => (p.1, some p.2)))
    if mayFlag then w.onGang u.gang (fun _ sl => sl.noteVar .fs 0 15 tok (some (BitVec.zeroExtend 128 flags)) w.seed) else w)

/-- The slices of a gang go to the next slot (R66). -/
def State.advance (s : State) (u : Cur) : State :=
  s.modWarp u.core u.slot (fun w => w.onGang u.gang (fun _ sl => { sl with pc := nextSlot sl.pc }))

/-- Counts a fixed-latency result, or one that takes no effect, on the instruction's token (R74, R75): the hazards it
made end with a wait on that token. -/
def State.countToken (s : State) (u : Cur) (h : Header) : State :=
  if h.settok = 0 then s
  else
    (s.addPend u h.settok.toNat (.regs [] 0)).modWarp u.core u.slot (fun w => w.onGang u.gang (fun _ sl =>
      { sl with hazards := sl.hazards.map (fun q => if q.born = w.seed && q.fixed then { q with tok := h.settok.toNat } else q) }))

/-- Under STEP, the gang halts again after one instruction or one pair (R317). -/
def State.stepHalt (s : State) (u : Cur) : State :=
  let w := s.warp u.core u.slot
  match w.stepping with
  | none => s
  | some _ =>
    if u.pos = .first then s
    else
      match ((gangSlices u.gang).filter (fun j => (w.slice j).live)).head? with
      | none => s.modWarp u.core u.slot (fun w => { w with stepping := none })
      | some j => s.haltWarp u.core u.slot (w.slice j).gang (trapH 0x0F 1 (gangMask (w.slice j).gang))

/-- Notes a destination of the gang's instruction that no lane of this slice writes: the checking scoreboard counts the
instruction itself (Table 11.8), and a read returns what stands there. -/
def Slice.noteIdle (sl : Slice) (seed : Nat) (lat : Option Nat) (tok : Nat) (k : RegKind) (idx : Nat) : Slice :=
  if (k = .m && idx = 0) || (k = .p && idx = 7) || sl.hazards.any (fun h => h.on k idx && h.born = seed) then sl
  else { sl with hazards :=
      { kind := k, idx := idx, lanes := 0, old := 0, new := none, left := lat.getD 0, tok := if lat.isNone then tok else 0
        varLat := lat.isNone, landed := lat.isNone, window := false, born := seed } :: sl.hazards }

/-- Under the checking scoreboard, every destination counts in every slice of the gang, whatever the guard (R73, R74,
Table 11.8). -/
def State.noteIdle (s pre : State) (u : Cur) (i : Instr) : State :=
  let w0 := pre.warp u.core u.slot
  let lat := opLatency (Instr.opcode i)
  if !(pre.group u.core w0.group).check then s
  else s.modWarp u.core u.slot (fun w => w.onGang u.gang (fun j sl =>
    if !sl.live || (lat.isNone && sliceBits (w0.execLanes u.gang (Instr.header i)) j ≠ 0) then sl
    else (Instr.uses i).2.foldl (fun (sl : Slice) r =>
      let p := w0.slice j
      let k := if r.1 = .row && p.handler.isSome then .hrow else r.1
      sl.noteIdle w.seed lat (Instr.header i).settok.toNat k
        (if k = .row then p.ringRow w0.rowB r.2 else r.2)) sl))

/-- The token of a result that the instruction has not counted itself (R74). -/
def State.retireToken (s : State) (u : Cur) (h : Header) (counted : Bool) : State :=
  if counted then s else s.countToken u h

/-- The stall count (R73; the larger of a pair, R69), the yield hint, which either slot of a pair gives (R76), and the turn within the warp (R13). -/
def State.retireTurn (s pre : State) (u : Cur) (h : Header) : State :=
  s.modWarp u.core u.slot (fun w =>
    ({ w with hint := h.yield || (u.pos = .second && w.hint), last := gangLeader u.gang } : Warp).onGang u.gang (fun _ sl =>
      { sl with stall := if u.pos = .first then sl.stall else pre.cycle + max h.stall.toNat u.floor + 1, logStalled := false }))

/-- Words of rows that the gang's warp has just written in both their lanes hold no error any more (Table 19.1). -/
def State.freshRows (s : State) (c slot : Nat) : State :=
  if s.upsets.isEmpty then s
  else
    let w := s.warp c slot
    let g := s.group c w.group
    let base := s.rowBase c g w.idx
    s.freshWords (w.slices.flatMap (fun e => e.2.touched.flatMap (fun r =>
      let hs := (e.2.hazardsOf (if r.1 then .hrow else .row) r.2).filter (fun h => h.landed || h.born = w.seed)
      let at_ := g.rowWord (base + e.1 * (w.rowB + 16) + (if r.1 then w.rowB else 0) + r.2)
      let whole := fun (i : Nat) => hs.any (fun h => h.lanes.getLsbD (2 * i) && h.lanes.getLsbD (2 * i + 1))
      ((List.range 2).filter whole).map (fun i => (.pool c at_.1 (at_.2 + 8 * i) : UpsetAt)))))

/-- What a warp's row writes bring about beside them: the stages whose operands they were (R198), errors written over, and the
shadow of their blocks (R256). -/
def State.rowsSeen (s : State) (c slot : Nat) : State := ((s.taintRows c slot).freshRows c slot).shadowRows c slot

/-- A MASK packet (R357), and what the rows written bring about. -/
def State.retireSeen (s pre : State) (u : Cur) : State :=
  (s.traceMask pre u.core u.slot u.gang).rowsSeen u.core u.slot

/-- INSTR counts every instruction that issues (R354). -/
def State.countInstr (s : State) (u : Cur) : State := s.count u.core (coreCtr 0x40) 1

/-- What every issue does beside the instruction's own effect, a halt under STEP (R317) included. -/
def State.retire (s pre : State) (u : Cur) (i : Instr) (counted : Bool) : State :=
  (((((s.noteIdle pre u i).retireToken u (Instr.header i) counted).retireTurn pre u (Instr.header i)).countInstr u).retireSeen pre
    u).stepHalt u

/-- The gang does not issue now. -/
def State.heldNow (s : State) (u : Cur) : Bool := (s.gangHold u.core u.slot u.gang).isSome

/-- The checking scoreboard finds an early read (R73, R74). -/
def State.stallchk (s : State) (u : Cur) (i : Instr) : Bool :=
  (s.group u.core (s.warp u.core u.slot).group).check
  && ((s.enter u (Instr.header i)).warp u.core u.slot).earlyRead u.gang i

/-- The register rows that an instruction reads, as words of the pool. -/
def State.rowWords (s : State) (u : Cur) (i : Instr) : List UpsetAt :=
  let w := s.warp u.core u.slot
  (gangSlices u.gang).flatMap (fun j =>
    let sl := w.slice j
    (Instr.reads i).flatMap (fun r =>
      if r.1 = .row then s.sliceWords u.core u.slot j (if sl.handler.isSome then w.rowB + r.2 else sl.ringRow w.rowB r.2)
      else []))

/-- UNCORR of a poisoned word that an instruction would take in (R345): STORE and WHERE of Table 19.2 as sub-kind and code. -/
def uncorrTrap (x : Nat × Nat) : Trap :=
  { cause := 0x12, cls := .uncorr, sub := x.1, mask := 0, addrs := [], code := x.2, resumeNext := false }

/-- An entry that would take in an error as it executes (R345). -/
def State.uncorrEff (s : State) (u : Cur) (x : Nat × Nat) : Eff :=
  .wait ((s.countInstr u).deliver s u.core u.slot u.gang (uncorrTrap x))

/-- The errors of the rows that an instruction reads are met as it issues (R345, R347). -/
def State.meetRows (s : State) (u : Cur) (i : Instr) : State × Option Trap :=
  if s.upsets.isEmpty then (s, none)
  else
    let q := s.meetWords (s.rowWords u i)
    (q.1, q.2.map uncorrTrap)

/-- Everything that comes before an instruction's own entry: `some` of what happens instead of it, if anything does. Slot j+1 of
a pair issues in the turn of slot j, whose probe has made its checks: only an error that stands in its rows is left. STALLCHK
comes after the holds, before the entry's own checks (log entry 109). -/
def State.before (s : State) (u : Cur) (i : Instr) : Option State :=
  if u.pos = .second then none
  else if s.heldNow u then some s
  else match s.deliverPending u.core u.slot u.gang with
    | some s' => some s'
    | none =>
      match s.precheck u i with
      | some t => some (s.deliver s u.core u.slot u.gang t)
      | none =>
        if (s.instrHold u.core u.slot u.gang i).isSome then some (s.askRefill u.core u.slot u.gang i)
        else if s.stallchk u i then
          some (s.deliver s u.core u.slot u.gang (trapH 0x05 0 (gangMask u.gang)))
        else none

/-- Slot j+1 of a pair cannot go on yet, slot j having issued: it goes on later in the pair's turn, and its token counts from now
(R69). -/
def State.holdSecond (s : State) (u : Cur) (i : Instr) (why : Nat) : State :=
  if u.pos = .second then s.addPend u (Instr.header i).settok.toNat (.second i u.floor why) else s

/-- What follows from an instruction's own entry. One that faults as it executes has issued (R354). -/
def State.finish (s : State) (u : Cur) (i : Instr) (e : Eff) : State :=
  match e with
  | .done s' counted => s'.retire s u i counted
  | .trap t => s.deliver s u.core u.slot u.gang t
  | .fault t => (s.countInstr u).deliver s u.core u.slot u.gang t
  | .walk w => (s.modWarp u.core u.slot (fun x => { x with walk := some w })).holdSecond u i 0x22
  | .hold => s
  | .wait s' => s'

/-- The check of a slot before its pair issues (R70): the state with what a check of R86 finds, and no other effect. -/
def State.probed (s : State) (u : Cur) (i : Instr) (eff : State → Cur → Eff) : State :=
  match s.precheckAt u i with
  | some t => { s with probe := some t }
  | none =>
    if s.stallchk u i then { s with probe := some (65, trapH 0x05 0 (gangMask u.gang)) }
    else match eff (s.enter u (Instr.header i)) u with
      | .trap t => { s with probe := some (70, t) }
      | _ => { s with probe := none }

/-- The instruction's own entry runs, unless an error stands in a row that it reads. -/
def State.enact (s : State) (u : Cur) (i : Instr) (eff : State → Cur → Eff) : State :=
  match s.meetRows u i with
  | (s, some t) => (s.countInstr u).deliver s u.core u.slot u.gang t
  | (s, none) => s.finish u i (eff (s.enter u (Instr.header i)) u)

/-- Issues one instruction for the gang that `cur` names; `eff` is the instruction's own entry. -/
def State.issue (s : State) (i : Instr) (eff : State → Cur → Eff) : Host.Outcome State Fault Refusal :=
  match s.cur with
  | none => .fault .noGang
  | some u =>
    if s.standing u then
      if u.pos = .probe then .next (s.probed u i eff)
      else match s.before u i with
      | some s' => .next s'
      | none => .next (s.enact u i eff)
    else .fault .noGang

/-- An entry that only changes registers of its warp, and goes on to the next slot. -/
def regEff (f : Warp → Mask8 → Warp) (s : State) (u : Cur) : Eff :=
  .done ((s.modWarp u.core u.slot (fun w => f w u.gang)).advance u) false

/-- Issues an instruction that only changes registers of its warp. -/
def State.issueReg (s : State) (i : Instr) (f : Warp → Mask8 → Warp) : Host.Outcome State Fault Refusal :=
  s.issue i (regEff f)

end Sys2Proof.Machine
end

