-- ==== Sys2Proof/Machine/FloatOps.lean ====
section
/-! DEFINITION. The floating-point instructions, opcodes 0x60 to 0x72, and the FP64 extension, 0x88 to 0x8F (R136–R149). -/

namespace Sys2Proof.Machine

/-- A float result with its flags, per lane or once for the gang (R136, R139): `f` gives it from the sources in order. -/
def Warp.fp (w : Warp) (g : Mask8) (h : Header) (lat : Nat) (dst : Operand) (wide : Bool) (lane : Nat → W64 × W32)
    (scalar : W64 × W32) : Warp :=
  match dst with
  | .s i => if w.gangActs g h then (w.writeS g lat i scalar.1).raise g lat scalar.2 else w
  | .f i =>
    let m := w.execLanes g h
    (w.writeFw lat wide i m (fun l => (lane l).1)).raiseLanes lat m (fun l => (lane l).2)
  | .p i =>
    let m := w.execLanes g h
    (w.writeP lat i m (fun l => (lane l).1 = 1)).raiseLanes lat m (fun l => (lane l).2)
  | _ => w

/-- An instruction of format A whose sources all have its type. -/
def Warp.fpA (w : Warp) (g : Mask8) (h : Header) (lat : Nat) (o : FmtA) (f : W64 → W64 → W64 → W64 × W32) : Warp :=
  w.fp g h lat o.dst (tyPair o.type)
    (fun l => f (w.src1 g o.xmod o.type o.srcA l) (w.src g o.type o.srcB l) (w.src g o.type o.srcC l))
    (f (w.srcS g o.type o.srcA) (w.srcS g o.type o.srcB) (w.srcS g o.type o.srcC))

/-- FADDI and FMULI: the immediate holds one FP32 value or a packed pair (R141). -/
def Warp.fpB (w : Warp) (g : Mask8) (h : Header) (o : FmtB) (f : W64 → W64 → W64 × W32) : Warp :=
  w.fp g h 5 o.dst false (fun l => f (w.src g o.type o.srcA l) (BitVec.zeroExtend 64 o.imm))
    (f (w.srcS g o.type o.srcA) (BitVec.zeroExtend 64 o.imm))

/-! The operations on encodings, element by element -/

def fAdd (t : BitVec 4) (rm : Nat) (a b : W64) : W64 × W32 :=
  perElement t (fun F x y _ => F.dot rm [] [F.decode x, F.decode y]) a b 0
def fSub (t : BitVec 4) (rm : Nat) (a b : W64) : W64 × W32 :=
  perElement t (fun F x y _ => F.dot rm [] [F.decode x, (F.decode y).negate]) a b 0
def fMul (t : BitVec 4) (rm : Nat) (a b : W64) : W64 × W32 :=
  perElement t (fun F x y _ => F.dot rm [(F.decode x, F.decode y)] []) a b 0
def fFma (t : BitVec 4) (rm : Nat) (a b c : W64) : W64 × W32 :=
  perElement t (fun F x y z => F.dot rm [(F.decode x, F.decode y)] [F.decode z]) a b c
def fMinMax (t : BitVec 4) (isMax : Bool) (a b : W64) : W64 × W32 := perElement t (fun F x y _ => F.minMax isMax x y) a b 0
def fSqrt (t : BitVec 4) (rm : Nat) (a : W64) : W64 × W32 := perElement t (fun F x _ _ => F.sqrt rm (F.decode x)) a 0 0

/-- A result of FP32 alone. -/
def fOne (r : FOut) : W64 × W32 := (BitVec.ofNat 64 r.bits, r.flags)

/-- FDOT2 (R142): packed pairs of the type, an FP32 addend and an FP32 result. -/
def fDot2 (t : BitVec 4) (rm : Nat) (a b c : W64) : W64 × W32 :=
  let F := fmtOfType t
  let half := fun (x : W64) i => F.decode (halfOf x.toNat i)
  fOne (fp32.dot rm [(half a 0, half b 0), (half a 1, half b 1)] [fp32.decode (c.toNat % 2 ^ 32)])

/-- FSETP and DSETP (R145): the outcome as 0 or 1, ANDed with a predicate in the `.and` form. -/
def fSetp (t : BitVec 4) (sub : Nat) (a b c : W64) : W64 × W32 :=
  let F := fmtOfType t
  let r := fcond (sub % 8) (F.decode (a.toNat % 2 ^ F.width)) (F.decode (b.toNat % 2 ^ F.width))
  (if r.1 && (sub < 8 || c = 1) then 1 else 0, if r.2 then flNV else 0)

/-! FP32, BF16 and FP16 (Table 6.2) -/

def execFadd (h : Header) (o : FmtA) (s : State) : Host.Outcome State Fault Refusal :=
  s.issueReg (.fadd h o) (fun w g => w.fpA g h 5 o (fun a b _ => fAdd o.type o.rm.toNat a b))

def execFsub (h : Header) (o : FmtA) (s : State) : Host.Outcome State Fault Refusal :=
  s.issueReg (.fsub h o) (fun w g => w.fpA g h 5 o (fun a b _ => fSub o.type o.rm.toNat a b))

def execFmul (h : Header) (o : FmtA) (s : State) : Host.Outcome State Fault Refusal :=
  s.issueReg (.fmul h o) (fun w g => w.fpA g h 5 o (fun a b _ => fMul o.type o.rm.toNat a b))

def execFfma (h : Header) (o : FmtA) (s : State) : Host.Outcome State Fault Refusal :=
  s.issueReg (.ffma h o) (fun w g => w.fpA g h 5 o (fun a b c => fFma o.type o.rm.toNat a b c))

def execFmin (h : Header) (o : FmtA) (s : State) : Host.Outcome State Fault Refusal :=
  s.issueReg (.fmin h o) (fun w g => w.fpA g h 5 o (fun a b _ => fMinMax o.type false a b))

def execFmax (h : Header) (o : FmtA) (s : State) : Host.Outcome State Fault Refusal :=
  s.issueReg (.fmax h o) (fun w g => w.fpA g h 5 o (fun a b _ => fMinMax o.type true a b))

def execFabs (h : Header) (o : FmtA) (s : State) : Host.Outcome State Fault Refusal :=
  s.issueReg (.fabs h o) (fun w g =>
    w.fpA g h 5 o (fun a _ _ => perElement o.type (fun F x _ _ => F.signOp (fun _ => false) x) a 0 0))

def execFneg (h : Header) (o : FmtA) (s : State) : Host.Outcome State Fault Refusal :=
  s.issueReg (.fneg h o) (fun w g =>
    w.fpA g h 5 o (fun a _ _ => perElement o.type (fun F x _ _ => F.signOp (fun n => !n) x) a 0 0))

def execFsetp (h : Header) (o : FmtA) (s : State) : Host.Outcome State Fault Refusal :=
  s.issueReg (.fsetp h o) (fun w g => w.fpA g h 5 o (fun a b c => fSetp o.type o.subop.toNat a b c))

/-- FCLASS (R146); it raises no flag. A mask that is an inline constant is read in the integer column of Table 3.13, the model's choice
(log entry 127). -/
def execFclass (h : Header) (o : FmtA) (s : State) : Host.Outcome State Fault Refusal :=
  s.issueReg (.fclass h o) (fun w g =>
    let cls := fun l => fp32.classMask ((w.src1 g o.xmod 4 o.srcA l).toNat % 2 ^ 32)
    let m := w.execLanes g h
    match o.dst with
    | .p i => w.writeP 5 i m (fun l => cls l &&& ((w.srcS g 0 o.srcB).toNat % 1024) ≠ 0)
    | .f i => w.writeF 5 i m (fun l => BitVec.ofNat 32 (cls l))
    | _ => w)

def execFrcp (h : Header) (o : FmtA) (s : State) : Host.Outcome State Fault Refusal :=
  s.issueReg (.frcp h o) (fun w g =>
    w.fpA g h 5 o (fun a _ _ => perElement o.type (fun F x _ _ => F.recip o.rm.toNat (F.decode x)) a 0 0))

def execFsqrt (h : Header) (o : FmtA) (s : State) : Host.Outcome State Fault Refusal :=
  s.issueReg (.fsqrt h o) (fun w g => w.fpA g h 5 o (fun a _ _ => fSqrt o.type o.rm.toNat a))

def execFrsq (h : Header) (o : FmtA) (s : State) : Host.Outcome State Fault Refusal :=
  s.issueReg (.frsq h o) (fun w g => w.fpA g h 5 o (fun a _ _ => fOne (frsqOut (BitVec.truncate 32 a))))

def execFexp2 (h : Header) (o : FmtA) (s : State) : Host.Outcome State Fault Refusal :=
  s.issueReg (.fexp2 h o) (fun w g => w.fpA g h 5 o (fun a _ _ => fOne (fexp2Out (BitVec.truncate 32 a))))

def execFlog2 (h : Header) (o : FmtA) (s : State) : Host.Outcome State Fault Refusal :=
  s.issueReg (.flog2 h o) (fun w g => w.fpA g h 5 o (fun a _ _ => fOne (flog2Out (BitVec.truncate 32 a))))

def execFaddi (h : Header) (o : FmtB) (s : State) : Host.Outcome State Fault Refusal :=
  s.issueReg (.faddi h o) (fun w g => w.fpB g h o (fun a b => fAdd o.type o.rm.toNat a b))

def execFmuli (h : Header) (o : FmtB) (s : State) : Host.Outcome State Fault Refusal :=
  s.issueReg (.fmuli h o) (fun w g => w.fpB g h o (fun a b => fMul o.type o.rm.toNat a b))

def execFdot2 (h : Header) (o : FmtA) (s : State) : Host.Outcome State Fault Refusal :=
  s.issueReg (.fdot2 h o) (fun w g =>
    w.fp g h 5 o.dst false
      (fun l => fDot2 o.type o.rm.toNat (w.src1 g o.xmod o.type o.srcA l) (w.src g o.type o.srcB l) (w.src g 4 o.srcC l))
      (fDot2 o.type o.rm.toNat (w.srcS g o.type o.srcA) (w.srcS g o.type o.srcB) (w.srcS g 4 o.srcC)))

def execFrnd (h : Header) (o : FmtA) (s : State) : Host.Outcome State Fault Refusal :=
  s.issueReg (.frnd h o) (fun w g =>
    w.fpA g h 5 o (fun a _ _ => perElement o.type (fun F x _ _ => F.frnd o.rm.toNat x) a 0 0))

/-! The FP64 extension (Table 6.6); a standard die raises FEATURE before these meanings (R84) -/

def execDadd (h : Header) (o : FmtA) (s : State) : Host.Outcome State Fault Refusal :=
  s.issueReg (.dadd h o) (fun w g => w.fpA g h 8 o (fun a b _ => fAdd 7 o.rm.toNat a b))

def execDsub (h : Header) (o : FmtA) (s : State) : Host.Outcome State Fault Refusal :=
  s.issueReg (.dsub h o) (fun w g => w.fpA g h 8 o (fun a b _ => fSub 7 o.rm.toNat a b))

def execDmul (h : Header) (o : FmtA) (s : State) : Host.Outcome State Fault Refusal :=
  s.issueReg (.dmul h o) (fun w g => w.fpA g h 8 o (fun a b _ => fMul 7 o.rm.toNat a b))

def execDfma (h : Header) (o : FmtA) (s : State) : Host.Outcome State Fault Refusal :=
  s.issueReg (.dfma h o) (fun w g => w.fpA g h 8 o (fun a b c => fFma 7 o.rm.toNat a b c))

def execDmin (h : Header) (o : FmtA) (s : State) : Host.Outcome State Fault Refusal :=
  s.issueReg (.dmin h o) (fun w g => w.fpA g h 8 o (fun a b _ => fMinMax 7 false a b))

def execDmax (h : Header) (o : FmtA) (s : State) : Host.Outcome State Fault Refusal :=
  s.issueReg (.dmax h o) (fun w g => w.fpA g h 8 o (fun a b _ => fMinMax 7 true a b))

def execDsetp (h : Header) (o : FmtA) (s : State) : Host.Outcome State Fault Refusal :=
  s.issueReg (.dsetp h o) (fun w g => w.fpA g h 8 o (fun a b c => fSetp 7 o.subop.toNat a b c))

def execDsqrt (h : Header) (o : FmtA) (s : State) : Host.Outcome State Fault Refusal :=
  s.issueReg (.dsqrt h o) (fun w g => w.fpA g h 8 o (fun a _ _ => fSqrt 7 o.rm.toNat a))

end Sys2Proof.Machine
end

