-- ==== Sys2Proof/Machine/Memory.lean ====
section
/-! DEFINITION. The memory instructions, opcodes 0xB0 to 0xBA (R156–R180): what each does at issue, and what its work does
as it performs. -/

namespace Sys2Proof.Machine

/-! Values and destinations (R157, R158) -/

/-- The value a load of `n` bytes delivers, extended to 64 bits where it is shorter than 8 bytes. -/
def extValue (n : Nat) (signed : Bool) (bs : List Byte) : Nat :=
  let v := ofBytes bs
  if signed && decide (n ≤ 4) && decide (2 ^ (8 * n - 1) ≤ v) then v + (2 ^ 64 - 2 ^ (8 * n)) else v

/-- A value spread over its destination: 32 bits to each frame register in turn, 64 bits to every copy of a scalar. -/
def placeValues (ps : List Place) (v : Nat) : List (Place × W64) :=
  ps.zipIdx.map (fun e => (e.1, match e.1 with
    | .sreg _ _ => BitVec.ofNat 64 v
    | _ => BitVec.ofNat 64 (v / 2 ^ (32 * e.2) % 2 ^ 32)))

/-- The places of a destination operand of `n` bytes in a lane. -/
def Warp.dstPlaces (w : Warp) (g : Mask8) (o : Operand) (n l : Nat) : List Place :=
  match o with
  | .s i => placesS g i
  | .f i => (List.range ((n + 3) / 4)).map (fun k => w.placeF l (i + k))
  | _ => []

/-! Issue -/

/-- Puts a memory instruction's work on the warp, marks its destinations and goes on to the next slot. -/
def State.post (s : State) (u : Cur) (tok : Nat) (op : PendOp) (ps : List Place) : Eff :=
  .done (((s.addPend u tok op).modWarp u.core u.slot (fun w => w.notePlaces tok (ps.map (fun p => (p, none))))).advance u) true

/-- What the address checks lead to; `k` takes the accesses. -/
def AccCheck.toEff {α : Type} (a : AccCheck α) (k : List α → Eff) : Eff :=
  match a with
  | .bad t => .trap t
  | .fault t => .fault t
  | .walk w => .walk w
  | .ok as => k as

/-- The workgroup has done what R305 lists; the same closes its rollback interval (R344). -/
def State.commit (s : State) (u : Cur) : State :=
  (s.modGroup u.core (s.warp u.core u.slot).group (fun x => { x with committed := true })).closeInterval u.core
    (s.warp u.core u.slot).group

/-- A cluster-scratchpad access closes the rollback intervals of the workgroup that issues it and of the ones it reaches
(R344). -/
def State.clusterUse (s : State) (u : Cur) (cl : Bool) (as : List PadAcc) : State :=
  if !cl || as.isEmpty then s
  else as.foldl (fun s a => s.closeInterval a.core a.group) (s.closeInterval u.core (s.warp u.core u.slot).group)

/-- LD and LD.h (R163, R164). -/
def loadEff (home : Bool) (h : Header) (o : FmtD) (s : State) (u : Cur) : Eff :=
  let w := s.warp u.core u.slot
  let n := sizeBytes o.size
  (s.recAccs u.core u.slot u.gang (w.accLanes u.gang h (Operand.isS o.dst)) o.buf o.index o.offset.toInt n
    { read := true, write := false, watch := 0 } 0).toEff (fun as =>
      let as := as.map (fun (a : LaneAcc) => { a with dst := w.dstPlaces u.gang o.dst n a.lane })
      s.post u h.settok.toNat (.load n (o.subop = 1) home as) (as.flatMap (·.dst)))

def execLd (h : Header) (o : FmtD) (s : State) : Host.Outcome State Fault Refusal := s.issue (.ld h o) (loadEff false h o)
def execLdH (h : Header) (o : FmtD) (s : State) : Host.Outcome State Fault Refusal := s.issue (.ldH h o) (loadEff true h o)

def execSt (h : Header) (o : FmtD) (s : State) : Host.Outcome State Fault Refusal :=
  s.issue (.st h o) (fun s u =>
    let w := s.warp u.core u.slot
    let n := sizeBytes o.size
    (s.storeAccs u.core u.slot u.gang h o).toEff (fun as =>
      s.post u h.settok.toNat (.store n (as.map (fun (a : LaneAcc) => { a with bytes := w.dataBytes u.gang n o.data a.lane })))
        []))

/-- The outcome of scratchpad checks. -/
def padEff {α : Type} (a : Except Trap (List α)) (k : List α → Eff) : Eff :=
  match a with
  | .error t => .trap t
  | .ok as => k as

def execLds (h : Header) (o : FmtD) (s : State) : Host.Outcome State Fault Refusal :=
  s.issue (.lds h o) (fun s u =>
    let w := s.warp u.core u.slot
    let n := sizeBytes o.size
    padEff (s.padAccs u.core u.slot u.gang (w.accLanes u.gang h (Operand.isS o.dst)) o.buf o.offset.toInt n
      (decide (2 ≤ o.subop.toNat)) 0) (fun as =>
        let as := as.map (fun (a : PadAcc) => { a with dst := w.dstPlaces u.gang o.dst n a.lane })
        (s.clusterUse u (decide (2 ≤ o.subop.toNat)) as).post u h.settok.toNat (.padLoad n (o.subop.getLsbD 0) as)
          (as.flatMap (·.dst))))

def execSts (h : Header) (o : FmtD) (s : State) : Host.Outcome State Fault Refusal :=
  s.issue (.sts h o) (fun s u =>
    let w := s.warp u.core u.slot
    let n := sizeBytes o.size
    let scalar := Operand.sc o.buf && Operand.sc o.data
    padEff (s.padAccs u.core u.slot u.gang (w.accLanes u.gang h scalar) o.buf o.offset.toInt n
      (decide (2 ≤ o.subop.toNat)) 0) (fun as =>
        (s.clusterUse u (decide (2 ≤ o.subop.toNat)) as).post u h.settok.toNat (.padStore n
          (as.map (fun (a : PadAcc) => { a with bytes := w.dataBytes u.gang n o.data a.lane }))) []))

/-- LDL (R168). A lane dropped on the global side still has its scratchpad address checked, where its zeros go, the model's choice (log
entry 129). -/
def execLdl (h : Header) (o : FmtD) (s : State) : Host.Outcome State Fault Refusal :=
  s.issue (.ldl h o) (fun s u =>
    let w := s.warp u.core u.slot
    let n := sizeBytes o.size
    let ls := w.accLanes u.gang h (storeScalar o)
    (s.recAccs u.core u.slot u.gang ls o.buf o.index o.offset.toInt n
      { read := true, write := false, watch := 0 } 2).toEff (fun as =>
        padEff (s.padAccs u.core u.slot u.gang ls o.data 0 n (decide (2 ≤ o.subop.toNat)) 2) (fun ps =>
          (s.clusterUse u (decide (2 ≤ o.subop.toNat)) ps).post u h.settok.toNat (.ldl n (as.zip ps)) [])))

/-! Log sets (R175, Table 7.4) -/

/-- The logs a set names, and whether the acquire degrades (R176): `none` where the explicit pair is malformed. -/
def logSet (core pkg scope lset : Nat) (lo hi : W64) : Option (List Nat × Bool) :=
  if lset = 0 then
    some (if scope ≤ 1 then ([], false)
      else if scope = 2 then ((List.range 4).map (fun i => core / 4 * 4 + i), false)
      else (List.range 512, true))
  else if lset = 1 then some ((List.range 64).map (fun i => core / 64 * 64 + i), true)
  else
    let own := hi.getLsbD 9
    let q := BitVec.field hi 8 3
    if BitVec.field hi 63 10 ≠ 0 || (own && q ≠ 0) then none
    else if !own && q ≠ pkg then some ([], lo ≠ 0)
    else
      let logs := (setBits 64 lo).map (fun i => BitVec.field hi 2 0 * 64 + i)
      some (logs, decide (16 < logs.length))

/-- The package's number in the domain (R379). -/
def State.package (s : State) : Nat := BitVec.field s.domainWord 5 0

/-- The log set of an instruction, its scalar pair read under R12 as it executes. -/
def State.logsOf (s : State) (u : Cur) (scope : Nat) (off : BitVec 16) : Option (List Nat × Bool) :=
  let w := s.warp u.core u.slot
  let l := lsetOf off
  logSet u.core s.package scope l (w.readS u.gang (l - 0x40)) (w.readS u.gang (l - 0x3F))

/-! Atomics at issue (R170–R174) -/

/-- The operand v of an atomic, and its comparand. -/
def Warp.atomArgs (w : Warp) (g : Mask8) (o : FmtD) (n l : Nat) : W64 × W64 :=
  (BitVec.ofNat 64 (ofBytes (w.dataBytes g n o.data l)), BitVec.ofNat 64 (ofBytes (w.dataBytes g n o.dst l)))

/-- The destination of an atomic: `.st` has none. -/
def Warp.atomDst (w : Warp) (g : Mask8) (o : FmtD) (n l : Nat) : List Place :=
  if o.subop = 1 then [] else w.dstPlaces g o.dst n l

def execAtom (h : Header) (o : FmtD) (s : State) : Host.Outcome State Fault Refusal :=
  s.issue (.atom h o) (fun s u =>
    let w := s.warp u.core u.slot
    let n := sizeBytes o.size
    match s.logsOf u o.scope.toNat o.offset with
    | none => .trap (illegal u.gang)
    | some (logs, degrade) =>
      (s.recAccs u.core u.slot u.gang (w.accLanes u.gang h (Operand.isS o.dst)) o.buf o.index
        (BitVec.truncate 8 o.offset).toInt n { read := true, write := o.subop ≠ 0, watch := 2 } 1).toEff (fun as =>
          let as := as.map (fun (a : LaneAcc) =>
            let v := w.atomArgs u.gang o n a.lane
            { a with data := v.1, cmp := v.2, dst := w.atomDst u.gang o n a.lane })
          let s := if as.isEmpty then s else s.commit u
          s.post u h.settok.toNat (.atom o.subop.toNat n o.order.toNat o.scope.toNat .start false logs degrade as [] s.tick)
            (as.flatMap (·.dst))))

def execAtoms (h : Header) (o : FmtD) (s : State) : Host.Outcome State Fault Refusal :=
  s.issue (.atoms h o) (fun s u =>
    let w := s.warp u.core u.slot
    let n := sizeBytes o.size
    padEff (s.padAccs u.core u.slot u.gang (w.accLanes u.gang h (Operand.isS o.dst)) o.buf o.offset.toInt n o.hbit 1)
      (fun as =>
        let as := as.map (fun (a : PadAcc) =>
          let v := w.atomArgs u.gang o n a.lane
          { a with data := v.1, cmp := v.2, dst := w.atomDst u.gang o n a.lane })
        (s.clusterUse u o.hbit as).post u h.settok.toNat (.padAtom o.subop.toNat n as) (as.flatMap (·.dst))))

/-! Ordering instructions at issue (R176–R179) -/

/-- An ordering instruction takes its warp effect, or does nothing beyond its checks (R75). -/
def orderEff (h : Header) (wide : Bool) (op : PendOp) (s : State) (u : Cur) : Eff :=
  if (s.warp u.core u.slot).gangActs u.gang h then (if wide then s.commit u else s).post u h.settok.toNat op []
  else .done (s.advance u) false

def execAcq (h : Header) (o : FmtD) (s : State) : Host.Outcome State Fault Refusal :=
  s.issue (.acq h o) (fun s u =>
    match s.logsOf u o.scope.toNat o.offset with
    | none => .trap (illegal u.gang)
    | some (logs, degrade) => orderEff h false (.acq o.scope.toNat logs degrade) s u)

def execRel (h : Header) (o : FmtD) (s : State) : Host.Outcome State Fault Refusal :=
  s.issue (.rel h o) (orderEff h (decide (2 ≤ o.scope.toNat)) (.rel o.scope.toNat .start))

def execFence (h : Header) (o : FmtD) (s : State) : Host.Outcome State Fault Refusal :=
  s.issue (.fence h o) (fun s u =>
    match s.logsOf u o.scope.toNat o.offset with
    | none => .trap (illegal u.gang)
    | some (logs, degrade) =>
      orderEff h (decide (2 ≤ o.scope.toNat)) (.fence o.scope.toNat logs degrade .start) s u)

def execSeal (h : Header) (o : FmtD) (s : State) : Host.Outcome State Fault Refusal :=
  s.issue (.seal h o) (fun s u =>
    if (s.warp u.core u.slot).gangActs u.gang h then
      let seq := (s.core u.core).openSeq
      let s' := s.sealSeg u.core false
      s'.post u h.settok.toNat (.sealUpTo (if (s'.core u.core).openSeq = seq then none else some seq)) []
    else .done (s.advance u) false)

/-! Order among the instructions in flight (R166) -/

/-- The global bytes that an instruction in flight touches: address and length. -/
def PendOp.globals : PendOp → List (Nat × Nat)
  | .load n _ _ ls => (ls.filter (fun a => !a.dropped)).map (fun a => (a.pa, n))
  | .store n ls => (ls.filter (fun a => !a.dropped)).map (fun a => (a.pa, n))
  | .ldl n ls => (ls.filter (fun a => !a.1.dropped)).map (fun a => (a.1.pa, n))
  | .atom _ n _ _ _ _ _ _ ls _ _ => (ls.filter (fun a => !a.dropped)).map (fun a => (a.pa, n))
  | _ => []

/-- Two instructions touch common bytes. -/
def PendOp.meets (a b : PendOp) : Bool :=
  a.globals.any (fun x => b.globals.any (fun y => decide (x.1 < y.1 + y.2) && decide (y.1 < x.1 + x.2)))
  || a.pads.any (fun x => b.pads.any (fun y => x.1 = y.1 && x.2.1 = y.2.1
      && decide (x.2.2.1 < y.2.2.1 + y.2.2.2) && decide (y.2.2.1 < x.2.2.1 + x.2.2.2)))

/-- No earlier instruction of the warp in flight touches a byte that this one touches (R166). -/
def Warp.inOrder (w : Warp) (p : Pend) : Bool := w.pend.all (fun q => decide (p.id ≤ q.id) || !(q.op.meets p.op))

/-- Every earlier instruction of a kind has performed. -/
def Warp.after (w : Warp) (id : Nat) (kind : PendOp → Bool) : Bool := w.pend.all (fun q => decide (id ≤ q.id) || !(kind q.op))

/-- Lines that an instruction in flight touches. -/
def PendOp.lines (op : PendOp) : List Nat := (op.globals.map (fun x => x.1 / 64)).dedup

/-! Completion -/

/-- The instruction leaves flight and its token is counted down (R74). -/
def State.finishPend (s : State) (c slot : Nat) (p : Pend) : State :=
  (s.modWarp c slot (fun w => { w with pend := w.pend.filter (fun q => q.id ≠ p.id) })).decTok c slot p.tok

/-- Writes results with the flags they raise, and notes them written (R74, R139), with what their rows bring about. -/
def State.land (s : State) (c slot : Nat) (p : Pend) (vs : List (Place × W64)) (flags : W32) : State :=
  (s.modWarp c slot (fun w =>
    let w := (vs.foldl (fun (w : Warp) e => w.writePlace e.1 e.2) w).landPlaces p.born (vs.map (·.1))
    w.onGang p.gang (fun _ sl => (sl.orFlags flags).noteLanded .fs 0 p.born))).rowsSeen c slot

/-- The values of an instruction that has performed have come back: they are written later, and until then an early read may find
them or what stood there (R74). -/
def State.returned (s : State) (c slot : Nat) (p : Pend) (vs : List (Place × W64)) (acq : Bool) : State :=
  s.modWarp c slot (fun w =>
    ({ w with pend := w.pend.map (fun q => if q.id = p.id then { q with op := .loaded vs acq } else q) } : Warp).fillPlaces p.born vs)

/-- A result is written and its token counted down. -/
def State.complete (s : State) (c slot : Nat) (p : Pend) (vs : List (Place × W64)) (flags : W32) : State :=
  (s.land c slot p vs flags).finishPend c slot p

/-- The instruction would consume an uncorrectable error: it takes no effect (R345). STORE and WHERE are those of Table 19.2. -/
def State.consumeAt (s : State) (c slot : Nat) (p : Pend) (x : Nat × Nat) : State :=
  (s.finishPend c slot p).consumeLine c (s.warp c slot).group x.1 x.2

/-- Loads lanes one after another: the state, the bytes of each lane, and STORE and WHERE of the first error met, the loss of a
package included (R380). -/
def State.loadLanes (s : State) (c n : Nat) (home : Bool) : List LaneAcc → State × List (List Byte) × Option (Nat × Nat)
  | [] => (s, [], none)
  | a :: r =>
    if a.dropped then
      let q := State.loadLanes s c n home r
      (q.1, List.replicate n 0 :: q.2.1, q.2.2)
    else
      let x := s.loadBytes c a.pa n home
      let q := State.loadLanes x.1 c n home r
      let err := if s.lostAt a.pa && !s.ownBytes c a.pa n then some 5 else x.2.2
      (q.1, x.2.1 :: q.2.1, match err with | some store => some (store, a.pa / 64) | none => q.2.2)

/-- LD, LD.h. -/
def State.doLoad (s : State) (c slot : Nat) (p : Pend) (n : Nat) (signed home : Bool) (ls : List LaneAcc) : State :=
  if !(s.warp c slot).inOrder p then s
  else
    let q := s.loadLanes c n home ls
    match q.2.2 with
    | some x => q.1.consumeAt c slot p x
    | none => q.1.returned c slot p ((ls.zip q.2.1).flatMap (fun e => placeValues e.1.dst (extValue n signed e.2))) false

/-- A release that seals and has not done so yet (R177). -/
def PendOp.isUnsealed : PendOp → Bool
  | .rel scope .start => decide (2 ≤ scope)
  | _ => false

/-- ST: every lane's bytes enter the overlay together, once the lines they need are free (R165, R180), in the segment after that
of an earlier release (R177, R244). Each lane's access is made whole, though R37 promises that of 8 bytes only (log entry
105). -/
def State.doStore (s : State) (c slot : Nat) (p : Pend) (ls : List LaneAcc) : State :=
  let w := s.warp c slot
  let lines := accLines ls
  if !w.inOrder p || !(w.after p.id PendOp.isUnsealed) || (s.core c).logFull w.group lines then s
  else
    let s := if (s.core c).sealsFirst w.group lines then s.sealSeg c false else s
    if (s.core c).logFull w.group lines then s
    else
    let s' := (ls.filter (fun a => !a.dropped)).foldl (fun s a =>
      (s.storeBytes c w.group a.pa a.bytes).spoilSpilled a.pa a.bytes.length) s
    s'.finishPend c slot p

/-- A scratchpad access's bytes as they stand. -/
def State.padBytes (s : State) (a : PadAcc) (n : Nat) : List Byte := (s.group a.core a.group).padRead a.addr n

/-- The words of the pool in which a scratchpad access lies. -/
def State.padWords (s : State) (n : Nat) (a : PadAcc) : List UpsetAt :=
  (List.range ((a.addr + n + 7) / 8 - a.addr / 8)).map (fun i =>
    let at_ := (s.group a.core a.group).padWord (a.addr / 8 * 8 + 8 * i)
    .pool a.core at_.1 at_.2)

/-- An access that reads scratchpad meets the errors of its words (R345, R347). -/
def State.meetPads (s : State) (n : Nat) (ls : List PadAcc) : State × Option (Nat × Nat) :=
  if s.upsets.isEmpty then (s, none) else s.meetWords (ls.flatMap (s.padWords n))

/-- An access that reaches the scratchpad of another workgroup closes the interval of that one (R344). -/
def State.reach (s : State) (c slot : Nat) (ls : List PadAcc) : State :=
  (ls.filter (fun a => (a.core, a.group) ≠ (c, (s.warp c slot).group))).foldl (fun s a => s.closeInterval a.core a.group) s

def State.doPadLoad (s : State) (c slot : Nat) (p : Pend) (n : Nat) (signed : Bool) (ls : List PadAcc) : State :=
  if !(s.warp c slot).inOrder p then s
  else
    match (s.reach c slot ls).meetPads n ls with
    | (s, some x) => s.consumeAt c slot p x
    | (s, none) =>
      (s.servePads c (ls.map (·.core))).returned c slot p
        (ls.flatMap (fun a => placeValues a.dst (extValue n signed (s.padBytes a n)))) false

def State.doPadStore (s : State) (c slot : Nat) (p : Pend) (ls : List PadAcc) : State :=
  if !(s.warp c slot).inOrder p then s
  else (ls.foldl (fun s a => s.warpWrite a.core a.group a.addr a.bytes (writerOf c slot))
    ((s.reach c slot ls).servePads c (ls.map (·.core)))).finishPend c slot p

/-- LDL: zeros for a dropped lane (R161, R168). -/
def State.doLdl (s : State) (c slot : Nat) (p : Pend) (n : Nat) (ls : List (LaneAcc × PadAcc)) : State :=
  if !(s.warp c slot).inOrder p then s
  else
    let q := s.loadLanes c n false (ls.map (·.1))
    match q.2.2 with
    | some x => q.1.consumeAt c slot p x
    | none =>
      ((ls.zip q.2.1).foldl (fun s e => s.warpWrite e.1.2.core e.1.2.group e.1.2.addr e.2 (writerOf c slot))
        ((q.1.reach c slot (ls.map (·.2))).servePads c (ls.map (·.2.core)))).finishPend c slot p

/-! Atomic operations (Table 7.3) -/

/-- A value of `n` bytes as a signed number. -/
def signedOf (n : Nat) (x : W64) : Int :=
  let v := x.toNat % 2 ^ (8 * n)
  if 2 ^ (8 * n - 1) ≤ v then (v : Int) - ((2 ^ (8 * n) : Nat) : Int) else (v : Int)

/-- The new value of a location of `n` bytes. -/
def atomNew (op n : Nat) (old v cmp : W64) : W64 :=
  let lim := 2 ^ (8 * n)
  let w := fun (x : W64) => BitVec.ofNat 64 (x.toNat % lim)
  match op with
  | 0 => old
  | 1 | 2 => w v
  | 3 => if w old = w cmp then w v else old
  | 4 => w (old + v)
  | 5 => w (old &&& v)
  | 6 => w (old ||| v)
  | 7 => w (old ^^^ v)
  | 8 => if signedOf n old ≤ signedOf n v then old else w v
  | 9 => if signedOf n v ≤ signedOf n old then old else w v
  | 10 => if (w old).toNat ≤ (w v).toNat then old else w v
  | 11 => if (w v).toNat ≤ (w old).toNat then old else w v
  | 12 => (fAdd 4 0 old v).1
  | 13 => (fMinMax 4 false old v).1
  | 14 => (fMinMax 4 true old v).1
  | _ => if (w v).toNat ≤ (w old).toNat then 0 else w (old + 1)

/-- ATOMS: lane after lane, each seeing the result before it (R170, R174). -/
def State.padAtomLanes (s : State) (writer op n : Nat) : List PadAcc → State × List (Place × W64)
  | [] => (s, [])
  | a :: r =>
    let old := BitVec.ofNat 64 (ofBytes (s.padBytes a n))
    let new := atomNew op n old a.data a.cmp
    let s' := if op = 0 then s else s.warpWrite a.core a.group a.addr (toBytes n new.toNat) writer
    let q := State.padAtomLanes s' writer op n r
    (q.1, placeValues a.dst old.toNat ++ q.2)

def State.doPadAtom (s : State) (c slot : Nat) (p : Pend) (op n : Nat) (ls : List PadAcc) : State :=
  if !(s.warp c slot).inOrder p then s
  else
    match (s.reach c slot ls).meetPads n ls with
    | (s, some x) => s.consumeAt c slot p x
    | (s, none) =>
      let q := (s.servePads c (ls.map (·.core))).padAtomLanes (writerOf c slot) op n ls
      q.1.returned c slot p q.2 false

/-! Publication that an instruction waits for (R177) -/

/-- What a release of a scope waits for, up to a segment, has happened (R177). -/
def State.publishedFor (s : State) (c scope seq : Nat) : Bool :=
  let k := s.core c
  k.publishedTo seq
  && (decide (scope < 4) || k.segs.all (fun g => decide (seq < g.seq) || !g.routed))
  && (decide (scope < 5) || s.foldq.all (fun f => f.core ≠ c || decide (seq < f.seq) || f.home < 256))

/-- A record that the release waits on was lost with its package (R380). -/
def State.waitsLost (s : State) (c scope seq : Nat) : Bool :=
  decide (4 ≤ scope) && (s.core c).segs.any (fun g => decide (g.seq ≤ seq) && g.routed && g.ntick.isSome
    && g.records.any (fun r => s.lostAt (r.line * 64)))

/-- Seals the open segment and asks for the publication of all sealed so far: the state and the last of them. -/
def State.release (s : State) (c : Nat) : State × Nat :=
  let s' := (s.sealSeg c false).publish c
  (s', (s'.core c).openSeq - 1)

/-- Changes an instruction in flight. -/
def State.setOp (s : State) (c slot id : Nat) (op : PendOp) : State :=
  s.modWarp c slot (fun w => { w with pend := w.pend.map (fun q => if q.id = id then { q with op := op } else q) })

/-- UNCORR of class H for a release whose records were lost (R380). -/
def State.lostRelease (s : State) (c slot : Nat) (p : Pend) : State :=
  let s' := s.finishPend c slot p
  s'.deliverH s' c slot p.gang (trapH 0x12 0 (gangMask p.gang))

/-- REL (R177). -/
def State.doRel (s : State) (c slot : Nat) (p : Pend) (scope : Nat) (stage : PubStage) : State :=
  let w := s.warp c slot
  match stage with
  | .start =>
    if !(w.after p.id PendOp.isStore) then s
    else if scope < 2 then s.finishPend c slot p
    else
      let q := s.release c
      q.1.setOp c slot p.id (.rel scope (.sealedUpTo q.2))
  | .sealedUpTo seq =>
    if s.waitsLost c scope seq then s.lostRelease c slot p
    else if s.publishedFor c scope seq then s.finishPend c slot p else s
  | .released => s.finishPend c slot p

/-- ACQ (R176). -/
def State.doAcq (s : State) (c slot : Nat) (p : Pend) (scope : Nat) (logs : List Nat) (degrade : Bool) : State :=
  let s' := if scope < 2 then s else s.replayLogs c logs degrade (scope = 5)
  s'.finishPend c slot p

/-- FENCE (R178, R237). -/
def State.doFence (s : State) (c slot : Nat) (p : Pend) (scope : Nat) (logs : List Nat) (degrade : Bool)
    (stage : PubStage) : State :=
  let w := s.warp c slot
  match stage with
  | .start =>
    if !(w.after p.id PendOp.isMemory) then s
    else if scope < 2 then s.finishPend c slot p
    else
      let q := s.release c
      q.1.setOp c slot p.id (.fence scope logs degrade (.sealedUpTo q.2))
  | .sealedUpTo seq =>
    if s.waitsLost c scope seq then s.lostRelease c slot p
    else if s.publishedFor c scope seq then s.doAcq c slot p scope logs degrade else s
  | .released => s.doAcq c slot p scope logs degrade

/-- SEAL completes when its segment is written (R179). -/
def State.doSeal (s : State) (c slot : Nat) (p : Pend) (seq : Option Nat) : State :=
  match seq with
  | none => s.finishPend c slot p
  | some q => if (s.core c).segs.any (fun g => g.seq = q && g.at_.isNone) then s else s.finishPend c slot p

/-! ATOM (R172, R173, R315) -/

/-- The work of an ATOM in flight. -/
structure AtomWork where
  op : Nat
  size : Nat
  order : Nat
  scope : Nat
  stage : PubStage
  /-- The overlay has been looked at for marks of the lines. -/
  looked : Bool
  logs : List Nat
  degrade : Bool
  lanes : List LaneAcc
  outcomes : Tab AtomOutcome
  tick : Nat
  deriving DecidableEq, Repr

def AtomWork.pend (a : AtomWork) : PendOp :=
  .atom a.op a.size a.order a.scope a.stage a.looked a.logs a.degrade a.lanes a.outcomes a.tick

def PendOp.atomWork : PendOp → Option AtomWork
  | .atom op n order scope stage looked logs degrade ls outs tick =>
    some { op := op, size := n, order := order, scope := scope, stage := stage, looked := looked, logs := logs
           degrade := degrade, lanes := ls, outcomes := outs, tick := tick }
  | _ => none

/-- The lanes that go to memory. -/
def AtomWork.live (a : AtomWork) : List LaneAcc := a.lanes.filter (fun l => !l.dropped)

def AtomWork.outcome (a : AtomWork) (l : Nat) : AtomOutcome := (Tab.find l a.outcomes).getD .waiting

/-- Looks at the overlay: a marked line is published at least as far as its home, as a release does, after every earlier store of
the warp (R172, R177). -/
def State.atomLook (s : State) (c slot : Nat) (p : Pend) (a : AtomWork) : State :=
  if (accLines a.lanes).any (fun l => ((s.core c).overlays l).any (fun o => o.mask ≠ 0)) then
    if !((s.warp c slot).after p.id PendOp.isStore) then s
    else
    let q := s.release c
    q.1.setOp c slot p.id { a with stage := .sealedUpTo q.2, looked := true }.pend
  else s.setOp c slot p.id { a with stage := .released, looked := true, tick := s.tick }.pend

/-- The results that have come back: each performed lane's old value, zero for a dropped lane (R161). -/
def AtomWork.results (a : AtomWork) : List (Place × W64) :=
  a.lanes.flatMap (fun l =>
    if l.dropped then placeValues l.dst 0
    else if a.outcome l.lane = .done then placeValues l.dst l.cmp.toNat else [])

/-- Copies of the lines that were operated on are dropped, except overlay bytes (R172). -/
def State.atomInvalidate (s : State) (c : Nat) (a : AtomWork) : State :=
  ((a.live.filter (fun l => a.outcome l.lane = .done)).map (fun l => l.pa / 64)).foldl
    (fun s l => s.invalidateLine c l) s

/-- ATOMUNK stops the warp at the remote ATOM (R315). -/
def State.atomUnk (s : State) (c slot : Nat) (p : Pend) (a : AtomWork) : State :=
  let bad := a.live.filter (fun l => a.outcome l.lane ≠ .done)
  let sub := if bad.any (fun l => a.outcome l.lane = .unknown) then 1 else 0
  let mask := bad.foldl (fun m l => m ||| l.mask) 0
  let s' := (s.atomInvalidate c a).complete c slot p a.results 0
  let s' := s'.modWarp c slot (fun w => w.onGang p.gang (fun _ sl => { sl with pc := p.pc }))
  s'.deliver s' c slot p.gang (trapS 0x11 sub mask (bad.flatMap (fun l => (setBits 32 l.mask).map (fun i => (i, l.va)))) 0)

/-- The next step of an ATOM outside its home; one that no lane executes does nothing. -/
def State.doAtom (s : State) (c slot : Nat) (p : Pend) (a : AtomWork) : State :=
  let w := s.warp c slot
  if a.lanes.isEmpty then s.finishPend c slot p
  else match a.stage with
  | .start =>
    let lines := accLines a.lanes
    if !w.inOrder p || !(w.after p.id (fun q => q.isStore && q.lines.any (fun l => lines.contains l))) then s
    else if a.order < 2 then s.atomLook c slot p a
    else if !(w.after p.id (fun q => q.isStore || q.isSts)) then s
    else if a.scope < 2 then s.atomLook c slot p a
    else
      let q := s.release c
      q.1.setOp c slot p.id { a with stage := .sealedUpTo q.2 }.pend
  | .sealedUpTo seq =>
    if s.waitsLost c a.scope seq then s.lostRelease c slot p
    else if !(s.publishedFor c a.scope seq) then s
    else if a.looked then s.setOp c slot p.id { a with stage := .released, tick := s.tick }.pend
    else s.atomLook c slot p a
  | .released =>
    if a.live.any (fun l => a.outcome l.lane = .waiting) then s
    else if a.live.any (fun l => a.outcome l.lane ≠ .done) then s.atomUnk c slot p a
    else
      let s' := s.atomInvalidate c a
      let s' := if (a.order = 1 || a.order = 3) && decide (2 ≤ a.scope) then s'.replayLogs c a.logs a.degrade (a.scope = 5) else s'
      s'.returned c slot p a.results (a.order = 1 || a.order = 3)

/-- A lane of an ATOM has its outcome, and the old value with it. -/
def State.atomOut (s : State) (c slot : Nat) (p : Pend) (a : AtomWork) (lane : Nat) (o : AtomOutcome) (old : W64) : State :=
  s.setOp c slot p.id { a with
    outcomes := Tab.put a.outcomes lane o
    lanes := a.lanes.map (fun (l : LaneAcc) => if l.lane = lane then { l with cmp := old } else l) }.pend

/-! Shoot-down (R313, R373) -/

/-- Cores that hold a translation derived from a line. -/
def State.derived (s : State) (line : Nat) : List Nat :=
  s.cores.filterMap (fun e => if e.2.tlb.any (fun t => t.lines.contains line) then some e.1 else none)

/-- Shoots down the translations derived from a line: whether an atomic or an in-place write of it may be applied now (R313,
R373). A unit that has derived one again since it acknowledged is asked again. -/
def State.shootdown (s : State) (line : Nat) : State × Bool :=
  let cores := s.derived line
  let others := s.shoots.filter (fun x => !x.lines.contains line)
  if cores.isEmpty then ({ s with shoots := others }, true)
  else
    let s' := cores.foldl (fun s c => s.modCore c (fun k => { k with shoot := (k.shoot ++ [line]).dedup })) s
    ({ s' with shoots := others ++ [({ lines := [line], waiting := cores } : Shootdown)] }, false)

/-! The home (R266, R267) -/

/-- Ticks of the window of a remote atomic, and of the life of a replay-cache entry: 50 µs (R173, R267). -/
def windowTicks : Nat := 50000

/-- The live entries of the replay cache that a home slice keeps for a port (R267). -/
def State.liveEntries (s : State) (port home : Nat) : List ReplayEntry :=
  s.replay.filter (fun e => e.port = port && e.home = home && decide (s.tick < e.tick + windowTicks))

/-- The 16-bit id of a remote atomic's request: one that no live entry of the package has (R173; log entry 113). -/
def State.requestId (s : State) (live : List ReplayEntry) : Nat :=
  ((List.range 65536).find? (fun n => !(live.any (fun e => e.source = s.package && e.req = n)))).getD 0

/-- The home performs one location's operation, the line having been read there (Fold, R172): the state, and the old value. -/
def State.homeOp (s : State) (a : AtomWork) (l : LaneAcc) : State × W64 :=
  let s := (s.readHome (l.pa / 64)).dropCopies (l.pa / 64)
  let old := BitVec.ofNat 64 (ofBytes (s.homeBytes l.pa a.size))
  let new := atomNew a.op a.size old l.data l.cmp
  (if a.op = 0 then s else (s.homeWrite l.pa (toBytes a.size new.toNat)).spoilSpilled l.pa a.size, old)

/-- Everything that comes before this lane at the same location has been performed (R170). -/
def AtomWork.turnOf (a : AtomWork) (l : LaneAcc) : Bool :=
  a.live.all (fun q => decide (l.lane ≤ q.lane) || q.pa ≠ l.pa || a.outcome q.lane ≠ .waiting)

/-- The errors of an atomic's lines are met at their homes, and their poison seen, before a lane of it that reads its own is performed:
the first of them that is poisoned, after which no lane takes effect (R345). -/
def State.atomPoison (s : State) (a : AtomWork) (line : Nat) : State × Option Nat :=
  let others := ((a.live.filter (fun l => a.outcome l.lane = .waiting)).map (fun l => l.pa / 64)).dedup
  let ls := line :: others.filter (· ≠ line)
  let s := (if s.poison.isEmpty && s.upsets.isEmpty then [line] else ls).foldl (fun s l => s.readHome l) s
  (s, if a.op = 1 then none else ls.find? (fun l => s.isPoisoned l))

/-- Records of a line that the core has published and the line's package has not acknowledged: an atomic never overtakes them
(R172). -/
def Core.routedLine (k : Core) (line : Nat) : Bool :=
  k.segs.any (fun g => g.routed && g.ntick.isSome && g.records.any (fun r => !r.void && r.line = line))

/-- HOME_ATOMIC for one lane. -/
def State.homeAtomic (s : State) (c slot : Nat) (p : Pend) (a : AtomWork) (l : LaneAcc) : State :=
  let line := l.pa / 64
  if a.outcome l.lane ≠ .waiting || !a.turnOf l then s
  else if isRemote l.pa then
    let port := bitsAt l.pa 40 6
    let home := sliceOf l.pa
    if s.lost.contains port || a.tick + windowTicks ≤ s.tick || (s.core c).routedLine line then s
    else
      let live := s.liveEntries port home
      if 1024 ≤ live.length then s.atomOut c slot p a l.lane .refused 0
      else
        let (s, bad) := s.atomPoison a line
        match bad with
        | some bl => s.consumeAt c slot p (5, bl)
        | none =>
          let q := s.homeOp a l
          let e : ReplayEntry := { port := port, home := home, source := s.package, req := s.requestId live, result := q.2, tick := s.tick }
          ({ q.1 with replay := q.1.replay ++ [e] }).atomOut c slot p a l.lane .done q.2
  else
    let q := s.shootdown line
    if !q.2 then q.1
    else
    let (s, bad) := q.1.atomPoison a line
    match bad with
    | some bl => s.consumeAt c slot p (5, bl)
    | none =>
      let r := s.homeOp a l
      r.1.atomOut c slot p a l.lane .done r.2

/-- The instruction in flight with a number. -/
def State.pendOf (s : State) (c slot id : Nat) : Option Pend := (s.warp c slot).pend.find? (fun p => p.id = id)

/-- A released ATOM in flight and one of its lanes. -/
def State.atomLane (s : State) (c slot id lane : Nat) : Option (Pend × AtomWork × LaneAcc) :=
  match s.pendOf c slot id with
  | none => none
  | some p => match p.op.atomWork with
    | none => none
    | some a => match a.live.find? (fun l => l.lane = lane) with
      | none => none
      | some l => if a.stage = .released then some (p, a, l) else none

/-- An atomic of another package performs at its home here, or is answered from the replay cache, or refused (R267); one that
would read poison is not performed, and goes unanswered. -/
def State.homeInbound (s : State) (q : Inbound) : State :=
  match q.body with
  | .atomic req op size pa v cmp =>
    let home := homeOf pa
    let live := s.liveEntries (64 + q.port) home
    let done := { s with inbound := s.inbound.erase q }
    let answer := fun (s : State) (r : Option W64) =>
      { s with answers := s.answers ++ [({ port := q.port, req := req, result := r } : LinkAnswer)] }
    if bitsAt pa 50 2 ≠ 0 then done
    else match live.find? (fun e => e.source = q.source && e.req = req) with
    | some e => answer done (some e.result)
    | none =>
      if 1024 ≤ live.length then answer done none
      else
        let t := s.shootdown (pa / 64)
        if !t.2 then t.1
        else
          let a : AtomWork := { op := op, size := size, order := 0, scope := 0, stage := .released, looked := true, logs := []
                                degrade := false, lanes := [], outcomes := [], tick := s.tick }
          let l : LaneAcc := { lane := 0, mask := 0, va := 0, pa := pa, dropped := false, data := v, bytes := [], cmp := cmp, dst := [] }
          let (s, bad) := ({ t.1 with inbound := t.1.inbound.erase q } : State).atomPoison a (pa / 64)
          if bad.isSome then s
          else
            let r := s.homeOp a l
            answer { r.1 with replay := r.1.replay ++
              [({ port := 64 + q.port, home := home, source := q.source, req := req, result := r.2, tick := s.tick } : ReplayEntry)] } (some r.2)
  | _ => { s with inbound := s.inbound.erase q }

/-- The line of an atomic of another package. -/
def Inbound.line (q : Inbound) : Option Nat :=
  match q.body with
  | .atomic _ _ _ pa _ _ => some (pa / 64)
  | _ => none

/-- HOME_ATOMIC: a lane's, or, for core 512, that of another package's atomic number `id` among those that wait, where no earlier
one of its line does (R267). -/
def execHomeAtomic (core slot id lane : Nat) (s : State) : Host.Outcome State Fault Refusal :=
  if core = 512 then
    (match s.inbound[id]? with
      | some q => .next (if (s.inbound.take id).any (fun x => x.line = q.line) then s else s.homeInbound q)
      | none => .next s)
  else match s.atomLane core slot id lane with
  | some (p, a, l) => .next (s.homeAtomic core slot p a l)
  | none => .next s

/-- The window of a remote atomic closes with no answer (R173): whether its home had performed it is free. Towards a lost
package it may also count as refused (R380). -/
def State.windowClose (s : State) (c slot : Nat) (p : Pend) (a : AtomWork) (l : LaneAcc) : State :=
  if a.outcome l.lane ≠ .waiting || !isRemote l.pa || s.tick < a.tick + windowTicks then s
  else
    let (d, s) := s.draw1
    let lost := s.lost.contains (bitsAt l.pa 40 6)
    if lost then s.atomOut c slot p a l.lane (if freeBit d 0 then .refused else .unknown) 0
    else if freeBit d 0 && !(s.core c).routedLine (l.pa / 64) then (s.homeOp a l).1.atomOut c slot p a l.lane .unknown 0
    else s.atomOut c slot p a l.lane .unknown 0

def execAtomunkWindowClose (core slot id lane : Nat) (s : State) : Host.Outcome State Fault Refusal :=
  match s.atomLane core slot id lane with
  | some (p, a, l) => .next (s.windowClose core slot p a l)
  | none => .next s

/-- An entry leaves the replay cache 50 µs after its atomic performed (R267). -/
def execReplayEntryExpiry (index : Nat) (s : State) : Host.Outcome State Fault Refusal :=
  match s.replay[index]? with
  | some e => .next (if e.tick + windowTicks ≤ s.tick then { s with replay := s.replay.eraseIdx index } else s)
  | none => .next s

/-! Translation units -/

/-- A load, or a store that has still to enter the overlay. -/
def PendOp.isAccess : PendOp → Bool
  | .load _ _ _ _ | .ldl _ _ | .store _ _ => true
  | _ => false

/-- Loads of a core that were translated through an entry and have not returned, with stores that have yet to make their records
(R313). One that waits for an earlier instruction on the same bytes is not waited for (log entry 120). -/
def Core.loadsOpen (k : Core) (e : TlbEntry) : Bool :=
  k.warps.any (fun w => w.2.pend.any (fun p => p.op.isAccess && w.2.inOrder p
    && p.op.globals.any (fun x => decide (e.pa ≤ x.1) && decide (x.1 < e.pa + e.size))))

/-- Unpublished bytes of a page: overlay lines in the open segment, and segments whose tidemark does not stand. -/
def Core.pageRecords (k : Core) (e : TlbEntry) : List Nat :=
  let inPage := fun (line : Nat) => decide (e.pa ≤ line * 64) && decide (line * 64 < e.pa + e.size)
  (k.overlay.filter (fun o => inPage o.line)).map (·.seg)
    ++ (k.segs.filter (fun g => !g.published && g.records.any (fun r => inPage r.line))).map (·.seq)

/-- A unit's next step towards acknowledging: it asks for the publications, then drops the entries (R313). -/
def State.shootAck (s : State) (c : Nat) : State :=
  let k := s.core c
  let gone := k.tlb.filter (fun e => e.lines.any (fun l => k.shoot.contains l))
  if k.shoot.isEmpty || gone.any (fun e => k.loadsOpen e) then s
  else
    let recs := gone.flatMap (fun e => k.pageRecords e)
    if recs.isEmpty then
      let s := s.setCore c { k with tlb := k.tlb.filter (fun e => !(gone.contains e)), shoot := [] }
      { s with shoots := s.shoots.map (fun (x : Shootdown) => { x with waiting := x.waiting.filter (· ≠ c) }) }
    else if recs.all (fun q => decide (q ≤ k.goal)) then s
    else s.forcePublish c

def execShootdownAck (core : Nat) (s : State) : Host.Outcome State Fault Refusal := .next (s.shootAck core)

/-- The accesses of a warp under warp disable that fail, each with the lanes it stands for. -/
def State.walkFails (s : State) (c : Nat) (v : AsidTable) (w : Walk) : List (Nat × Mask32 × Nat × XlatFail) :=
  w.lanes.filterMap (fun e => match s.xlate c v w.asid e.2.2.toNat w.read w.write w.exec with
    | .error f => some (e.1, e.2.1, e.2.2.toNat, f)
    | .ok _ => none)

/-- Entries found by the walks of some addresses and not yet held. -/
def State.walkEntries (s : State) (c : Nat) (v : AsidTable) (asid : BitVec 16) (vas : List Nat) : List TlbEntry :=
  (vas.filterMap (fun va => if ((s.core c).tlbFind asid va).isSome then none
    else match s.walk v asid va with
      | .ok e => some e
      | .error _ => none)).dedup

/-- A write of a line waits for its shoot-down: an atomic of a warp or of another package, or an in-place write (R313, R373). -/
def State.shootWanted (s : State) (line : Nat) : Bool :=
  s.cores.any (fun e => e.2.warps.any (fun w => w.2.pend.any (fun p => match p.op.atomWork with
    | some a => a.stage = .released && a.live.any (fun l => a.outcome l.lane = .waiting && l.pa / 64 = line)
    | none => false)))
  || s.inbound.any (fun q => q.line = some line)
  || s.arriving.any (fun w => (linesOf w.1 w.2.length).contains line)

/-- Some walk read a page-table line whose translations are being shot down: nothing is derived from it again before the write that
waits for that has been applied (R313, R314). -/
def State.underWrite (s : State) (es : List TlbEntry) : Bool :=
  !s.shoots.isEmpty && es.any (fun e => e.lines.any (fun l => s.shoots.any (fun x => x.lines.contains l) && s.shootWanted l))

/-- The entries that walks have found are held, and the pages they map are known to the homes (R268). -/
def State.holdEntries (s : State) (c : Nat) (v : AsidTable) (es : List TlbEntry) : State :=
  (es.foldl (fun s e => s.noteLeaf v e) s).modCore c (fun x => { x with tlb := x.tlb ++ es })

/-- A walk finishes (R306, R312): the translations are held, or the lowest failing lane decides the cause, which stops
the warp at its instruction. -/
def State.walkDone (s : State) (c slot : Nat) : State :=
  let w := s.warp c slot
  match w.walk with
  | none => s
  | some k =>
    let v := s.tableOf c w.group
    let es := s.walkEntries c v k.asid (k.lanes.map (fun e => e.2.2.toNat))
    if s.underWrite es then s
    else
    let s' := (s.holdEntries c v es).modWarp c slot (fun x => { x with walk := none })
    match xlatTrapOf k.sub (s'.walkFails c v k) with
    | none => s'
    | some t => s'.deliver s' c slot k.gang t

def execTranslationWalkDone (core slot : Nat) (s : State) : Host.Outcome State Fault Refusal := .next (s.walkDone core slot)

end Sys2Proof.Machine
end

