-- ==== Sys2Proof/Machine/Landing.lean ====
section
/-! DEFINITION. Scratchpad objects (R212), landing barriers (R222, R223), berth rings (R224, R225) and workgroup barriers
(R226): the instructions on them and the events that release their waiters. -/

namespace Sys2Proof.Machine

/-! Objects (R212) -/

/-- The checks of R212 for an object of `n` bytes aligned to `n`, with the sub-kind of the cause. -/
def Group.objBad (x : Group) (g : Mask8) (a n sub : Nat) : Option Trap :=
  if x.padBytes < a + n then some (trapH 0x07 sub (gangMask g))
  else if a % n ≠ 0 then some (trapH 0x01 sub (gangMask g))
  else none

/-- Runs an entry on an object of `n` bytes, past the checks of R212; it takes its effect for the gang or none (R211). -/
def objEff (h : Header) (o : FmtE) (n : Nat) (k : State → Cur → Nat → Eff) (s : State) (u : Cur) : Eff :=
  let w := s.warp u.core u.slot
  let a := w.objAddr u.gang o.srcA
  match (s.group u.core w.group).objBad u.gang a n 0 with
  | some t => .trap t
  | none => if w.gangActs u.gang h then k s u a else .done (s.advance u) false

/-! Landing barriers (R222, Table 9.5) -/

def lbPhase (v : Nat) : Bool := bitsAt v 63 1 = 1
def lbUnit (v : Nat) : Nat := bitsAt v 62 1
def lbExpect (v : Nat) : Nat := bitsAt v 32 30
def lbRemain (v : Nat) : Nat := bitsAt v 0 30

/-- A barrier's word with another phase and remainder. -/
def lbWith (v : Nat) (phase : Bool) (remain : Nat) : Nat :=
  v - bitsAt v 63 1 * 2 ^ 63 - lbRemain v + phase.toNat * 2 ^ 63 + remain

/-- A count of `c` applied to a barrier (R222). -/
def lbCount (v c : Nat) : Nat :=
  let e := lbExpect v
  if c = 0 || e = 0 then v
  else
    let owed := lbRemain v = 0
    let r := if owed then e else lbRemain v
    let flips := if c < r then 0 else 1 + (c - r) / e
    let left := if c < r then r - c else e - (c - r) % e
    lbWith v (xor (lbPhase v) (xor owed (flips % 2 = 1))) left

/-- The barrier at a scratchpad address. -/
def State.lbRead (s : State) (c g a : Nat) : Nat := ofBytes ((s.group c g).padRead a 8)

/-- A count of `c` flips the phase, once or more often. -/
def lbFlips (v c : Nat) : Bool := c ≠ 0 && lbExpect v ≠ 0 && (lbRemain v = 0 || decide (lbRemain v ≤ c))

/-- Applies a count at the port; a flip lets waiters see what the counts have covered (R222). -/
def State.lbApply (s : State) (c g a n writer : Nat) : State :=
  let v := s.lbRead c g a
  if n = 0 || lbExpect v = 0 then s
  else
    let s := s.padWrite c g a (toBytes 8 (lbCount v n)) writer
    if lbFlips v n then s.modGroup c g (fun x => x.flipWrites a) else s

def execLbinit (h : Header) (o : FmtE) (s : State) : Host.Outcome State Fault Refusal :=
  s.issue (.lbinit h o) (fun s u =>
    let w := s.warp u.core u.slot
    let a := w.objAddr u.gang o.srcA
    let n := (w.srcS u.gang 2 o.srcB).toNat
    match (s.group u.core w.group).objBad u.gang a 8 0 with
    | some t => .trap t
    | none =>
      if n = 0 || 2 ^ 30 ≤ n then .trap (illegal u.gang)
      else if w.gangActs u.gang h then
        let v := o.imm.toNat % 2 * 2 ^ 63 + o.subop.toNat % 2 * 2 ^ 62 + n * 2 ^ 32 + n
        s.post u h.settok.toNat (.lbinit u.core w.group a (BitVec.ofNat 64 v)) []
      else .done (s.advance u) false)

def execLbarrive (h : Header) (o : FmtE) (s : State) : Host.Outcome State Fault Refusal :=
  s.issue (.lbarrive h o) (objEff h o 8 (fun s u a =>
    let w := s.warp u.core u.slot
    s.post u h.settok.toNat (.lbarrive u.core w.group a ((w.srcS u.gang 2 o.srcB).toNat % 2 ^ 30)) []))

/-- LBINIT performs. -/
def State.doLbinit (s : State) (c slot : Nat) (p : Pend) (pc pg a : Nat) (v : W64) : State :=
  if !(s.warp c slot).inOrder p then s else ((s.servePads c [pc]).padWrite pc pg a (toBytes 8 v.toNat) (writerOf c slot)).finishPend c slot p

/-- The bytes of an object, as an access of the port. -/
def objAcc (c g a : Nat) : PadAcc :=
  { lane := 0, core := c, group := g, addr := a, data := 0, bytes := [], cmp := 0, dst := [] }

/-- LBARRIVE performs, after the warp's earlier STS and ATOMS (R223). -/
def State.doLbarrive (s : State) (c slot : Nat) (p : Pend) (pc pg a n : Nat) : State :=
  let w := s.warp c slot
  if !w.inOrder p || !(w.after p.id PendOp.isPadStore) then s
  else match s.meetPads 8 [objAcc pc pg a] with
    | (s, some x) => s.consumeAt c slot p x
    | (s, none) =>
      let who := writerOf c slot
      (((s.servePads c [pc]).modGroup pc pg (fun x => x.tagWrites (2 * a) (fun _ u => u.writer = who && n ≠ 0))).lbApply pc pg a n who).finishPend
        c slot p

def execLbwait (h : Header) (o : FmtE) (s : State) : Host.Outcome State Fault Refusal :=
  s.issue (.lbwait h o) (objEff h o 8 (fun s u a =>
    .done ((s.advance u).modWarp u.core u.slot (fun w => w.onGang u.gang (fun _ sl =>
      { sl with wait := .landing a (o.imm.toNat % 2 = 1), waitSince := s.cycle }))) false))

/-- The gang of a warp whose lowest slice is named. -/
def Warp.gangAt (w : Warp) (low : Nat) : Option Mask8 := w.gangs.find? (fun g => gangLeader g = low)

/-- LBWAIT re-reads its barrier and lets the gang go where the phase differs: the warp has then seen the counted landings
(R199, R223). -/
def State.landingRelease (s : State) (c slot low : Nat) : State :=
  let w := s.warp c slot
  match w.gangAt low with
  | none => s
  | some g =>
    match (w.slice low).wait with
    | .landing a ph =>
      (match s.meetPads 8 [objAcc c w.group a] with
      | (s, some x) => s.consume c w.group x.1 x.2
      | (s, none) =>
        if lbPhase (s.lbRead c w.group a) = ph || w.touches c a 8 then s
        else (s.modWarp c slot (fun w => w.onGang g (fun _ sl => { sl with wait := .ready }))).modGroup c w.group (fun x =>
          x.seeWrites (BitVec.ofNat 32 (2 ^ w.idx)) (fun _ u => u.tags.contains (2 * a + 1))))
    | _ => s

def execLandingRelease (core slot low : Nat) (s : State) : Host.Outcome State Fault Refusal := .next (s.landingRelease core slot low)

/-! Berth rings (R224, Table 9.6) -/

/-- A berth ring's descriptor as a number. -/
def Group.ringDesc (g : Group) (a : Nat) : Nat := ofBytes (g.padRead a 32)

def ringBase (d : Nat) : Nat := bitsAt d 0 32
def ringSlot (d : Nat) : Nat := bitsAt d 32 16
def ringN (d : Nat) : Nat := bitsAt d 48 16
def ringP (d : Nat) : Nat := bitsAt d 64 16
def ringF (d : Nat) : Nat := bitsAt d 80 16
def ringC (d : Nat) : Nat := bitsAt d 96 16
def ringZ (d : Nat) : Nat := bitsAt d 112 16

/-- A difference of slot numbers, modulo 2^16. -/
def ringDiff (a b : Nat) : Nat := (a + 65536 - b) % 65536

/-- A descriptor that R225 refuses. -/
def Group.ringBad (g : Group) (d : Nat) : Bool :=
  d / 2 ^ 128 ≠ 0 || ringN d = 0 || decide (4096 < ringN d) || ringSlot d = 0 || ringSlot d % 64 ≠ 0
  || decide (g.padBytes < ringBase d + ringN d * ringSlot d)
  || decide (ringDiff (ringF d) (ringZ d) < ringDiff (ringC d) (ringZ d))
  || decide (ringDiff (ringP d) (ringZ d) < ringDiff (ringF d) (ringZ d))
  || decide (ringN d < ringDiff (ringP d) (ringZ d))

/-- The address of a slot (R224). -/
def ringAddr (d q : Nat) : Nat := ringBase d + q % ringN d * ringSlot d

/-- A taking operation may proceed (Table 9.7). -/
def ringReady (d : Nat) (free : Bool) : Bool :=
  if free then decide (ringDiff (ringP d) (ringZ d) < ringN d) else ringC d ≠ ringF d

/-- The slot number that a taking operation takes. -/
def ringNext (d : Nat) (free : Bool) : Nat := if free then ringP d else ringC d

/-- Writes one slot number of a descriptor: the byte offset of the field. -/
def State.ringSet (s : State) (c g a off q writer : Nat) : State :=
  s.padWrite c g (a + off) (toBytes 2 (q % 65536)) writer

/-- Advances FIDX over slots that requests have filled and that waited for earlier ones (R225). -/
def State.fillOwed (s : State) (c g a : Nat) : Nat → State
  | 0 => s
  | n + 1 =>
    let x := s.group c g
    let f := ringF (x.ringDesc a)
    if x.owed.contains (a, f) then
      State.fillOwed ((s.modGroup c g (fun x => { x with owed := x.owed.erase (a, f) })).ringSet c g a 10 (f + 1) 0) c g a n
    else s

/-- Takes a slot: advances the index. A warp that takes a filled one has seen the landings there complete (R199, R225). -/
def State.ringTake (s : State) (c g a : Nat) (free : Bool) (writer : Nat) : State :=
  let d := (s.group c g).ringDesc a
  if free then s.ringSet c g a 8 (ringP d + 1) writer
  else
    let at_ := ringAddr d (ringC d)
    (s.ringSet c g a 12 (ringC d + 1) writer).modGroup c g (fun x => x.seeWrites (s.writerMask c g writer) (fun k u =>
      u.writer = 0 && decide (at_ ≤ k) && decide (k < at_ + ringSlot d)))

/-- A ring operation past the checks of R212 and of its descriptor (R225). -/
def ringEff (h : Header) (o : FmtE) (k : State → Cur → Nat → Nat → Eff) (s : State) (u : Cur) : Eff :=
  let w := s.warp u.core u.slot
  let x := s.group u.core w.group
  let a := w.objAddr u.gang o.srcA
  match x.objBad u.gang a 32 0 with
  | some t => .trap t
  | none =>
    match s.meetPads 32 [objAcc u.core w.group a] with
    | (s, some e) => s.uncorrEff u e
    | (s, none) =>
      let d := x.ringDesc a
      if x.ringBad d then .trap (illegal u.gang)
      else if w.gangActs u.gang h then k s u a d else .done (s.advance u) false

/-- RINGGET and RINGGET.free: they take at once, or wait with their token counted (R225, R339). -/
def ringgetEff (h : Header) (o : FmtE) (free : Bool) : State → Cur → Eff :=
  ringEff h o (fun s u a d =>
    let w := s.warp u.core u.slot
    let tok := h.settok.toNat
    let dst := Operand.num o.dst
    let here := (w.slice (gangLeader u.gang)).pc
    if ringReady d free then
      let v := BitVec.ofNat 64 (ringAddr d (ringNext d free))
      .done (((s.ringTake u.core w.group a free (writerOf u.core u.slot)).addRegs u tok ((placesS u.gang dst).map (fun p => (p, v))) 0 false).advance u) true
    else
      let s := (s.advance u).modWarp u.core u.slot (fun w => w.onGang u.gang (fun _ sl =>
        { sl with wait := .ring a free dst tok here, waitSince := s.cycle }))
      .done (s.modWarp u.core u.slot (fun w =>
        if tok = 0 then w else { w with tok := Tab.set 0 w.tok (tok - 1) (Tab.get 0 w.tok (tok - 1) + 1) })) true)

def execRingget (h : Header) (o : FmtE) (s : State) : Host.Outcome State Fault Refusal :=
  s.issue (.ringget h o) (ringgetEff h o false)
def execRinggetFree (h : Header) (o : FmtE) (s : State) : Host.Outcome State Fault Refusal :=
  s.issue (.ringgetFree h o) (ringgetEff h o true)

/-- A waiting taking operation looks at its ring again: it takes a slot where it can, and raises ILLEGAL where the
descriptor has become one that R225 refuses. -/
def State.ringLook (s : State) (c slot low : Nat) : State :=
  let w := s.warp c slot
  match w.gangAt low with
  | none => s
  | some g =>
    match (w.slice low).wait with
    | .ring a free dst tok here =>
      match s.meetPads 32 [objAcc c w.group a] with
      | (s, some e) => s.consume c w.group e.1 e.2
      | (s, none) =>
      let x := s.group c w.group
      let d := x.ringDesc a
      let ready := s.modWarp c slot (fun w => w.onGang g (fun _ sl => { sl with wait := .ready }))
      if x.ringBad d then
        let s' := (ready.decTok c slot tok).modWarp c slot (fun w => w.onGang g (fun _ sl => { sl with pc := here }))
        s'.deliver s' c slot g (illegal g)
      else if ringReady d free then
        let v := BitVec.ofNat 64 (ringAddr d (ringNext d free))
        let ps := placesS g dst
        (ready.ringTake c w.group a free (writerOf c slot)).modWarp c slot (fun w =>
          let p : Pend :=
            { id := w.nextId, tok := tok, gang := g, pc := here, born := w.seed, op := .regs (ps.map (fun q => (q, v))) 0 }
          ({ w with pend := w.pend ++ [p], nextId := w.nextId + 1 } : Warp).notePlaces tok (ps.map (fun q => (q, some v))))
      else s
    | _ => s

def execRingSlotTaken (core slot low : Nat) (s : State) : Host.Outcome State Fault Refusal := .next (s.ringLook core slot low)

def execRingput (h : Header) (o : FmtE) (s : State) : Host.Outcome State Fault Refusal :=
  s.issue (.ringput h o) (ringEff h o (fun s u a d =>
    let w := s.warp u.core u.slot
    if ringZ d = ringC d then .trap (illegal u.gang)
    else .done ((s.ringSet u.core w.group a 14 (ringZ d + 1) (writerOf u.core u.slot)).advance u) false))

def execRingputFill (h : Header) (o : FmtE) (s : State) : Host.Outcome State Fault Refusal :=
  s.issue (.ringputFill h o) (ringEff h o (fun s u a d =>
    let w := s.warp u.core u.slot
    if ringF d = ringP d then .trap (illegal u.gang)
    else
      let s := s.ringSet u.core w.group a 10 (ringF d + 1) (writerOf u.core u.slot)
      .done ((s.fillOwed u.core w.group a (s.group u.core w.group).owed.length).advance u) false))

/-! Workgroup barriers (R226) -/

/-- Warps that a barrier of count `n` waits for. -/
def Group.barrCount (g : Group) (n : Nat) : Nat := if n = 0 then g.slots.length - g.ended.length else n

/-- The waiters of a barrier whose count is met leave together; the barrier re-arms and the rollback interval opens
(R226, R343). What one of them has written, or seen complete, they all have seen complete (R199). -/
def State.barrRelease (s : State) (c g k : Nat) : State :=
  let x := s.group c g
  match Tab.find k x.bars with
  | none => s
  | some b =>
    if b.waiting.length < x.barrCount b.n then s
    else
      let s := s.setGroup c g { x with bars := Tab.del x.bars k }
      let s := (b.waiting.filterMap (fun i => x.slots[i]?)).foldl (fun s slot => s.modWarp c slot (fun w =>
        { w with slices := w.slices.map (fun e =>
            (e.1, match e.2.wait with | .barr j _ => if j = k then { e.2 with wait := .ready } else e.2 | _ => e.2)) })) s
      let warps := b.waiting.foldl (fun (m : Mask32) i => m ||| BitVec.ofNat 32 (2 ^ i)) 0
      (s.modGroup c g (fun x => x.seeWrites warps (fun _ u => u.due &&& warps ≠ 0))).openInterval c g

/-- R226 step 1: BARPART. -/
def Warp.barPart (w : Warp) (g : Mask8) : Bool :=
  let live := (List.range 32).filter (fun l => w.live.getLsbD (l / 4))
  w.live ≠ g || live.any (fun l => w.start.getLsbD l && !(w.m0 g).getLsbD l)

def execBarr (h : Header) (o : FmtE) (s : State) : Host.Outcome State Fault Refusal :=
  s.issue (.barr h o) (fun s u =>
    let w := s.warp u.core u.slot
    let x := s.group u.core w.group
    let k := o.imm.toNat % 16
    let n := (w.srcS u.gang 2 o.srcA).toNat
    if 32 < n then .trap (illegal u.gang)
    else if w.barPart u.gang then .trap (trapH 0x0D 0 (gangMask u.gang))
    else if !(w.gangActs u.gang h) then .done (s.advance u) false
    else if (match Tab.find k x.bars with | some b => b.waiting ≠ [] && b.n ≠ n | none => false) then
      .trap (trapH 0x0C 0 (gangMask u.gang))
    else
      let b : Barrier := match Tab.find k x.bars with
        | some b => { n := n, waiting := b.waiting ++ [w.idx] }
        | none => { n := n, waiting := [w.idx] }
      let s := (s.advance u).modWarp u.core u.slot (fun w => w.onGang u.gang (fun _ sl =>
        { sl with wait := .barr k n, waitSince := s.cycle }))
      let s := s.modGroup u.core w.group (fun x => { x with bars := Tab.put x.bars k b })
      .done (s.barrRelease u.core w.group k) false)

def execBarrierRelease (core group k : Nat) (s : State) : Host.Outcome State Fault Refusal := .next (s.barrRelease core group k)

end Sys2Proof.Machine
end

