-- ==== Sys2Proof/Machine/Copy.lean ====
section
/-! DEFINITION. The copy engine: request blocks and XKICK (R213–R217, R337), chunks (R218, R219, R271, R272), what their
landing counts (R220, R222, R225), and faults that the engine meets (R221). -/

namespace Sys2Proof.Machine

/-! Request blocks (Tables 9.2 and 9.3) -/

/-- Word `i` of a request. -/
def wordAt (ws : List W64) (i : Nat) : W64 := ws.getD i 0

/-- A field of a word of a request. -/
def rqf (ws : List W64) (i hi lo : Nat) : Nat := BitVec.field (wordAt ws i) hi lo

def rqKind (ws : List W64) : Nat := rqf ws 0 3 0
def rqRows (ws : List W64) : Nat := rqf ws 0 31 16
def rqDir (ws : List W64) : Nat := rqf ws 0 33 32
def rqRing (ws : List W64) : Bool := (wordAt ws 0).getLsbD 40
def rqLben (ws : List W64) : Bool := (wordAt ws 0).getLsbD 41
def rqLb (ws : List W64) : Nat := rqf ws 0 63 42
/-- Row bytes of TILE, GATHER and SCATTER. -/
def rqRowBytes (ws : List W64) : Nat := rqf ws 3 48 32
/-- Width of an index of GATHER and SCATTER. -/
def rqIdxBytes (ws : List W64) : Nat := if rqf ws 4 32 32 = 1 then 2 else 4

/-- Words from `i` upward are zero. -/
def restZero (ws : List W64) (i : Nat) : Bool := (List.range (8 - i)).all (fun k => wordAt ws (i + k) = 0)

/-- A word's bits above 31 are zero. -/
def low32 (ws : List W64) (i : Nat) : Bool := rqf ws i 63 32 = 0

/-- Words 1 to 7 are as Table 9.3 allows for the kind. -/
def rqKindOk (ws : List W64) : Bool :=
  let va := rqf ws 1 63 57 = 0
  let rows := decide (1 ≤ rqRows ws)
  let rb := rqRowBytes ws
  let shape := rqf ws 2 63 48 = 0 && rqf ws 3 63 49 = 0 && decide (1 ≤ rb) && decide (rb ≤ 65536)
    && decide (rqRows ws * rb ≤ 2 ^ 24) && (!rqRing ws || rqf ws 2 47 32 = 0)
  match rqKind ws with
  | 1 => rows && shape && restZero ws 4 && (if rqDir ws = 2 then low32 ws 1 else va) && rqDir ws ≠ 3 && (!rqRing ws || rqDir ws = 0)
  | 2 => rows && shape && va && restZero ws 6 && rqf ws 4 63 33 = 0 && rqf ws 5 63 33 = 0 && rqDir ws = 0
  | 3 => rows && shape && va && restZero ws 6 && rqf ws 4 63 33 = 0 && rqf ws 5 63 33 = 0 && rqDir ws = 0 && !rqRing ws
  | 4 | 5 => rows && va && rqf ws 1 5 0 = 0 && low32 ws 2 && low32 ws 3 && low32 ws 4 && low32 ws 5 && low32 ws 6
      && restZero ws 7 && rqDir ws = 0 && !rqRing ws
  | 6 => rqRows ws = 0 && va && low32 ws 2 && low32 ws 3 && restZero ws 5 && rqDir ws = 0
  | 7 => rqRows ws = 0 && va && rqf ws 2 31 15 = 0 && decide (1 ≤ rqf ws 2 63 32) && decide (rqf ws 2 63 32 ≤ 1024)
      && restZero ws 3 && rqDir ws = 0 && !rqRing ws
  | _ => false

/-- R214: what makes a request ILLEGAL by its words alone. -/
def rqIllegal (ws : List W64) : Bool :=
  rqf ws 0 39 34 ≠ 0 || rqf ws 0 15 4 ≠ 0 || rqLb ws % 8 ≠ 0 || (!rqLben ws && rqLb ws ≠ 0) || !rqKindOk ws

/-- Where a ring request names its descriptor. -/
def rqRingAt (ws : List W64) : Nat := if rqKind ws = 6 then rqf ws 4 31 0 else rqf ws 2 31 0

/-- Bytes that a ring request puts into its slot. -/
def rqSlotBytes (ws : List W64) : Nat := if rqKind ws = 6 then rqf ws 4 63 32 else rqRows ws * rqRowBytes ws

/-- The last byte, plus one, of rows at a pitch. -/
def rowsEnd (base pitch rows bytes : Nat) : Nat := if rows = 0 then base else base + (rows - 1) * pitch + bytes

/-- The ends of the scratchpad areas that a request names (R214). The index and value areas of CSR and CSC are at least as long as
their capacity at the narrowest widths, the header having them yet to give (log entry 114). -/
def rqEnds (ws : List W64) : List Nat :=
  let rows := rqRows ws
  let rb := rqRowBytes ws
  let side := if rqRing ws then [] else [rowsEnd (rqf ws 2 31 0) (rqf ws 2 47 32) rows rb]
  (if rqLben ws then [rqLb ws + 8] else [])
  ++ (if rqRing ws then [rqRingAt ws + 32] else [])
  ++ (match rqKind ws with
    | 1 => side ++ (if rqDir ws = 2 then [rowsEnd (rqf ws 1 31 0) (rqf ws 3 31 0) rows rb] else [])
    | 2 | 3 => side ++ [rqf ws 4 31 0 + rows * rqIdxBytes ws]
    | 4 | 5 => [rqf ws 3 31 0 + 4 * (rows + 1), rqf ws 4 31 0 + 2 * rqf ws 6 31 0, rqf ws 5 31 0 + rqf ws 6 31 0]
    | 6 => (rqf ws 3 31 0 + 272) :: (if rqRing ws then [] else [rqf ws 4 31 0 + rqf ws 4 63 32])
    | _ => [])

/-- The checks of R214 to R220 at the XKICK, sub-kind 2 (Table 16.1). -/
def Group.rqCheck (x : Group) (g : Mask8) (ws : List W64) : Option Trap :=
  let ill := some (trapH 0x01 2 (gangMask g))
  if rqIllegal ws || (rqRing ws && rqRingAt ws % 32 ≠ 0) then ill
  else if (rqEnds ws).any (fun e => decide (x.padBytes < e))
      || (rqKind ws = 7 && decide (1024 * pwAcc x.partition < rqf ws 2 14 0 + rqf ws 2 63 32)) then
    some (trapH 0x07 2 (gangMask g))
  else if rqRing ws && (x.ringBad (x.ringDesc (rqRingAt ws)) || decide (ringSlot (x.ringDesc (rqRingAt ws)) < rqSlotBytes ws)) then ill
  else none

/-- The eight words of a request block. -/
def rqWords (x : Group) (a : Nat) : List W64 :=
  (List.range 8).map (fun i => BitVec.ofNat 64 (ofBytes (x.padRead (a + 8 * i) 8)))

def execXkick (h : Header) (o : FmtE) (s : State) : Host.Outcome State Fault Refusal :=
  s.issue (.xkick h o) (fun s u =>
    let w := s.warp u.core u.slot
    let x := s.group u.core w.group
    let a := w.objAddr u.gang o.srcA
    match x.objBad u.gang a 64 0 with
    | some t => .trap t
    | none =>
      match s.meetPads 64 [objAcc u.core w.group a] with
      | (s, some e) => s.uncorrEff u e
      | (s, none) =>
      let ws := rqWords x a
      match x.rqCheck u.gang ws with
      | some t => .trap t
      | none =>
        if w.gangActs u.gang h then
          let id := (s.core u.core).nextReq
          let r : CopyReq :=
            { id := id, slot := u.slot, group := w.group, gang := u.gang, asid := w.asid, tok := h.settok.toNat, words := ws
              started := 0, landed := 0, offset := 0, idx := 0, ring := none, bitPos := 0, produced := 0, table := []
              held := false, allStarted := false, shadow := [] }
          let s := (s.sawTokens u.core u.slot).modCore u.core (fun k => { k with copyq := k.copyq ++ [r], nextReq := id + 1 })
          s.post u h.settok.toNat (.engine id) []
        else .done (s.advance u) false)

/-! Compressed matrices (R216, Table 9.4) -/

/-- What the engine holds of a CSR or CSC request: header, first pointer, entries, then relative pointers. -/
def CopyReq.csrHeader (r : CopyReq) : Nat := ofBytes (r.table.take 64)
def CopyReq.csrFirst (r : CopyReq) : Nat := ofBytes ((r.table.drop 64).take 8)
def CopyReq.csrCount (r : CopyReq) : Nat := ofBytes ((r.table.drop 72).take 4)
def CopyReq.csrPtr (r : CopyReq) (i : Nat) : Nat := ofBytes ((r.table.drop (76 + 4 * i)).take 4)
def csrPtrVa (h : Nat) : Nat := bitsAt h 128 64
def csrIdxVa (h : Nat) : Nat := bitsAt h 192 64
def csrValVa (h : Nat) : Nat := bitsAt h 256 64
def csrPtrBytes (h : Nat) : Nat := if bitsAt h 72 1 = 1 then 8 else 4
def csrIdxBytes (h : Nat) : Nat := if bitsAt h 73 1 = 1 then 4 else 2
def csrValBytes (h : Nat) : Nat := 2 ^ bitsAt h 74 3
def csrLines (h : Nat) : Nat := bitsAt h 0 32

/-- A header that raises ILLEGAL. -/
def csrBad (h : Nat) : Bool :=
  bitsAt h 320 192 ≠ 0 || bitsAt h 77 51 ≠ 0 || decide (4 ≤ bitsAt h 74 3) || bitsAt h 64 8 ≠ 0
  || decide (2 ^ 57 ≤ csrPtrVa h) || decide (2 ^ 57 ≤ csrIdxVa h) || decide (2 ^ 57 ≤ csrValVa h)

/-! Rows of a request -/

/-- Rows, or areas, that the engine works one after another. -/
def CopyReq.rowCount (r : CopyReq) : Nat :=
  match rqKind r.words with
  | 4 | 5 => 3
  | 6 | 7 => 1
  | _ => rqRows r.words

/-- Bytes of a row or area. -/
def CopyReq.rowLen (r : CopyReq) (i : Nat) : Nat :=
  match rqKind r.words with
  | 4 | 5 =>
    (match i with
      | 0 => 4 * (rqRows r.words + 1)
      | 1 => r.csrCount * csrIdxBytes r.csrHeader
      | _ => r.csrCount * csrValBytes r.csrHeader)
  | 6 => rqf r.words 4 63 32
  | 7 => rqf r.words 2 63 32
  | _ => rqRowBytes r.words

/-- The scratchpad address at which a row or area is written or read, on the side of word 2. -/
def CopyReq.padRow (r : CopyReq) (i : Nat) : Nat :=
  let ws := r.words
  match r.ring with
  | some (_, a) => if rqKind ws = 6 then a else a + i * rqRowBytes ws
  | none =>
    match rqKind ws with
    | 4 | 5 => (match i with | 0 => rqf ws 3 31 0 | 1 => rqf ws 4 31 0 | _ => rqf ws 5 31 0)
    | 6 => rqf ws 4 31 0
    | _ => rqf ws 2 31 0 + i * rqf ws 2 47 32

/-! What the engine meets -/

/-- Why a chunk does not start. -/
inductive CopyFail where
  | xlat (f : XlatFail) (va : Nat)
  | bounds
  | illegal (sub : Nat)
  /-- Poison of a line (R345, R348). -/
  | poison (line : Nat)
  /-- A package that is lost (R380). -/
  | lost (va : Nat)
  deriving DecidableEq, Repr

/-- The physical address of a byte for the engine (R221). -/
def State.copyPa (s : State) (c : Nat) (r : CopyReq) (va : Nat) (write : Bool) : Except CopyFail Nat :=
  if 2 ^ 57 ≤ va then .error (.xlat .prot (va % 2 ^ 57))
  else match s.xlate c (s.tableOf c r.group) r.asid va (!write) write false with
    | .error f => .error (.xlat f va)
    | .ok pa => if isRemote pa && s.lost.contains (bitsAt pa 40 6) then .error (.lost va) else .ok pa

/-- Bytes of global memory as the engine reads them: the home view (R218). -/
def State.copyRead (s : State) (c : Nat) (r : CopyReq) (va : Nat) : Nat → Except CopyFail (List Byte)
  | 0 => .ok []
  | n + 1 =>
    match s.copyPa c r va false with
    | .error f => .error f
    | .ok pa =>
      if s.isPoisoned (pa / 64) then .error (.poison (pa / 64))
      else match State.copyRead s c r (va + 1) n with
        | .error f => .error f
        | .ok bs => .ok (s.homeByte pa :: bs)

/-- Physical addresses of bytes that the engine will write. -/
def State.copyTargets (s : State) (c : Nat) (r : CopyReq) (va : Nat) : Nat → Except CopyFail (List Nat)
  | 0 => .ok []
  | n + 1 =>
    match s.copyPa c r va true with
    | .error f => .error f
    | .ok pa => match State.copyTargets s c r (va + 1) n with
      | .error f => .error f
      | .ok ps => .ok (pa :: ps)

/-- The values a byte may have for the read of row `i` (R219): as it stands but for what row `i` itself has written, and
old or new for the eight rows before it. -/
def State.copyByte (s : State) (c : Nat) (r : CopyReq) (seed i a : Nat) : Byte :=
  let base := match r.shadow.find? (fun e => e.1 = i && e.2.1 = a) with
    | some e => e.2.2
    | none => (s.group c r.group).padByte a
  let olds := (r.shadow.filter (fun e => decide (e.1 < i) && decide (i ≤ e.1 + 8) && e.2.1 = a)).map (·.2.2)
  let news := (s.core c).chunks.filterMap (fun q =>
    if q.req = r.id && q.dest = .pad && decide (q.row < i) && decide (i ≤ q.row + 8) then
      q.writes.findSome? (fun w => if decide (w.1 ≤ a) && decide (a < w.1 + w.2.length) then w.2[a - w.1]? else none)
    else none)
  let all := base :: (olds ++ news)
  all.getD ((Config.free seed (700000000 + a)).toNat % all.length) base

/-- Scratchpad bytes for the read of row `i`. -/
def State.copyPad (s : State) (c : Nat) (r : CopyReq) (seed i a n : Nat) : List Byte :=
  (List.range n).map (fun k => s.copyByte c r seed i (a + k))

/-! DECODE (R217) -/

/-- Codes of each length. -/
def CopyReq.codes (r : CopyReq) (len : Nat) : Nat := (r.table.getD (len - 1) 0).toNat

/-- The counts over-subscribe the code space. -/
def CopyReq.overSubscribed (r : CopyReq) : Bool :=
  decide (2 ^ 16 < (List.range 16).foldl (fun a i => a + r.codes (i + 1) * 2 ^ (15 - i)) 0)

/-- Outcome of decoding one code. -/
inductive Code where
  | sym (b : Byte) (bits : Nat)
  | bad
  | fail (f : CopyFail)
  deriving DecidableEq, Repr

/-- The symbol at place `t` of a code table, for the code at a bit position; beyond the 256 symbols that the table holds, a byte that
nothing constrains (log entry 133). -/
def CopyReq.symbol (r : CopyReq) (seed pos t : Nat) : Byte :=
  if t < 256 then r.table.getD (16 + t) 0 else BitVec.ofNat 8 (Config.free seed (900000000 + pos)).toNat

/-- Decodes a code bit by bit: `len` bits have been read as `code`; `first` is the first code of that length plus one and
`idx` the symbols passed. -/
def State.decodeCode (s : State) (c : Nat) (r : CopyReq) (seed pos : Nat) : Nat → Nat → Nat → Nat → Nat → Code
  | 0, _, _, _, _ => .bad
  | n + 1, len, code, first, idx =>
    let at' := pos + len
    if 8 * rqf r.words 2 31 0 ≤ at' then .bad
    else match s.copyRead c r (rqf r.words 1 56 0 + at' / 8) 1 with
      | .error f => .fail f
      | .ok bs =>
        let code := code * 2 + ((bs.headD 0).toNat / 2 ^ (at' % 8)) % 2
        let k := r.codes (len + 1)
        if first ≤ code && code < first + k then .sym (r.symbol seed pos (idx + (code - first))) (len + 1)
        else State.decodeCode s c r seed pos n (len + 1) code ((first + k) * 2) (idx + k)

/-- Decodes up to `n` output bytes from a bit position: the bytes, the position after them, and what stopped it. -/
def State.decodeBytes (s : State) (c : Nat) (r : CopyReq) (seed : Nat) : Nat → Nat → List Byte × Nat × Option CopyFail
  | 0, pos => ([], pos, none)
  | n + 1, pos =>
    match s.decodeCode c r seed pos 16 0 0 0 0 with
    | .bad => ([], pos, some (.illegal 3))
    | .fail f => ([], pos, some f)
    | .sym b bits =>
      let q := State.decodeBytes s c r seed n (pos + bits)
      (b :: q.1, q.2)

/-! Starting a chunk (R219, R271) -/

/-- What a chunk is to do: the request with what it has latched, where its bytes go, how many the row yields, and what
stops the request after it. -/
structure ChunkWork where
  req : CopyReq
  dest : ChunkDest
  writes : List (Nat × List Byte)
  bytes : Nat
  stop : Option CopyFail
  /-- Global memory that it reads, and scratchpad: address and bytes. -/
  reads : List (Nat × Nat)
  pads : List (Nat × Nat)
  deriving DecidableEq, Repr

def ChunkWork.pad (r : CopyReq) (a : Nat) (bs : List Byte) : ChunkWork :=
  { req := r, dest := .pad, writes := if bs.isEmpty then [] else [(a, bs)], bytes := bs.length, stop := none, reads := [], pads := [] }

/-- Bytes with their physical addresses, as writes that each lie in one line. -/
def lineRuns : List (Nat × Byte) → List (Nat × List Byte)
  | [] => []
  | (a, b) :: r =>
    match lineRuns r with
    | (x, bs) :: q => if x = a + 1 && x % 64 ≠ 0 then (a, b :: bs) :: q else (a, [b]) :: (x, bs) :: q
    | [] => [(a, [b])]

/-- A chunk's bytes go to global memory. -/
def State.toGlobal (s : State) (c : Nat) (r : CopyReq) (va : Nat) (bs : List Byte) : Except CopyFail ChunkWork :=
  match s.copyTargets c r va bs.length with
  | .error f => .error f
  | .ok ps => .ok { req := r, dest := .global, writes := lineRuns (ps.zip bs), bytes := bs.length, stop := none, reads := [], pads := [] }

/-- Reads into scratchpad from global memory. -/
def State.fromGlobal (s : State) (c : Nat) (r : CopyReq) (va n : Nat) : Except CopyFail ChunkWork :=
  match s.copyRead c r va n with
  | .error f => .error f
  | .ok bs => .ok { ChunkWork.pad r (r.padRow r.started + r.offset) bs with reads := [(va, n)] }

/-- Work that also reads scratchpad. -/
def alsoPads (l : List (Nat × Nat)) : Except CopyFail ChunkWork → Except CopyFail ChunkWork
  | .ok k => .ok { k with pads := k.pads ++ l }
  | .error f => .error f

/-- Work that also reads global memory. -/
def alsoReads (l : List (Nat × Nat)) : Except CopyFail ChunkWork → Except CopyFail ChunkWork
  | .ok k => .ok { k with reads := k.reads ++ l }
  | .error f => .error f

/-- The index of a row, read as its first chunk starts (R219). -/
def State.copyIndex (s : State) (c : Nat) (r : CopyReq) (seed : Nat) : Nat :=
  if r.offset = 0 then
    let n := rqIdxBytes r.words
    ofBytes (s.copyPad c r seed r.started (rqf r.words 4 31 0 + n * r.started) n)
  else r.idx

/-- The next chunk of TILE (R215). -/
def State.tileWork (s : State) (c : Nat) (r : CopyReq) (seed n : Nat) : Except CopyFail ChunkWork :=
  let ws := r.words
  let i := r.started
  match rqDir ws with
  | 0 => s.fromGlobal c r (rqf ws 1 56 0 + i * rqf ws 3 31 0 + r.offset) n
  | 1 =>
    alsoPads [(r.padRow i + r.offset, n)]
      (s.toGlobal c r (rqf ws 1 56 0 + i * rqf ws 3 31 0 + r.offset) (s.copyPad c r seed i (r.padRow i + r.offset) n))
  | _ =>
    let a := rqf ws 1 31 0 + i * rqf ws 3 31 0 + r.offset
    alsoPads [(a, n)] (.ok (.pad r (r.padRow i + r.offset) (s.copyPad c r seed i a n)))

/-- The next chunk of GATHER or SCATTER (R215). -/
def State.gatherWork (s : State) (c : Nat) (r : CopyReq) (seed n : Nat) : Except CopyFail ChunkWork :=
  let ws := r.words
  let i := r.started
  let x := s.copyIndex c r seed
  let r := { r with idx := x }
  let va := rqf ws 1 56 0 + x * rqf ws 3 31 0 + r.offset
  let w := rqIdxBytes ws
  alsoPads (if r.offset = 0 then [(rqf ws 4 31 0 + w * i, w)] else [])
    (if rqf ws 5 31 0 ≤ x then
      if rqf ws 5 32 32 = 1 then .error .bounds
      else if rqKind ws = 2 then .ok (.pad r (r.padRow i + r.offset) (List.replicate n 0))
      else .ok { req := r, dest := .global, writes := [], bytes := n, stop := none, reads := [], pads := [] }
    else if rqKind ws = 2 then s.fromGlobal c r va n
    else alsoPads [(r.padRow i + r.offset, n)] (s.toGlobal c r va (s.copyPad c r seed i (r.padRow i + r.offset) n)))

/-- The header of a compressed matrix is read and checked, with the first and the last pointer (R216). -/
def State.csrOpen (s : State) (c : Nat) (r : CopyReq) : Except CopyFail CopyReq :=
  match s.copyRead c r (rqf r.words 1 56 0) 64 with
  | .error f => .error f
  | .ok hb =>
    let h := ofBytes hb
    let r0 := rqf r.words 2 31 0
    let rows := rqRows r.words
    let n := csrPtrBytes h
    if csrBad h then .error (.illegal 2)
    else if csrLines h < r0 + rows then .error .bounds
    else match s.copyRead c r (csrPtrVa h + n * r0) n, s.copyRead c r (csrPtrVa h + n * (r0 + rows)) n with
      | .error f, _ => .error f
      | _, .error f => .error f
      | .ok a, .ok b =>
        let first := ofBytes a
        let last := ofBytes b
        let size := (s.group c r.group).padBytes
        if last < first || 2 ^ 32 ≤ last - first || rqf r.words 6 31 0 < last - first then .error .bounds
        else if size < rqf r.words 4 31 0 + rqf r.words 6 31 0 * csrIdxBytes h
            || size < rqf r.words 5 31 0 + rqf r.words 6 31 0 * csrValBytes h then .error .bounds
        else .ok { r with table := hb ++ toBytes 8 first ++ toBytes 4 (last - first) }

/-- Relative pointers from their bytes, each checked against the one before (R216). -/
def csrPointers (first n : Nat) : Nat → Nat → List Byte → Except CopyFail (List Byte)
  | 0, _, _ => .ok []
  | k + 1, prev, bs =>
    let p := ofBytes (bs.take n)
    if p < prev || 2 ^ 32 ≤ p - first then .error .bounds
    else match csrPointers first n k p (bs.drop n) with
      | .error f => .error f
      | .ok r => .ok (toBytes 4 (p - first) ++ r)

/-- The next chunk of CSR or CSC (R216). -/
def State.csrWork (s : State) (c : Nat) (r : CopyReq) (n : Nat) : Except CopyFail ChunkWork :=
  let h := r.csrHeader
  match r.started with
  | 0 =>
    let k := r.offset / 4
    let w := csrPtrBytes h
    (match s.copyRead c r (csrPtrVa h + w * (rqf r.words 2 31 0 + k)) (n / 4 * w) with
      | .error f => .error f
      | .ok bs =>
        (match csrPointers r.csrFirst w (n / 4) (if k = 0 then r.csrFirst else r.csrFirst + r.csrPtr (k - 1)) bs with
          | .error f => .error f
          | .ok out =>
            alsoReads ((if k = 0 then [(rqf r.words 1 56 0, 64)] else []) ++ [(csrPtrVa h + w * (rqf r.words 2 31 0 + k), n / 4 * w)])
              (.ok (.pad { r with table := r.table ++ out } (r.padRow 0 + r.offset) out))))
  | 1 => s.fromGlobal c r (csrIdxVa h + r.csrFirst * csrIdxBytes h + r.offset) n
  | _ => s.fromGlobal c r (csrValVa h + r.csrFirst * csrValBytes h + r.offset) n

/-- A DECODE that starts its first chunk reads its code table, as it stood but for what warps have written since the XKICK, and
holds it (R272). -/
def State.holdTable (s : State) (c : Nat) (r : CopyReq) : CopyReq :=
  if rqKind r.words = 6 && r.table.isEmpty then
    let at_ := rqf r.words 3 31 0
    { r with
      table := (List.range 272).map (fun i => match r.shadow.find? (fun e => e.2.1 = at_ + i) with
        | some e => e.2.2
        | none => (s.group c r.group).padByte (at_ + i))
      shadow := [] }
  else r

/-- The next chunk of DECODE (R217, R272). -/
def State.decodeWork (s : State) (c : Nat) (r : CopyReq) (seed n : Nat) : Except CopyFail ChunkWork :=
  if r.overSubscribed then .error (.illegal 3)
  else
    let q := s.decodeBytes c r seed n r.bitPos
    let at_ := rqf r.words 1 56 0
    alsoPads (if r.bitPos = 0 then [(rqf r.words 3 31 0, 272)] else [])
      (alsoReads [(at_ + r.bitPos / 8, (q.2.1 + 7) / 8 - r.bitPos / 8)]
        (match q.2.2 with
        | none => .ok (.pad { r with bitPos := q.2.1, produced := r.produced + q.1.length } (r.padRow 0 + r.offset) q.1)
        | some (.illegal e) =>
          if q.1.isEmpty then .error (.illegal e)
          else .ok { ChunkWork.pad { r with bitPos := q.2.1, produced := r.produced + q.1.length } (r.padRow 0 + r.offset) q.1 with
                     stop := some (.illegal e) }
        | some f => .error f))

/-- The next chunk of SCALE (R215). -/
def State.scaleWork (s : State) (c : Nat) (r : CopyReq) (n : Nat) : Except CopyFail ChunkWork :=
  match s.copyRead c r (rqf r.words 1 56 0) n with
  | .error f => .error f
  | .ok bs =>
    .ok { req := r, dest := .scale, writes := [(rqf r.words 2 14 0, bs)], bytes := bs.length, stop := none
          reads := [(rqf r.words 1 56 0, n)], pads := [] }

/-- The next chunk of a request. -/
def State.chunkWork (s : State) (c : Nat) (r : CopyReq) (seed n : Nat) : Except CopyFail ChunkWork :=
  match rqKind r.words with
  | 1 => s.tileWork c r seed n
  | 2 | 3 => s.gatherWork c r seed n
  | 4 | 5 => s.csrWork c r n
  | 6 => s.decodeWork c r seed n
  | _ => s.scaleWork c r n

/-- The fault that a failure pends against a slice (R221): classes of Table 16.1, the application cores deciding on a
package that is lost (R380). -/
def CopyFail.pend (f : CopyFail) (mask : Mask32) : PendFault :=
  match f with
  | .xlat .minor va => { cause := 0x08, cls := .s, sub := 2, mask := mask, va := BitVec.ofNat 57 va }
  | .xlat .major va => { cause := 0x08, cls := .w, sub := 2, mask := mask, va := BitVec.ofNat 57 va }
  | .xlat .prot va => { cause := 0x09, cls := .h, sub := 2, mask := mask, va := BitVec.ofNat 57 va }
  | .bounds => { cause := 0x07, cls := .h, sub := 2, mask := mask, va := 0 }
  | .illegal sub => { cause := 0x01, cls := .h, sub := sub, mask := mask, va := 0 }
  | .poison _ => { cause := 0x12, cls := .h, sub := 0, mask := mask, va := 0 }
  | .lost va => { cause := 0x08, cls := .w, sub := 2, mask := mask, va := BitVec.ofNat 57 va }

/-- Puts a request in the place of the one with its number. -/
def Core.setReq (k : Core) (r : CopyReq) : Core := { k with copyq := k.copyq.map (fun x => if x.id = r.id then r else x) }

/-- A request leaves the engine, with its token counted down. -/
def State.dropReq (s : State) (c : Nat) (r : CopyReq) : State :=
  let s := s.modCore c (fun k => { k with
    copyq := k.copyq.filter (fun x => x.id ≠ r.id), chunks := k.chunks.filter (fun q => q.req ≠ r.id) })
  match (s.warp c r.slot).pend.find? (fun p => p.op = .engine r.id) with
  | none => s
  | some p => s.finishPend c r.slot p

/-- A fault that the engine meets (R221): it pends against the live slices of the posting gang and the request is held;
poison is consumed for the workgroup that posted it (R345). -/
def State.copyFault (s : State) (c : Nat) (r : CopyReq) (f : CopyFail) : State :=
  match f with
  | .poison line => (s.readHome line).consume c r.group 5 line
  | _ =>
    let w := s.warp c r.slot
    let live := r.gang &&& w.live
    if live = 0 then s.dropReq c r
    else
      let s := s.modCore c (fun k => k.setReq { r with held := true })
      s.modWarp c r.slot (fun w => w.onGang live (fun _ sl => { sl with pending := sl.pending ++ [f.pend (gangMask live)] }))

/-- A request waits for a slot of its ring. -/
def State.waitsRing (s : State) (c : Nat) (r : CopyReq) : Bool :=
  rqRing r.words && r.ring.isNone
  && (let x := s.group c r.group
      let d := x.ringDesc (rqRingAt r.words)
      !(x.ringBad d) && !(ringReady d true))

/-- The engine may start a chunk of this request: every older one has started all its chunks or waits for a slot of its ring
(R271), or belongs to a workgroup that is being saved, beside which the others run on (R325). -/
def State.mayStart (s : State) (c : Nat) (r : CopyReq) : Bool :=
  let older := (s.core c).copyq.takeWhile (fun q => q.id ≠ r.id)
  older.all (fun q => q.allStarted || s.waitsRing c q || (s.group c q.group).saving.isSome)
  && !r.held && !r.allStarted && decide ((s.core c).chunks.length < 48) && (s.group c r.group).saving.isNone
  && !(s.waitsRing c r)
  && (!([1, 2, 3].contains (rqKind r.words)) || (rqKind r.words = 1 && rqDir r.words = 0) || decide (r.started ≤ r.landed + 8))

/-- A request with RING takes its slot as its first chunk starts (R225). -/
def State.takeBerth (s : State) (c : Nat) (r : CopyReq) : Except CopyFail (State × CopyReq) :=
  if !rqRing r.words || r.ring.isSome then .ok (s, r)
  else
    let a := rqRingAt r.words
    let x := s.group c r.group
    let d := x.ringDesc a
    if x.ringBad d || ringSlot d < rqSlotBytes r.words then .error (.illegal 2)
    else .ok (s.ringTake c r.group a true 0, { r with ring := some (ringP d, ringAddr d (ringP d)) })

/-- Lines of a compressed matrix whose values lie wholly in the first `bytes` bytes of the value area. -/
def CopyReq.linesIn (r : CopyReq) (bytes : Nat) : Nat :=
  ((List.range (rqRows r.words)).filter (fun i => decide (r.csrPtr (i + 1) * csrValBytes r.csrHeader ≤ bytes))).length

/-- Rows that a chunk of `n` bytes counts when it lands (R222). -/
def CopyReq.rowsOf (r : CopyReq) (n : Nat) (last : Bool) : Nat :=
  match rqKind r.words with
  | 4 | 5 =>
    if r.csrCount = 0 then (if last then rqRows r.words else 0)
    else if r.started = 2 then r.linesIn (r.offset + n) - (if r.offset = 0 then 0 else r.linesIn r.offset)
    else 0
  | 6 | 7 => if last then 1 else 0
  | _ => if r.rowLen r.started ≤ r.offset + n then 1 else 0

/-- The first row from `i` that has bytes. -/
def CopyReq.nextRow (r : CopyReq) : Nat → Nat → Nat
  | 0, i => i
  | k + 1, i => if i < r.rowCount && r.rowLen i = 0 then CopyReq.nextRow r k (i + 1) else i

/-- The cursor after a chunk of `n` bytes. -/
def CopyReq.past (r : CopyReq) (n : Nat) : CopyReq :=
  if r.offset + n < r.rowLen r.started then { r with offset := r.offset + n }
  else
    let i := r.nextRow 3 (r.started + 1)
    { r with started := i, offset := 0, allStarted := decide (r.rowCount ≤ i)
             shadow := r.shadow.filter (fun e => decide (i ≤ e.1 + 8)) }

/-- Starts the next chunk of a request, with what its first chunk latches. -/
def State.beginChunk (s : State) (c : Nat) (r : CopyReq) (seed : Nat) : Except CopyFail (State × CopyReq × ChunkWork) :=
  match s.takeBerth c r with
  | .error f => .error f
  | .ok (s, r) =>
    let opened : Except CopyFail CopyReq :=
      if (rqKind r.words = 4 || rqKind r.words = 5) && r.table.isEmpty then s.csrOpen c r else .ok r
    match opened with
    | .error f => .error f
    | .ok r =>
      match s.chunkWork c r seed (min 1024 (r.rowLen r.started - r.offset)) with
      | .error f => .error f
      | .ok k => .ok (s, r, k)

/-- The lines of global memory that a chunk reads pass through the die cache, and their errors are met (R259, R347). -/
def State.copyTouch (s : State) (c : Nat) (r : CopyReq) (k : ChunkWork) : State :=
  (k.reads.flatMap (fun q => (linesOf q.1 q.2).map (fun l => max q.1 (l * 64)))).foldl (fun s va =>
    match s.copyPa c r va false with
    | .ok pa => (s.lineRead c (pa / 64)).1
    | .error _ => s) s

/-- A line that a chunk reads and that is poisoned once it has been folded and read (R266, R348). -/
def State.copyPoison (s : State) (c : Nat) (r : CopyReq) (k : ChunkWork) : Option Nat :=
  if s.poison.isEmpty && s.upsets.isEmpty then none
  else (k.reads.flatMap (fun q => (linesOf q.1 q.2).map (fun l => max q.1 (l * 64)))).findSome? (fun va =>
    match s.copyPa c r va false with
    | .ok pa => if s.isPoisoned (pa / 64) then some (pa / 64) else none
    | .error _ => none)

/-- The words of scratchpad that a chunk reads, its ring's descriptor among them, meet their errors (R345, R347). -/
def State.copyMeet (s : State) (c : Nat) (r : CopyReq) (k : ChunkWork) : State × Option (Nat × Nat) :=
  if s.upsets.isEmpty then (s, none)
  else s.meetWords ((k.pads ++ if rqRing r.words && r.ring.isNone then [(rqRingAt r.words, 32)] else []).flatMap (fun (q : Nat × Nat) =>
    s.padWords q.2 (objAcc c r.group q.1)))

/-- COPY_CHUNK_START (R271). -/
def State.startChunk (s : State) (c req : Nat) : State :=
  match (s.core c).copyq.find? (fun r => r.id = req) with
  | none => s
  | some r =>
    if !(s.mayStart c r) then s
    else
      let (d, s) := s.draw1
      let r := s.holdTable c r
      match s.beginChunk c r d with
      | .error f => s.copyFault c r f
      | .ok (s', _, k) =>
        let s' := s'.copyTouch c r k
        match s'.copyPoison c r k with
        | some line => s'.copyFault c r (.poison line)
        | none =>
        match s'.copyMeet c r k with
        | (s', some x) => s'.consume c r.group x.1 x.2
        | (s', none) =>
        let s' := if k.pads.isEmpty then s' else s'.served c 1
        let r1 := k.req
        let r2 := r1.past k.bytes
        let q : Chunk :=
          { id := (s'.core c).nextReq, req := req, row := r1.started, dest := k.dest, writes := k.writes, bytes := k.bytes
            rows := r1.rowsOf k.bytes r2.allStarted, last := r2.allStarted }
        let s' := s'.modCore c (fun x => { (x.setReq r2) with chunks := x.chunks ++ [q], nextReq := x.nextReq + 1 })
        match k.stop with
        | none => s'
        | some f => s'.copyFault c r2 f

def execCopyChunkStart (core req : Nat) (s : State) : Host.Outcome State Fault Refusal := .next (s.startChunk core req)

/-! Landing (R220, R222) -/

/-- Applies a chunk's writes: to the overlay as stores of the workgroup, to scale memory, or to scratchpad, keeping old bytes
for the rows that may still be read (R218, R219). -/
def State.applyChunk (s : State) (c : Nat) (r : CopyReq) (q : Chunk) : State :=
  match q.dest with
  | .global =>
    let s := if (s.core c).sealsFirst r.group (q.writes.map (fun w => w.1 / 64)) then s.sealSeg c false else s
    q.writes.foldl (fun s w => (s.storeBytes c r.group w.1 w.2).spoilSpilled w.1 w.2.length) s
  | .scale => q.writes.foldl (fun s w => s.scaleWrite c r.group w.1 w.2) s
  | .pad =>
    let x := s.group c r.group
    let olds := q.writes.flatMap (fun w => (List.range w.2.length).map (fun i => (q.row, w.1 + i, x.padByte (w.1 + i))))
    let keep := r.started ≤ q.row + 8 && !r.allStarted
    let s := q.writes.foldl (fun s w => s.padWrite c r.group w.1 w.2 0) (s.served c 1)
    if keep then s.modCore c (fun k => k.setReq { r with shadow := r.shadow ++ olds }) else s

/-- The last chunk of a request has landed: its ring slot counts as filled once every earlier one is (R225), and its token
is counted down (R213). -/
def State.endReq (s : State) (c : Nat) (r : CopyReq) : State :=
  let s := match r.ring with
    | none => s
    | some (n, _) =>
      let a := rqRingAt r.words
      let s := s.modGroup c r.group (fun x => { x with owed := x.owed ++ [(a, n)] })
      s.fillOwed c r.group a (s.group c r.group).owed.length
  s.dropReq c r

/-- The objects that a landing counts on, its barrier and at the last chunk its ring's descriptor, meet their errors (R345). -/
def State.landMeet (s : State) (c : Nat) (r : CopyReq) (q : Chunk) : State × Option (Nat × Nat) :=
  if s.upsets.isEmpty then (s, none)
  else s.meetWords ((if rqLben r.words then s.padWords 8 (objAcc c r.group (rqLb r.words)) else [])
    ++ (if q.last && r.ring.isSome then s.padWords 32 (objAcc c r.group (rqRingAt r.words)) else []))

/-- What a chunk has written is known complete by its request's token, and by its landing barrier (R199, R220). -/
def State.tagChunk (s : State) (c : Nat) (r : CopyReq) (q : Chunk) : State :=
  let key := fun (a : Nat) => match q.dest with | .scale => scaleKey a | _ => a
  let mine := fun (k : Nat) (u : Unfenced) => u.writer = 0 && q.writes.any (fun w => decide (key w.1 ≤ k) && decide (k < key w.1 + w.2.length))
  match q.dest with
  | .global => s
  | _ => s.modGroup c r.group (fun x =>
    let x := if r.tok = 0 then x else x.tagWrites (tokTag r.slot r.tok) mine
    if rqLben r.words then x.tagWrites (2 * rqLb r.words) mine else x)

/-- COPY_CHUNK_LAND: chunks of one request land in order; a global write waits for room in the log (R180). -/
def State.landChunk (s : State) (c chunk : Nat) : State :=
  let k := s.core c
  match k.chunks.find? (fun q => q.id = chunk) with
  | none => s
  | some q =>
    match k.copyq.find? (fun r => r.id = q.req), k.chunks.find? (fun x => x.req = q.req) with
    | some r, some f =>
      if f.id ≠ q.id || (q.dest = .global && k.logFull r.group (q.writes.map (fun w => w.1 / 64))) then s
      else
        match s.landMeet c r q with
        | (s, some x) => s.consume c r.group x.1 x.2
        | (s, none) =>
        let s := (s.applyChunk c r q).tagChunk c r q
        let s := s.modCore c (fun k => { k with
          chunks := k.chunks.filter (fun x => x.id ≠ q.id)
          copyq := k.copyq.map (fun (x : CopyReq) => if x.id = r.id then { x with landed := x.landed + q.rows } else x) })
        let s := if rqLben r.words then
            s.lbApply c r.group (rqLb r.words) (if lbUnit (s.lbRead c r.group (rqLb r.words)) = 1 then q.rows else q.bytes) 0
          else s
        let s := s.count c (coreCtr 0x4A) 1
        if q.last then s.endReq c r else s
    | _, _ => s

end Sys2Proof.Machine
end

