-- ==== Sys2Proof/WellFormed.lean ====
section
/-! DEFINITION. Well-formed instructions: those whose fields pass step 5 of R86. -/

namespace Sys2Proof

/-- An instruction whose header and fields its entry accepts (R72, R77, R81, R83). -/
def Instr.wellFormed (i : Instr) : Bool := Machine.fieldsOk i

end Sys2Proof
end

