-- ==== Sys2Proof/Decode.lean ====
section
/-! DEFINITION. Decoding: from the 96 bits of a slot (R65, R72, R77, Tables 3.2 to 3.9, 3.12, 3.15) to an instruction,
or a refusal by name; and the encoder, written from the same tables. A slot is held as a natural number whose bit 0
is header bit 0. -/

namespace Sys2Proof

/-- Why a slot is no instruction. Each is the ILLEGAL of R86, at step 3 or at step 5. -/
inductive Reject where
  /-- Fewer than the 12 bytes of a slot. -/
  | short
  /-- A reserved opcode of Table 3.15 (step 3). -/
  | opcode
  /-- Nonzero reserved bits of the header (step 5). -/
  | header
  /-- Nonzero reserved bits of the format, or a reserved specifier (step 5). -/
  | format
  /-- A field that the entry does not accept (step 5). -/
  | field
  deriving DecidableEq, Repr

/-- Bits `lo + n - 1` down to `lo` of `w`. -/
def fld (w lo n : Nat) : Nat := w / 2 ^ lo % 2 ^ n

/-- A bit of `w`. -/
def fldBit (w lo : Nat) : Bool := fld w lo 1 = 1

/-- An operand specifier byte (Table 3.12); 0xC0 to 0xFF are reserved (R80). -/
def operandOf (b : Nat) : Option Operand :=
  if b < 0x40 then some (.f (Fin.ofNat 64 b))
  else if b < 0x60 then some (.s (Fin.ofNat 32 (b - 0x40)))
  else if b < 0x70 then some (.b (Fin.ofNat 16 (b - 0x60)))
  else if b < 0x78 then some (.m (Fin.ofNat 8 (b - 0x70)))
  else if b < 0x80 then some (.p (Fin.ofNat 8 (b - 0x78)))
  else if b < 0xC0 then some (.c (Fin.ofNat 64 (b - 0x80)))
  else none

/-- The specifier byte of an operand (Table 3.12). -/
def operandByte : Operand → Nat
  | .f i => i.val
  | .s i => 0x40 + i.val
  | .b i => 0x60 + i.val
  | .m i => 0x70 + i.val
  | .p i => 0x78 + i.val
  | .c i => 0x80 + i.val

/-- The operand named by the specifier byte at bit `lo`. -/
def operandAt (w lo : Nat) : Option Operand := operandOf (fld w lo 8)

/-- The header fields of Table 3.2. -/
def getHeader (w : Nat) : Header where
  lvl := BitVec.ofNat 2 (fld w 26 2)
  drain := BitVec.ofNat 6 (fld w 20 6)
  settok := BitVec.ofNat 3 (fld w 17 3)
  gneg := fldBit w 16
  guard := BitVec.ofNat 3 (fld w 13 3)
  yield := fldBit w 12
  stall := BitVec.ofNat 4 (fld w 8 4)

/-- Table 3.4. -/
def getA (w : Nat) : Option FmtA := do
  let srcC ← operandAt w 56
  let srcB ← operandAt w 48
  let srcA ← operandAt w 40
  let dst ← operandAt w 32
  if fld w 86 10 = 0 then
    some { pdst := BitVec.ofNat 3 (fld w 83 3), sat := fldBit w 82, rm := BitVec.ofNat 2 (fld w 80 2),
           type := BitVec.ofNat 4 (fld w 76 4), subop := BitVec.ofNat 4 (fld w 72 4),
           xmod := BitVec.ofNat 8 (fld w 64 8), srcC, srcB, srcA, dst }
  else none

/-- Table 3.5. -/
def getB (w : Nat) : Option FmtB := do
  let srcA ← operandAt w 40
  let dst ← operandAt w 32
  if fld w 93 3 = 0 then
    some { pdst := BitVec.ofNat 3 (fld w 90 3), rm := BitVec.ofNat 2 (fld w 88 2),
           type := BitVec.ofNat 4 (fld w 84 4), subop := BitVec.ofNat 4 (fld w 80 4),
           imm := BitVec.ofNat 32 (fld w 48 32), srcA, dst }
  else none

/-- Table 3.6. -/
def getC (w : Nat) : Option FmtC := do
  let srcB ← operandAt w 40
  let srcA ← operandAt w 32
  if fld w 92 4 = 0 then
    some { subop := BitVec.ofNat 4 (fld w 88 4), mode := BitVec.ofNat 2 (fld w 86 2),
           k := BitVec.ofNat 7 (fld w 79 7), size := BitVec.ofNat 7 (fld w 72 7),
           offset := BitVec.ofNat 24 (fld w 48 24), srcB, srcA }
  else none

/-- Table 3.7. -/
def getD (w : Nat) : Option FmtD := do
  let data ← operandAt w 56
  let index ← operandAt w 48
  let buf ← operandAt w 40
  let dst ← operandAt w 32
  if fld w 93 3 = 0 then
    some { scope := BitVec.ofNat 3 (fld w 90 3), order := BitVec.ofNat 2 (fld w 88 2), hbit := fldBit w 87,
           size := BitVec.ofNat 3 (fld w 84 3), subop := BitVec.ofNat 4 (fld w 80 4),
           offset := BitVec.ofNat 16 (fld w 64 16), data, index, buf, dst }
  else none

/-- Table 3.8. -/
def getE (w : Nat) : Option FmtE := do
  let srcC ← operandAt w 56
  let srcB ← operandAt w 48
  let srcA ← operandAt w 40
  let dst ← operandAt w 32
  if fld w 87 9 = 0 then
    some { scope := BitVec.ofNat 3 (fld w 84 3), subop := BitVec.ofNat 4 (fld w 80 4),
           imm := BitVec.ofNat 16 (fld w 64 16), srcC, srcB, srcA, dst }
  else none

/-- Table 3.9. -/
def getG (w : Nat) : Option FmtG := do
  let aux ← operandAt w 77
  let fmt ← operandAt w 48
  let opx ← operandAt w 40
  let opw ← operandAt w 32
  if fld w 85 11 = 0 then
    some { aux, subop := BitVec.ofNat 4 (fld w 73 4), sparse := fldBit w 72, split := fldBit w 71,
           count := BitVec.ofNat 7 (fld w 64 7), stride := BitVec.ofNat 3 (fld w 61 3),
           acc := BitVec.ofNat 5 (fld w 56 5), fmt, opx, opw }
  else none

/-- The opcodes of Table 3.15 that are instructions. -/
def opcodeUsed (op : Nat) : Bool :=
  op < 0x2B || (0x30 ≤ op && op < 0x3C) || (0x40 ≤ op && op < 0x50) || (0x60 ≤ op && op < 0x73)
  || (0x88 ≤ op && op < 0x93) || (0xA0 ≤ op && op < 0xA4) || (0xB0 ≤ op && op < 0xBB)
  || (0xD0 ≤ op && op < 0xD8) || (0xE0 ≤ op && op < 0xEB) || (0xF0 ≤ op && op < 0xF4)

/-- The opcodes of the FP64 extension (R84). -/
def opcodeFp64 (op : Nat) : Bool := 0x88 ≤ op && op < 0x90

/-- The instruction of an opcode with the fields of its format (Tables 3.15 and 3.16). Six opcodes carry two rows of
the table of operations, told apart by a variant field. -/
def buildInstr (op w : Nat) (h : Header) : Option Instr :=
  match op with
  | 0x00 => (getA w).map (.nop h)
  | 0x01 => (getA w).map (.mov h)
  | 0x02 => (getB w).map (.movi h)
  | 0x03 => (getB w).map (.movih h)
  | 0x04 => (getA w).map (.add h)
  | 0x05 => (getB w).map (.addi h)
  | 0x06 => (getA w).map (.sub h)
  | 0x07 => (getA w).map (.neg h)
  | 0x08 => (getA w).map (.mul h)
  | 0x09 => (getB w).map (.muli h)
  | 0x0A => (getA w).map (.mulhi h)
  | 0x0B => (getA w).map (.mad h)
  | 0x0C => (getA w).map (.madw h)
  | 0x0D => (getA w).map (.minI h)
  | 0x0E => (getA w).map (.maxI h)
  | 0x0F => (getA w).map (.absI h)
  | 0x10 => (getA w).map (.andB h)
  | 0x11 => (getB w).map (.andi h)
  | 0x12 => (getA w).map (.orB h)
  | 0x13 => (getB w).map (.ori h)
  | 0x14 => (getA w).map (.xorB h)
  | 0x15 => (getB w).map (.xori h)
  | 0x16 => (getA w).map (.notB h)
  | 0x17 => (getA w).map (.andn h)
  | 0x18 => (getA w).map (.shl h)
  | 0x19 => (getA w).map (.shr h)
  | 0x1A => (getB w).map (.shi h)
  | 0x1B => (getA w).map (.rol h)
  | 0x1C => (getA w).map (.ror h)
  | 0x1D => (getA w).map (.bfe h)
  | 0x1E => (getA w).map (.bfi h)
  | 0x1F => (getA w).map (.popc h)
  | 0x20 => (getA w).map (.clz h)
  | 0x21 => (getA w).map (.brev h)
  | 0x22 => (getA w).map (.sel h)
  | 0x23 => (getA w).map (.setp h)
  | 0x24 => (getB w).map (.setpi h)
  | 0x25 => (getA w).map (.clamp h)
  | 0x26 => (getA w).map (.lea h)
  | 0x27 => (getA w).map (.rdlane h)
  | 0x28 => (getA w).map (.wrlane h)
  | 0x29 => (getA w).map (.sext h)
  | 0x2A => (getA w).map (.zext h)
  | 0x30 => (getA w).map (.plop h)
  | 0x31 => (getA w).map (.pmov h)
  | 0x32 => (getA w).map (.mlop h)
  | 0x33 => (getA w).map (.mmov h)
  | 0x34 => (getA w).map (.ballot h)
  | 0x35 => (getA w).map (.anyP h)
  | 0x36 => (getA w).map (.allP h)
  | 0x37 => (getA w).map (.mfirst h)
  | 0x38 => (getA w).map (.mcount h)
  | 0x39 => (getA w).map (.mtop h)
  | 0x3A => (getB w).map (.mseti h)
  | 0x3B => (getB w).map (.pseti h)
  | 0x40 => (getC w).map (.br h)
  | 0x41 => (getC w).map (.brx h)
  | 0x42 => (getC w).map (.call h)
  | 0x43 => (getC w).map (.calli h)
  | 0x44 => (getC w).map fun o => if o.subop = 1 then .tcallIndirect h o else .tcall h o
  | 0x45 => (getC w).map (.ret h)
  | 0x46 => (getC w).map (.frame h)
  | 0x47 => (getC w).map (.regang h)
  | 0x48 => (getC w).map (.gate h)
  | 0x49 => (getC w).map (.gret h)
  | 0x4A => (getC w).map (.yield h)
  | 0x4B => (getC w).map (.exit h)
  | 0x4C => (getC w).map (.trap h)
  | 0x4D => (getC w).map (.bkpt h)
  | 0x4E => (getC w).map (.waitk h)
  | 0x4F => (getC w).map (.supret h)
  | 0x60 => (getA w).map (.fadd h)
  | 0x61 => (getA w).map (.fsub h)
  | 0x62 => (getA w).map (.fmul h)
  | 0x63 => (getA w).map (.ffma h)
  | 0x64 => (getA w).map (.fmin h)
  | 0x65 => (getA w).map (.fmax h)
  | 0x66 => (getA w).map (.fabs h)
  | 0x67 => (getA w).map (.fneg h)
  | 0x68 => (getA w).map (.fsetp h)
  | 0x69 => (getA w).map (.fclass h)
  | 0x6A => (getA w).map (.frcp h)
  | 0x6B => (getA w).map (.fsqrt h)
  | 0x6C => (getA w).map (.frsq h)
  | 0x6D => (getA w).map (.fexp2 h)
  | 0x6E => (getA w).map (.flog2 h)
  | 0x6F => (getB w).map (.faddi h)
  | 0x70 => (getB w).map (.fmuli h)
  | 0x71 => (getA w).map (.fdot2 h)
  | 0x72 => (getA w).map (.frnd h)
  | 0x88 => (getA w).map (.dadd h)
  | 0x89 => (getA w).map (.dsub h)
  | 0x8A => (getA w).map (.dmul h)
  | 0x8B => (getA w).map (.dfma h)
  | 0x8C => (getA w).map (.dmin h)
  | 0x8D => (getA w).map (.dmax h)
  | 0x8E => (getA w).map (.dsetp h)
  | 0x8F => (getA w).map (.dsqrt h)
  | 0x90 => (getA w).map (.cvt h)
  | 0x91 => (getA w).map (.pcvt h)
  | 0x92 => (getA w).map (.qblk h)
  | 0xA0 => (getA w).map (.xshf h)
  | 0xA1 => (getA w).map (.xbcast h)
  | 0xA2 => (getA w).map (.xred h)
  | 0xA3 => (getA w).map (.xscan h)
  | 0xB0 => (getD w).map fun o => if o.hbit then .ldH h o else .ld h o
  | 0xB1 => (getD w).map (.st h)
  | 0xB2 => (getD w).map (.lds h)
  | 0xB3 => (getD w).map (.sts h)
  | 0xB4 => (getD w).map (.ldl h)
  | 0xB5 => (getD w).map (.atom h)
  | 0xB6 => (getD w).map (.atoms h)
  | 0xB7 => (getD w).map (.acq h)
  | 0xB8 => (getD w).map (.rel h)
  | 0xB9 => (getD w).map (.fence h)
  | 0xBA => (getD w).map (.seal h)
  | 0xD0 => (getE w).map (.xkick h)
  | 0xD1 => (getE w).map (.lbinit h)
  | 0xD2 => (getE w).map (.lbarrive h)
  | 0xD3 => (getE w).map (.lbwait h)
  | 0xD4 => (getE w).map fun o => if o.subop = 1 then .ringgetFree h o else .ringget h o
  | 0xD5 => (getE w).map fun o => if o.subop = 1 then .ringputFill h o else .ringput h o
  | 0xD6 => (getE w).map (.barr h)
  | 0xD7 => (getE w).map (.launch h)
  | 0xE0 => (getG w).map (.mshape h)
  | 0xE1 => (getG w).map fun o => if o.subop = 1 then .mteamRd h o else .mteam h o
  | 0xE2 => (getG w).map (.mstride h)
  | 0xE3 => (getG w).map (.mfence h)
  | 0xE4 => (getG w).map (.bfly h)
  | 0xE5 => (getG w).map (.bchain h)
  | 0xE6 => (getG w).map fun o => if o.subop = 1 then .mscaleOut h o else .mscale h o
  | 0xE7 => (getG w).map (.mwait h)
  | 0xE8 => (getG w).map (.mload h)
  | 0xE9 => (getG w).map (.mstore h)
  | 0xEA => (getG w).map (.mzero h)
  | 0xF0 => (getE w).map (.rdctr h)
  | 0xF1 => (getE w).map (.rdtick h)
  | 0xF2 => (getE w).map (.mfs h)
  | 0xF3 => (getE w).map (.mts h)
  | _ => none

/-- The instruction of a 96-bit slot, or why there is none, in the order of R86 steps 3 and 5. -/
def decodeSlot (w : Nat) : Except Reject Instr :=
  let op := fld w 0 8
  if !opcodeUsed op then .error .opcode
  else if fld w 28 4 ≠ 0 then .error .header
  else match buildInstr op w (getHeader w) with
    | none => .error .format
    | some i => if i.wellFormed then .ok i else .error .field

/-- A little-endian value of bytes (R5). -/
def leNat : List Byte → Nat
  | [] => 0
  | b :: bs => b.toNat + 256 * leNat bs

/-- The `n` bytes of a value, lowest first (R5). -/
def leBytes : Nat → Nat → List Byte
  | 0, _ => []
  | n + 1, v => BitVec.ofNat 8 v :: leBytes n (v / 256)

/-- Decode the instruction at the head of a list of bytes, with the bytes that follow its slot. -/
def decode (bs : List Byte) : Except Reject (Instr × List Byte) :=
  if bs.length < 12 then .error .short
  else match decodeSlot (leNat (bs.take 12)) with
    | .error r => .error r
    | .ok i => .ok (i, bs.drop 12)

/-- The instruction of a word whose bit 0 is the least significant bit of the slot's first byte. -/
def decodeTableWord (nbits w : Nat) : Option Instr :=
  match decode (leBytes 12 (w % 2 ^ nbits)) with
  | .ok (i, _) => some i
  | .error _ => none

/-! The encoder. -/

/-- The header with its opcode (Table 3.2). -/
def packHeader (op : Nat) (h : Header) : Nat :=
  op + 2 ^ 8 * h.stall.toNat + 2 ^ 12 * h.yield.toNat + 2 ^ 13 * h.guard.toNat + 2 ^ 16 * h.gneg.toNat
  + 2 ^ 17 * h.settok.toNat + 2 ^ 20 * h.drain.toNat + 2 ^ 26 * h.lvl.toNat

def packA (op : Nat) (h : Header) (o : FmtA) : Nat :=
  packHeader op h + 2 ^ 32 * operandByte o.dst + 2 ^ 40 * operandByte o.srcA + 2 ^ 48 * operandByte o.srcB
  + 2 ^ 56 * operandByte o.srcC + 2 ^ 64 * o.xmod.toNat + 2 ^ 72 * o.subop.toNat + 2 ^ 76 * o.type.toNat
  + 2 ^ 80 * o.rm.toNat + 2 ^ 82 * o.sat.toNat + 2 ^ 83 * o.pdst.toNat

def packB (op : Nat) (h : Header) (o : FmtB) : Nat :=
  packHeader op h + 2 ^ 32 * operandByte o.dst + 2 ^ 40 * operandByte o.srcA + 2 ^ 48 * o.imm.toNat
  + 2 ^ 80 * o.subop.toNat + 2 ^ 84 * o.type.toNat + 2 ^ 88 * o.rm.toNat + 2 ^ 90 * o.pdst.toNat

def packC (op : Nat) (h : Header) (o : FmtC) : Nat :=
  packHeader op h + 2 ^ 32 * operandByte o.srcA + 2 ^ 40 * operandByte o.srcB + 2 ^ 48 * o.offset.toNat
  + 2 ^ 72 * o.size.toNat + 2 ^ 79 * o.k.toNat + 2 ^ 86 * o.mode.toNat + 2 ^ 88 * o.subop.toNat

def packD (op : Nat) (h : Header) (o : FmtD) : Nat :=
  packHeader op h + 2 ^ 32 * operandByte o.dst + 2 ^ 40 * operandByte o.buf + 2 ^ 48 * operandByte o.index
  + 2 ^ 56 * operandByte o.data + 2 ^ 64 * o.offset.toNat + 2 ^ 80 * o.subop.toNat + 2 ^ 84 * o.size.toNat
  + 2 ^ 87 * o.hbit.toNat + 2 ^ 88 * o.order.toNat + 2 ^ 90 * o.scope.toNat

def packE (op : Nat) (h : Header) (o : FmtE) : Nat :=
  packHeader op h + 2 ^ 32 * operandByte o.dst + 2 ^ 40 * operandByte o.srcA + 2 ^ 48 * operandByte o.srcB
  + 2 ^ 56 * operandByte o.srcC + 2 ^ 64 * o.imm.toNat + 2 ^ 80 * o.subop.toNat + 2 ^ 84 * o.scope.toNat

def packG (op : Nat) (h : Header) (o : FmtG) : Nat :=
  packHeader op h + 2 ^ 32 * operandByte o.opw + 2 ^ 40 * operandByte o.opx + 2 ^ 48 * operandByte o.fmt
  + 2 ^ 56 * o.acc.toNat + 2 ^ 61 * o.stride.toNat + 2 ^ 64 * o.count.toNat + 2 ^ 71 * o.split.toNat
  + 2 ^ 72 * o.sparse.toNat + 2 ^ 73 * o.subop.toNat + 2 ^ 77 * operandByte o.aux

/-- The slot of an instruction; an event has none. -/
def encode : Instr → Option Nat
  | .nop h o => some (packA 0x00 h o)
  | .mov h o => some (packA 0x01 h o)
  | .movi h o => some (packB 0x02 h o)
  | .movih h o => some (packB 0x03 h o)
  | .add h o => some (packA 0x04 h o)
  | .addi h o => some (packB 0x05 h o)
  | .sub h o => some (packA 0x06 h o)
  | .neg h o => some (packA 0x07 h o)
  | .mul h o => some (packA 0x08 h o)
  | .muli h o => some (packB 0x09 h o)
  | .mulhi h o => some (packA 0x0A h o)
  | .mad h o => some (packA 0x0B h o)
  | .madw h o => some (packA 0x0C h o)
  | .minI h o => some (packA 0x0D h o)
  | .maxI h o => some (packA 0x0E h o)
  | .absI h o => some (packA 0x0F h o)
  | .clamp h o => some (packA 0x25 h o)
  | .andB h o => some (packA 0x10 h o)
  | .andi h o => some (packB 0x11 h o)
  | .orB h o => some (packA 0x12 h o)
  | .ori h o => some (packB 0x13 h o)
  | .xorB h o => some (packA 0x14 h o)
  | .xori h o => some (packB 0x15 h o)
  | .notB h o => some (packA 0x16 h o)
  | .andn h o => some (packA 0x17 h o)
  | .shl h o => some (packA 0x18 h o)
  | .shr h o => some (packA 0x19 h o)
  | .shi h o => some (packB 0x1A h o)
  | .rol h o => some (packA 0x1B h o)
  | .ror h o => some (packA 0x1C h o)
  | .bfe h o => some (packA 0x1D h o)
  | .bfi h o => some (packA 0x1E h o)
  | .popc h o => some (packA 0x1F h o)
  | .clz h o => some (packA 0x20 h o)
  | .brev h o => some (packA 0x21 h o)
  | .sel h o => some (packA 0x22 h o)
  | .setp h o => some (packA 0x23 h o)
  | .setpi h o => some (packB 0x24 h o)
  | .lea h o => some (packA 0x26 h o)
  | .rdlane h o => some (packA 0x27 h o)
  | .wrlane h o => some (packA 0x28 h o)
  | .sext h o => some (packA 0x29 h o)
  | .zext h o => some (packA 0x2A h o)
  | .plop h o => some (packA 0x30 h o)
  | .pmov h o => some (packA 0x31 h o)
  | .mlop h o => some (packA 0x32 h o)
  | .mmov h o => some (packA 0x33 h o)
  | .ballot h o => some (packA 0x34 h o)
  | .anyP h o => some (packA 0x35 h o)
  | .allP h o => some (packA 0x36 h o)
  | .mfirst h o => some (packA 0x37 h o)
  | .mcount h o => some (packA 0x38 h o)
  | .mtop h o => some (packA 0x39 h o)
  | .mseti h o => some (packB 0x3A h o)
  | .pseti h o => some (packB 0x3B h o)
  | .br h o => some (packC 0x40 h o)
  | .brx h o => some (packC 0x41 h o)
  | .call h o => some (packC 0x42 h o)
  | .calli h o => some (packC 0x43 h o)
  | .tcall h o => some (packC 0x44 h o)
  | .tcallIndirect h o => some (packC 0x44 h o)
  | .ret h o => some (packC 0x45 h o)
  | .frame h o => some (packC 0x46 h o)
  | .regang h o => some (packC 0x47 h o)
  | .gate h o => some (packC 0x48 h o)
  | .gret h o => some (packC 0x49 h o)
  | .yield h o => some (packC 0x4A h o)
  | .exit h o => some (packC 0x4B h o)
  | .trap h o => some (packC 0x4C h o)
  | .bkpt h o => some (packC 0x4D h o)
  | .waitk h o => some (packC 0x4E h o)
  | .supret h o => some (packC 0x4F h o)
  | .fadd h o => some (packA 0x60 h o)
  | .fsub h o => some (packA 0x61 h o)
  | .fmul h o => some (packA 0x62 h o)
  | .ffma h o => some (packA 0x63 h o)
  | .fmin h o => some (packA 0x64 h o)
  | .fmax h o => some (packA 0x65 h o)
  | .fabs h o => some (packA 0x66 h o)
  | .fneg h o => some (packA 0x67 h o)
  | .fsetp h o => some (packA 0x68 h o)
  | .fclass h o => some (packA 0x69 h o)
  | .frcp h o => some (packA 0x6A h o)
  | .fsqrt h o => some (packA 0x6B h o)
  | .frsq h o => some (packA 0x6C h o)
  | .fexp2 h o => some (packA 0x6D h o)
  | .flog2 h o => some (packA 0x6E h o)
  | .faddi h o => some (packB 0x6F h o)
  | .fmuli h o => some (packB 0x70 h o)
  | .fdot2 h o => some (packA 0x71 h o)
  | .frnd h o => some (packA 0x72 h o)
  | .dadd h o => some (packA 0x88 h o)
  | .dsub h o => some (packA 0x89 h o)
  | .dmul h o => some (packA 0x8A h o)
  | .dfma h o => some (packA 0x8B h o)
  | .dmin h o => some (packA 0x8C h o)
  | .dmax h o => some (packA 0x8D h o)
  | .dsetp h o => some (packA 0x8E h o)
  | .dsqrt h o => some (packA 0x8F h o)
  | .cvt h o => some (packA 0x90 h o)
  | .pcvt h o => some (packA 0x91 h o)
  | .qblk h o => some (packA 0x92 h o)
  | .xshf h o => some (packA 0xA0 h o)
  | .xbcast h o => some (packA 0xA1 h o)
  | .xred h o => some (packA 0xA2 h o)
  | .xscan h o => some (packA 0xA3 h o)
  | .ld h o => some (packD 0xB0 h o)
  | .ldH h o => some (packD 0xB0 h o)
  | .st h o => some (packD 0xB1 h o)
  | .lds h o => some (packD 0xB2 h o)
  | .sts h o => some (packD 0xB3 h o)
  | .ldl h o => some (packD 0xB4 h o)
  | .atom h o => some (packD 0xB5 h o)
  | .atoms h o => some (packD 0xB6 h o)
  | .acq h o => some (packD 0xB7 h o)
  | .rel h o => some (packD 0xB8 h o)
  | .fence h o => some (packD 0xB9 h o)
  | .seal h o => some (packD 0xBA h o)
  | .xkick h o => some (packE 0xD0 h o)
  | .lbinit h o => some (packE 0xD1 h o)
  | .lbarrive h o => some (packE 0xD2 h o)
  | .lbwait h o => some (packE 0xD3 h o)
  | .ringget h o => some (packE 0xD4 h o)
  | .ringgetFree h o => some (packE 0xD4 h o)
  | .ringput h o => some (packE 0xD5 h o)
  | .ringputFill h o => some (packE 0xD5 h o)
  | .barr h o => some (packE 0xD6 h o)
  | .launch h o => some (packE 0xD7 h o)
  | .rdctr h o => some (packE 0xF0 h o)
  | .rdtick h o => some (packE 0xF1 h o)
  | .mfs h o => some (packE 0xF2 h o)
  | .mts h o => some (packE 0xF3 h o)
  | .mshape h o => some (packG 0xE0 h o)
  | .mteam h o => some (packG 0xE1 h o)
  | .mteamRd h o => some (packG 0xE1 h o)
  | .mstride h o => some (packG 0xE2 h o)
  | .mfence h o => some (packG 0xE3 h o)
  | .bfly h o => some (packG 0xE4 h o)
  | .bchain h o => some (packG 0xE5 h o)
  | .mscale h o => some (packG 0xE6 h o)
  | .mscaleOut h o => some (packG 0xE6 h o)
  | .mwait h o => some (packG 0xE7 h o)
  | .mload h o => some (packG 0xE8 h o)
  | .mstore h o => some (packG 0xE9 h o)
  | .mzero h o => some (packG 0xEA h o)
  | _ => none

end Sys2Proof
end

