-- ==== Sys2Proof/Machine/Control.lean ====
section
/-! DEFINITION. The control instructions, opcodes 0x40 to 0x4F but for the gates (R111–R122, R129–R134), and the event
of the REGANG point (R116). -/

namespace Sys2Proof.Machine

/-! Transfers -/

/-- Parts a gang: its live slices at the same program counter and DEPTH form one gang (R112). -/
def Warp.part (w : Warp) (g : Mask8) : Warp :=
  let live := (gangSlices g).filter (fun j => (w.slice j).live)
  w.onGang g (fun _ sl =>
    if sl.live then
      { sl with gang := maskOf 8 (live.filter (fun i => (w.slice i).pc = sl.pc && (w.slice i).depth = sl.depth)) }
    else { sl with gang := 0 })

/-- Sends each slice of the gang to its destination, the others to the next slot, and parts the gang (R112); a slice
whose destination line cannot be fetched carries the target-check mark (R113). -/
def State.goTo (s : State) (u : Cur) (dest : Nat → Option Nat) : State :=
  let v := s.tableOf u.core (s.warp u.core u.slot).group
  let asid := (s.warp u.core u.slot).asid
  s.modWarp u.core u.slot (fun w =>
    (w.onGang u.gang (fun j sl =>
      match dest j with
      | none => { sl with pc := nextSlot sl.pc, mark := false }
      | some a => { sl with pc := BitVec.ofNat 57 a, mark := decide (s.target u.core v asid a = .unread) })).part u.gang)

/-- R113 fails for some destination. -/
def State.anyBad (s : State) (u : Cur) (asid : BitVec 16) (dests : List Nat) : Bool :=
  let v := s.tableOf u.core (s.warp u.core u.slot).group
  dests.any (fun a => s.target u.core v asid a = .bad)

/-- The gangs that now hold the slices of a mask. -/
def Warp.gangsOf (w : Warp) (g : Mask8) : List Mask8 := ((gangSlices g).map (fun j => (w.slice j).gang)).dedup

/-- INDIRECT packets for the gangs that hold the slices sent to an address (Table 19.7, R364). -/
def State.traceSent (s : State) (u : Cur) (js : List Nat) : State :=
  let w := s.warp u.core u.slot
  (w.gangsOf (maskOf 8 js)).foldl (fun s q =>
    s.traceIndirect u.core u.slot u.gang q ((w.slice (gangLeader q)).pc)) s

/-! Branches (R114, R115) -/

/-- The executing lanes of a slice. -/
def Warp.laneSet (w : Warp) (g : Mask8) (h : Header) (j : Nat) : List Nat :=
  (setBits 32 (w.execLanes g h)).filter (fun l => l / 4 = j)

/-- The slice whose decision slice `j` takes: its own, or that of the lowest slice with an m0 bit set. -/
def Warp.decider (w : Warp) (g : Mask8) (j : Nat) : Option Nat :=
  if (w.slice j).readM w.seed 0 ≠ 0 then some j
  else (gangSlices g).find? (fun i => (w.slice i).readM w.seed 0 ≠ 0)

/-- Taken under MODE over the executing lanes of one slice. -/
def Warp.takenIn (w : Warp) (g : Mask8) (h : Header) (mode p j : Nat) : Bool :=
  let e := w.laneSet g h j
  match mode with
  | 0 => e.any (fun l => w.readP l p)
  | 1 => !e.isEmpty && e.all (fun l => w.readP l p)
  | _ => match e with | [] => false | l :: _ => w.readP l p

/-- Taken, for each slice of the gang. -/
def Warp.taken (w : Warp) (g : Mask8) (h : Header) (mode p j : Nat) : Bool :=
  match w.decider g j with
  | none => false
  | some i => w.takenIn g h mode p i

/-- A branch to the destinations of the taken slices: BR where the gang stays whole; PART where a BR parts it; INDIRECT
for the gangs that a BRX sends to an address (Table 19.7). -/
def branchEff (indirect : Bool) (dest : Nat → Option Nat) (s : State) (u : Cur) : Eff :=
  let w := s.warp u.core u.slot
  let js := (gangSlices u.gang).filter (fun j => (dest j).isSome)
  if s.anyBad u w.asid (js.filterMap dest) then .trap (badTarget u.gang)
  else
    let s' := s.goTo u dest
    let whole := ((s'.warp u.core u.slot).gangsOf u.gang).length ≤ 1
    let mask : Mask8 := maskOf 8 js
    let s' :=
      if whole then s'.tracePacket u.core u.slot u.gang (if js.isEmpty then 0x01 else 0x11) []
      else if indirect then s'
      else s'.tracePacket u.core u.slot u.gang 0x03
        [BitVec.ofNat 8 mask.toNat, BitVec.ofNat 8 (u.gang &&& ~~~ mask).toNat]
    .done (if indirect then s'.traceSent u js else s') false

def execBr (h : Header) (o : FmtC) (s : State) : Host.Outcome State Fault Refusal :=
  s.issue (.br h o) (fun s u =>
    let w := s.warp u.core u.slot
    branchEff false (fun j =>
      if w.taken u.gang h o.mode.toNat (Operand.num o.srcA) j then some (branchDest (w.slice j).pc o.offset) else none) s u)

/-- The destination of a taken slice of BRX: the gang's s-register, or the pair in the lowest executing lane of the
slice that decides. -/
def Warp.brxDest (w : Warp) (g : Mask8) (h : Header) (a : Operand) (j : Nat) : Nat :=
  match a with
  | .s i => (w.readS g i).toNat
  | _ =>
    match (w.decider g j).bind (fun i => (w.laneSet g h i).head?) with
    | some l => (w.readFw true l (Operand.num a)).toNat
    | none => 0

def execBrx (h : Header) (o : FmtC) (s : State) : Host.Outcome State Fault Refusal :=
  s.issue (.brx h o) (fun s u =>
    let w := s.warp u.core u.slot
    branchEff true (fun j =>
      if w.taken u.gang h o.mode.toNat (Operand.num o.srcB) j then some (w.brxDest u.gang h o.srcA j) else none) s u)

/-! Room for frames -/

/-- Makes room in slices, lowest first: the warp with the rows spilled, the slice whose checks or spills overflow, or
nothing where a slice must wait. -/
def Warp.makeRooms (bad : Slice → Bool) (room : Slice → Room) : List Nat → Warp → Nat → Except (Option Nat) (Warp × Nat)
  | [], w, n => .ok (w, n)
  | j :: r, w, n =>
    if bad (w.slice j) then .error (some j)
    else match room (w.slice j) with
      | .ok sl k => Warp.makeRooms bad room r (w.setSlice j sl) (n + k)
      | .overflow => .error (some j)
      | .stall => .error none

/-- The four lanes of a slice. -/
def sliceMask (j : Nat) : Mask32 := BitVec.ofNat 32 (15 * 2 ^ (4 * j))

/-- What follows from making room: FRAMEOVF in the slice that overflows, a wait, or the state with the spills counted. -/
def State.withRooms (s : State) (u : Cur) (js : List Nat) (bad : Slice → Bool) (room : Slice → Room) (k : State → Eff) : Eff :=
  match Warp.makeRooms bad room js (s.warp u.core u.slot) 0 with
  | .error (some j) => .trap (frameOvf (sliceMask j))
  | .error none => .hold
  | .ok (w, n) => k (((s.setWarp u.core u.slot w).spillErrors u.core u.slot (s.warp u.core u.slot)).count u.core (coreCtr 0x48) n)

/-- The header of a frame that returns to an address (Table 1.7). -/
def headerTo (ret : VA) (callerFsz k : Nat) (entry : BitVec 4) (gate group : Bool) : W128 :=
  mkHeader (ret.toNat / 64) (ret.toNat % 64 / 12) callerFsz k entry gate group

/-- The return address of a header. -/
def hdRet (h : W128) : VA := BitVec.ofNat 57 (hdRetLine h * 64 + hdRetSlot h * 12)

/-! Calls (R117, R119) -/

/-- What a calling slice does: its entry mask, where its frame returns to, where it goes. -/
structure CallPlan where
  slice : Nat
  entry : BitVec 4
  ret : VA
  dest : Nat
  deriving DecidableEq, Repr

/-- Opens the frames of the calling slices and transfers (R117). `own` gives the slice's own bits of m0 and of mk after
a call by groups. -/
def callEff (size k : Nat) (group : Bool) (plan : List CallPlan) (s : State) (u : Cur) : Eff :=
  s.withRooms u (plan.map (·.slice)) (fun sl => sl.callOvf (s.warp u.core u.slot).rowB size)
    (fun sl => sl.callRoom (s.warp u.core u.slot).rowB (s.warp u.core u.slot).seed (s.warp u.core u.slot).asid size k) (fun s =>
    let w := s.warp u.core u.slot
    if s.anyBad u w.asid (plan.map (·.dest)) then .trap (badTarget u.gang)
    else
      let w' := plan.foldl (fun (w : Warp) p =>
        let sl := w.slice p.slice
        w.setSlice p.slice (sl.openFrame w.rowB w.seed size k (headerTo p.ret sl.fsz k p.entry false group))) w
      let s' := (s.setWarp u.core u.slot w').goTo u (fun j => (plan.find? (fun p => p.slice = j)).map (·.dest))
      .done (if plan.isEmpty then s' else s'.traceCall u.core u.slot u.gang false false) false)

def execCall (h : Header) (o : FmtC) (s : State) : Host.Outcome State Fault Refusal :=
  s.issue (.call h o) (fun s u =>
    let w := s.warp u.core u.slot
    callEff o.size.toNat o.k.toNat false ((w.callSlices u.gang h).map (fun j =>
      let sl := w.slice j
      { slice := j, entry := sl.readM w.seed 0, ret := nextSlot sl.pc, dest := branchDest sl.pc o.offset })) s u)

/-- The 64-bit target a lane holds in the pair that begins at `fa`. -/
def Warp.targetOf (w : Warp) (fa j l : Nat) : Nat := (w.readFw true (4 * j + l) fa).toNat

/-- The target group of the lowest lane of a set (R119). -/
def Warp.groupOf (w : Warp) (fa j : Nat) (set : List Nat) : BitVec 4 × Nat :=
  let t := w.targetOf fa j (set.headD 0)
  (maskOf 4 (set.filter (fun l => w.targetOf fa j l = t)), t)

/-- Sets the slice's own bits of a mask register at once. -/
def Warp.setOwn (w : Warp) (k j : Nat) (v : BitVec 4) : Warp := w.setSlice j ((w.slice j).writeM w.seed 0 k v)

def execCalli (h : Header) (o : FmtC) (s : State) : Host.Outcome State Fault Refusal :=
  s.issue (.calli h o) (fun s u =>
    let w := s.warp u.core u.slot
    let plan : List CallPlan := (w.callSlices u.gang h).map (fun j =>
      let q := w.groupOf (Operand.num o.srcB) j (setBits 4 ((w.slice j).readM w.seed 0))
      { slice := j, entry := q.1, ret := (w.slice j).pc, dest := q.2 })
    match callEff o.size.toNat o.k.toNat true plan s u with
    | .done s' c =>
      let s' := s'.traceSent u (plan.map (·.slice))
      .done (s'.modWarp u.core u.slot (fun w' => plan.foldl (fun w' p =>
        (w'.setOwn (Operand.num o.srcA) p.slice ((w.slice p.slice).readM w.seed 0)).setOwn 0 p.slice p.entry) w')) c
    | e => e)

/-! Exit (R130) -/

/-- A warp has ended: no slice is live and its matrix and engine work is complete (R130). -/
def State.warpDone (s : State) (c slot : Nat) : Bool :=
  let w := s.warp c slot
  w.live = 0 && w.pend.all (fun p => match p.op with | .engine _ => false | _ => true)
  && (s.core c).copyq.all (fun r => r.slot ≠ slot)

/-- Notes the warps of a workgroup that have ended. -/
def State.noteEnded (s : State) (c g : Nat) : State :=
  s.modGroup c g (fun x =>
    { x with ended := (x.slots.zipIdx.filter (fun e => s.warpDone c e.1)).map (·.2) })

/-- Ends slices: each leaves its gang, its frames are discarded and its spilled rows abandoned. -/
def exitEff (js : List Nat) (s : State) (u : Cur) : Eff :=
  let w := s.warp u.core u.slot
  if js.any (fun j => (w.slice j).gates ≠ []) then .trap (trapH 0x0B 3 (gangMask u.gang))
  else
    let s' := s.goTo u (fun _ => none)
    let s' := s'.modWarp u.core u.slot (fun w => (js.foldl (fun (w : Warp) j =>
      let sl := w.slice j
      w.setSlice j { sl with live := false, rows := [], held := [], coming := [], pending := [], aside := [], refillTo := none, newSpillTop := none
                             handler := none }) w).part u.gang)
    let s' := if js.isEmpty then s' else s'.traceEvent u.core u.slot u.gang 0
    .done (s'.noteEnded u.core w.group) false

def execExit (h : Header) (o : FmtC) (s : State) : Host.Outcome State Fault Refusal :=
  s.issue (.exit h o) (fun s u => exitEff ((s.warp u.core u.slot).actSlices u.gang h) s u)

/-! Return (R118, R120) -/

/-- What a returning slice does: the slice as it is left, its m0 bits, where it goes, whether a group follows. -/
structure RetPlan where
  slice : Nat
  now : Slice
  m0 : BitVec 4
  dest : Nat
  group : Bool
  spills : Nat
  deriving DecidableEq, Repr

/-- The CALLI that a group return continues, read from the slot of its address. A line there that cannot be fetched holds no CALLI, the
model's choice (log entry 126). -/
def State.calliAt (s : State) (u : Cur) (a : VA) : Option FmtC :=
  let w := s.warp u.core u.slot
  match s.codeLine u.core (s.tableOf u.core w.group) w.asid a.toNat with
  | none => none
  | some l =>
    match decodeSlot (lineSlot l (a.toNat % 64 / 12)) with
    | .ok (.calli _ o) => some o
    | _ => none

/-- The continuation of a CALLI after a group's return (R120). -/
def groupPlan (o : FmtC) (a : VA) (w : Warp) (j : Nat) (g : Mask8) : Except Trap (Option RetPlan) :=
  let sl := w.slice j
  let entry := hdEntry (sl.hdr w.rowB)
  let closed := sl.closeFrame w.rowB
  let wc := w.setSlice j closed
  let fa := Operand.num o.srcB
  let size := o.size.toNat
  let k := o.k.toNat
  if decide (closed.fsz < k) || decide (closed.fsz ≤ fa + 1 + k) then .error (protFault g)
  else
    let m := closed.readM w.seed (Operand.num o.srcA)
    let lim := (setBits 4 entry).headD 0
    let served := fun l => (setBits 4 m).any (fun i => decide (i ≤ lim) && wc.targetOf fa j i = wc.targetOf fa j l)
    let left := (setBits 4 m).filter (fun l => !served l)
    if left.isEmpty then
      .ok (some { slice := j, now := closed, m0 := m, dest := (nextSlot a).toNat, group := false, spills := 0 })
    else
      let q := wc.groupOf fa j left
      if closed.callOvf w.rowB size then .error (frameOvf (sliceMask j))
      else match closed.callRoom w.rowB w.seed w.asid size k with
        | .overflow => .error (frameOvf (sliceMask j))
        | .stall => .ok none
        | .ok r n =>
          .ok (some { slice := j, now := r.openFrame w.rowB w.seed size k (headerTo a r.fsz k q.1 false true)
                      m0 := q.1, dest := q.2, group := true, spills := n })

/-- The plan of one returning slice; `none` where it must wait. -/
def State.retPlan (s : State) (u : Cur) (j : Nat) : Except Trap (Option RetPlan) :=
  let w := s.warp u.core u.slot
  let sl := w.slice j
  let hd := sl.hdr w.rowB
  if !hdLegal hd sl.fsz then .error (illegal u.gang)
  else if hdGate hd then .error (trapH 0x0B 3 (gangMask u.gang))
  else if hdGroup hd then
    match s.calliAt u (hdRet hd) with
    | none => .error (illegal u.gang)
    | some o => groupPlan o (hdRet hd) w j u.gang
  else .ok (some { slice := j, now := sl.closeFrame w.rowB, m0 := hdEntry hd, dest := (hdRet hd).toNat, group := false
                   spills := 0 })

/-- The plans of all returning slices: the first cause found, or `none` where some slice must wait. -/
def State.retPlans (s : State) (u : Cur) : List Nat → Except Trap (Option (List RetPlan))
  | [] => .ok (some [])
  | j :: r =>
    match s.retPlan u j, State.retPlans s u r with
    | .error t, _ => .error t
    | .ok _, .error t => .error t
    | .ok (some p), .ok (some ps) => .ok (some (p :: ps))
    | .ok _, .ok _ => .ok none

/-- RET in the slices that take it: EXIT at DEPTH 0, else every check before any effect (R118, R120). -/
def retEff (h : Header) (s : State) (u : Cur) : Eff :=
  let w := s.warp u.core u.slot
  let js := w.actSlices u.gang h
  if (w.slice (gangLeader u.gang)).depth = 0 then exitEff js s u
  else match s.retPlans u js with
    | .error t => .trap t
    | .ok none => .hold
    | .ok (some ps) =>
      if s.anyBad u w.asid (ps.map (·.dest)) then .trap (badTarget u.gang)
      else
        let s' := s.modWarp u.core u.slot (fun w => ps.foldl (fun w p =>
          (w.setSlice p.slice p.now).setOwn 0 p.slice p.m0) w)
        let s' := s'.spillErrors u.core u.slot w
        let s' := s'.count u.core (coreCtr 0x48) (ps.foldl (fun a p => a + p.spills) 0)
        let s' := s'.goTo u (fun j => (ps.find? (fun p => p.slice = j)).map (·.dest))
        let s' := if ps.isEmpty then s' else s'.traceCall u.core u.slot u.gang true false
        let again := (ps.filter (·.group)).map (·.slice)
        let s' := if again.isEmpty then s' else (s'.traceCall u.core u.slot u.gang false false).traceSent u again
        .done s' false

def execRet (h : Header) (o : FmtC) (s : State) : Host.Outcome State Fault Refusal := s.issue (.ret h o) (retEff h)

/-! Tail calls and resizing (R121, R122) -/

/-- Resizes the frames of slices: SIZE below K is ILLEGAL, SIZE + 2 above B or a spill beyond the limit FRAMEOVF. -/
def resizeEff (size : Nat) (js : List Nat) (k : State → Eff) (s : State) (u : Cur) : Eff :=
  let w := s.warp u.core u.slot
  if (gangSlices u.gang).any (fun j => decide (size < hdK ((w.slice j).hdr w.rowB))) then .trap (illegal u.gang)
  else s.withRooms u js (fun _ => decide (w.rowB < size + 2)) (fun sl => sl.resizeRoom w.rowB w.seed w.asid size) (fun s =>
    k (s.modWarp u.core u.slot (fun w => js.foldl (fun w j =>
      w.setSlice j ((w.slice j).resize w.rowB w.seed size)) w)))

/-- A tail call of the acting slices to one destination. -/
def tcallEff (indirect : Bool) (size : Nat) (js : List Nat) (dest : Nat) (s : State) (u : Cur) : Eff :=
  resizeEff size js (fun s' =>
    if !js.isEmpty && s'.anyBad u (s'.warp u.core u.slot).asid [dest] then .trap (badTarget u.gang)
    else
      let s' := s'.goTo u (fun j => if js.contains j then some dest else none)
      .done (if indirect then s'.traceSent u js else s') false) s u

def execTcall (h : Header) (o : FmtC) (s : State) : Host.Outcome State Fault Refusal :=
  s.issue (.tcall h o) (fun s u =>
    let w := s.warp u.core u.slot
    tcallEff false o.size.toNat (w.actSlices u.gang h) (branchDest (w.slice (gangLeader u.gang)).pc o.offset) s u)

def execTcallIndirect (h : Header) (o : FmtC) (s : State) : Host.Outcome State Fault Refusal :=
  s.issue (.tcallIndirect h o) (fun s u =>
    let w := s.warp u.core u.slot
    tcallEff true o.size.toNat (w.actSlices u.gang h) ((w.readS u.gang (Operand.num o.srcA)).toNat) s u)

def execFrame (h : Header) (o : FmtC) (s : State) : Host.Outcome State Fault Refusal :=
  s.issue (.frame h o) (fun s u =>
    resizeEff o.size.toNat ((s.warp u.core u.slot).actSlices u.gang h) (fun s' => .done (s'.goTo u (fun _ => none)) false) s u)

/-! REGANG (R116) -/

/-- A gang stops and waits, its program counter kept. -/
def State.waitAs (s : State) (u : Cur) (wt : Wait) : State :=
  s.modWarp u.core u.slot (fun w => w.onGang u.gang (fun _ sl => { sl with wait := wt, waitSince := s.cycle }))

def execRegang (h : Header) (o : FmtC) (s : State) : Host.Outcome State Fault Refusal :=
  s.issue (.regang h o) (fun s u =>
    let w := s.warp u.core u.slot
    if w.takes u.gang h && w.live ≠ u.gang then .done (s.waitAs u .regang) false else .done (s.advance u) false)

/-- Every live slice of a running warp waits at a REGANG. -/
def Warp.atRegangPoint (w : Warp) : Bool :=
  w.live ≠ 0 && w.report.isNone && (gangSlices w.live).all (fun j => (w.slice j).wait = .regang)

/-- The gang that has waited for the shortest time: the last that arrived. -/
def Warp.lastWaiter (w : Warp) : Mask8 :=
  w.gangs.foldl (fun a q => if (w.slice (gangLeader a)).waitSince < (w.slice (gangLeader q)).waitSince then q else a)
    (w.gangs.headD 0)

def execRegangPoint (core slot : Nat) (s : State) : Host.Outcome State Fault Refusal :=
  let w := s.warp core slot
  if !w.atRegangPoint then .next s
  else
    let live := w.live
    let ld := w.slice (gangLeader live)
    if (gangSlices live).all (fun j => (w.slice j).pc = ld.pc && (w.slice j).depth = ld.depth) then
      let s' := s.setWarp core slot (w.onGang live (fun _ sl =>
        { sl with gang := live, wait := .ready, pc := nextSlot sl.pc }))
      .next (if w.gangs.length ≤ 1 then s'
        else s'.tracePacket core slot live 0x05 [BitVec.ofNat 8 live.toNat])
    else .next (s.deliver s core slot w.lastWaiter (trapH 0x0E 0 (gangMask w.lastWaiter)))

/-! Waiting, traps (R129, R131, R132, R134) -/

def execYield (h : Header) (o : FmtC) (s : State) : Host.Outcome State Fault Refusal :=
  s.issue (.yield h o) (fun s u =>
    let w := s.warp u.core u.slot
    let s' := s.advance u
    .done (if w.takes u.gang h && w.preq then s'.waitAs u .yield else s') false)

/-- The code that TRAP and BKPT report. -/
def trapCode (o : FmtC) : Nat := o.offset.toNat % 65536

def execTrap (h : Header) (o : FmtC) (s : State) : Host.Outcome State Fault Refusal :=
  s.issue (.trap h o) (fun s u =>
    let w := s.warp u.core u.slot
    if w.takes u.gang h then
      .fault { cause := 0x13, cls := .s, sub := 0, mask := w.execLanes u.gang h, addrs := [], code := trapCode o
               resumeNext := true }
    else .done (s.advance u) false)

def execBkpt (h : Header) (o : FmtC) (s : State) : Host.Outcome State Fault Refusal :=
  s.issue (.bkpt h o) (fun s u =>
    let w := s.warp u.core u.slot
    if w.takes u.gang h then
      .fault { cause := 0x0F, cls := .h, sub := 0, mask := w.execLanes u.gang h, addrs := [], code := trapCode o
               resumeNext := false }
    else .done (s.advance u) false)

def execWaitk (h : Header) (o : FmtC) (s : State) : Host.Outcome State Fault Refusal :=
  s.issueReg (.waitk h o) (fun w g =>
    if w.takes g h && o.offset = 0 then w.clearToken o.subop.toNat else w)

/-- RESUME names no instruction in some slice of the gang (R66, R68). -/
def Warp.resumeBad (w : Warp) (g : Mask8) : Bool :=
  (gangSlices g).any (fun j => !slotAligned ((w.slice j).resumeAt w.seed).toNat)

def execSupret (h : Header) (o : FmtC) (s : State) : Host.Outcome State Fault Refusal :=
  s.issue (.supret h o) (fun s u =>
    let w := s.warp u.core u.slot
    if (w.slice (gangLeader u.gang)).handler.isNone then .trap (protFault u.gang)
    else if !w.takes u.gang h then .done (s.advance u) false
    else if w.resumeBad u.gang then .trap (badTarget u.gang)
    else .done ((s.leaveHandler u.core u.slot u.gang).releaseCopies u.core u.slot) false)

end Sys2Proof.Machine
end

