-- ==== Sys2Proof/Machine/Launch.lean ====
section
/-! DEFINITION. The distributor: region control blocks and launch blocks (R280–R289), LAUNCH and SUBMIT (R227, R288,
R375), queues and stride scheduling (R290–R293), dependences and reserves (R294–R297), placement and traversal (R298,
R299), the start, the restore and the end of a workgroup (R41, R241, R289, R328). -/

namespace Sys2Proof.Machine

/-! Region control blocks (R280, Table 15.1): a block as a number of 2,048 bits -/

def rbParent (b : Nat) : Nat := bitsAt b 0 16
def rbTickets (b : Nat) : Nat := bitsAt b 16 16
/-- The INHERIT bit of a group of Table 15.2. -/
def rbInherits (b i : Nat) : Bool := bitsAt b (48 + i) 1 = 1
def rbCoreBud (b : Nat) : Nat := bitsAt b 448 10
def rbGranBud (b : Nat) : Nat := bitsAt b 458 17
def rbLogBud (b : Nat) : Nat := bitsAt b 480 20
def rbTickBud (b : Nat) : Nat := bitsAt b 528 16

/-- Every field of a list of first bits and widths is zero. -/
def fieldsZero (b : Nat) (l : List (Nat × Nat)) : Bool := l.all (fun e => bitsAt b e.1 e.2 = 0)

/-- A block that R280 lets a launch use, apart from its ancestors. A field outside its range counts also where its group is taken
from the parent (log entry 60). -/
def rbUsable (b : Nat) : Bool :=
  fieldsZero b [(544, 1504), (500, 12), (475, 5), (437, 11), (377, 7), (313, 7), (249, 7), (185, 7), (117, 11), (36, 4), (60, 4)]
  && bitsAt b 35 1 = 1 && rbTickets b ≠ 0 && (rbParent b ≠ 0xFFFF || bitsAt b 48 16 = 0)
  && decide (rbCoreBud b ≤ 512)
  && bitsAt b 192 57 % 64 = 0 && decide (bitsAt b 104 13 ≤ 4096)
  && bitsAt b 256 57 % 4096 = 0 && decide (12 ≤ bitsAt b 432 5) && decide (bitsAt b 432 5 ≤ 30)

/-- A block of an interface's region table; one that delivers poison is none, which is unusable (log entry 121). -/
def State.regionBlock (s : State) (v idx : Nat) : Nat :=
  let pa := (s.vi v).regtab + 256 * idx
  if s.poisonIn pa 256 then 0 else ofBytes (s.homeBytes pa 256)

/-- A region's block and its ancestors', nearest first; `none` where one is unusable, or the chain loops or leaves the
table (R280). -/
def State.regionChain (s : State) (v : Nat) : Nat → Nat → Option (List (Nat × Nat))
  | 0, _ => none
  | n + 1, idx =>
    if (s.vi v).regcnt ≤ idx then none
    else
      let b := s.regionBlock v idx
      if !rbUsable b then none
      else if rbParent b = 0xFFFF then some [(idx, b)]
      else (State.regionChain s v n (rbParent b)).map (fun r => (idx, b) :: r)

/-- The block from which a group of Table 15.2 is taken (R281). -/
def rbSource (chain : List (Nat × Nat)) (i : Nat) : Nat :=
  match chain.find? (fun e => !rbInherits e.2 i) with
  | some e => e.2
  | none => 0

/-- The effective values of a region (R281, R375); `none` where it is unusable. -/
def State.regionOf (s : State) (v idx : Nat) : Option Region :=
  match s.regionChain v ((s.vi v).regcnt + 1) idx with
  | none => none
  | some ch =>
    let vi := s.vi v
    let e := rbSource ch
    let dies : BitVec 8 := BitVec.ofNat 8 (bitsAt (e 7) 40 8) &&& vi.dies
    let asid := bitsAt (e 1) 64 16
    let log := bitsAt (e 9) 416 16
    let deadline := bitsAt (e 8) 384 32
    if dies = 0 || decide (asid < vi.asidbase) || decide (vi.asidbase + vi.asidcnt ≤ asid) then none
    else some
      { vi := v, table := { at_ := vi.asidtab, base := vi.asidbase, count := vi.asidcnt }, index := idx
        cls := bitsAt (e 0) 32 2, tickets := rbTickets (ch.headD (0, 0)).2, asid := BitVec.ofNat 16 asid
        domain := BitVec.ofNat 12 (bitsAt (e 2) 80 12), faultDom := bitsAt (e 3) 92 12
        handler := BitVec.ofNat 57 (bitsAt (e 4) 128 57), gateTab := BitVec.ofNat 57 (bitsAt (e 5) 192 57)
        gateCount := bitsAt (e 5) 104 13, redund := bitsAt (e 6) 34 1 = 1, dieMask := dies
        deadline := if deadline = 0 then 20000 else deadline, logSize := if log = 0 then 8 else log
        bsBase := BitVec.ofNat 57 (bitsAt (e 10) 256 57), bsWin := bitsAt (e 10) 432 5
        ctxArea := BitVec.ofNat 57 (bitsAt (e 11) 320 57), ctxSize := bitsAt (e 11) 512 16
        chain := ch.map (fun q => (q.1, rbCoreBud q.2, rbGranBud q.2, rbLogBud q.2, rbTickBud q.2)) }

/-- A region is another one or lies below it, by the PARENT fields as they stand (R288). -/
def State.isBelow (s : State) (v top : Nat) : Nat → Nat → Bool
  | 0, _ => false
  | n + 1, idx =>
    if idx = top then true
    else if (s.vi v).regcnt ≤ idx then false
    else
      let p := rbParent (s.regionBlock v idx)
      if p = 0xFFFF then false else State.isBelow s v top n p

/-! Launch parameter blocks (R286, R287, Tables 15.3 to 15.5) -/

def parseRole (e : Nat) : Role :=
  { pipes := BitVec.ofNat 4 (bitsAt e 28 4), budget := bitsAt e 18 10, fsz := bitsAt e 11 7, count := bitsAt e 0 6 }

/-- A role entry that Table 15.4 allows, whose warps fit its pipes. -/
def roleOk (e : Nat) : Bool :=
  let r := parseRole e
  if r.count = 0 then e = 0
  else
    bitsAt e 32 96 = 0 && bitsAt e 6 5 = 0 && decide (r.count ≤ 32) && decide (32 ≤ r.budget) && decide (r.budget ≤ 512)
    && decide (1 ≤ r.fsz) && decide (r.fsz ≤ 64) && decide (r.fsz + 2 ≤ r.budget)
    && decide (r.count ≤ 32 * (setBits 4 r.pipes).length)

def parseDep (e : Nat) : Dep :=
  { value := BitVec.ofNat 64 (bitsAt e 80 48), step := bitsAt e 64 16, kind := bitsAt e 62 2, cond := bitsAt e 59 3
    early := bitsAt e 58 1 = 1, addr := BitVec.ofNat 57 (bitsAt e 0 57) }

/-- A dependence entry that Table 15.5 and R287 allow. -/
def depOk (e : Nat) : Bool :=
  let d := parseDep e
  bitsAt e 57 1 = 0 && (match d.kind with
    | 0 => e = 0
    | 1 => d.cond = 0 && d.addr.toNat % 8 = 0
    | 2 => decide (d.cond ≤ 3) && d.step = 0 && d.addr.toNat % 8 = 0
    | _ => false)

/-- The role and dependence entries of a block. -/
def roleEntries (b : Nat) : List Nat := (List.range 4).map (fun i => bitsAt b (512 + 128 * i) 128)
def depEntries (b : Nat) : List Nat := (List.range 4).map (fun i => bitsAt b (1024 + 128 * i) 128)

/-- The launch that a block describes; `none` where R287 calls it malformed for the block's own sake. -/
def parseLaunch (b : Nat) : Option LaunchBlock :=
  let x := bitsAt b 256 32
  let y := bitsAt b 288 32
  let z := bitsAt b 320 32
  let warps := bitsAt b 352 6
  let threads := bitsAt b 384 32
  let order := bitsAt b 448 2
  let swz := bitsAt b 452 3
  let completion := bitsAt b 128 57
  let progress := bitsAt b 1536 57
  let roles := roleEntries b
  let ok := fieldsZero b [(57, 7), (121, 7), (185, 7), (208, 48), (358, 26), (450, 2), (455, 25), (482, 30), (1593, 7),
      (1604, 444)]
    && x ≠ 0 && y ≠ 0 && z ≠ 0 && decide (x * y * z ≤ 2 ^ 32)
    && decide (1 ≤ warps) && decide (warps ≤ 32) && decide (1 ≤ threads) && decide (threads ≤ 32 * warps)
    && roles.all roleOk && ((roles.map (fun e => (parseRole e).count)).sum = warps)
    && (depEntries b).all depOk && (decide (order < 2) || swz = 0) && completion % 8 = 0 && progress % 8 = 0
  if ok then some
    { code := BitVec.ofNat 57 (bitsAt b 0 57), args := BitVec.ofNat 57 (bitsAt b 64 57)
      completion := BitVec.ofNat 57 completion, region := bitsAt b 192 16, gridX := x, gridY := y, gridZ := z
      warps := warps, threads := threads, partition := BitVec.ofNat 32 (bitsAt b 416 32), order := order, swz := swz
      check := bitsAt b 480 1 = 1, notify := bitsAt b 481 1 = 1, roles := roles.map parseRole
      deps := (depEntries b).map parseDep, progress := BitVec.ofNat 57 progress, reserve := bitsAt b 1600 4 }
  else none

/-- Workgroups of a launch. -/
def LaunchBlock.total (b : LaunchBlock) : Nat := b.gridX * b.gridY * b.gridZ

/-- The role of each warp, in order (Table 15.4). -/
def LaunchBlock.warpRoles (b : LaunchBlock) : List Role := b.roles.flatMap (fun r => List.replicate r.count r)

/-- Some workgroup of the launch has still to be dispatched. -/
def Launch.undispatched (l : Launch) : Bool := decide (l.placed < l.block.total) || l.requeued ≠ []

/-- The number under which a region's queue is kept. -/
def Region.queue (r : Region) : Nat := r.vi * 65536 + r.index

/-! Submission (R288, R375) -/

/-- What the words of a block's dependences hold now, by dependence (R294). -/
def State.depWords (s : State) (r : Region) (deps : List Dep) : List (Nat × Nat) :=
  deps.zipIdx.filterMap (fun e => match s.regionPa r e.1.addr true false with
    | .ok pa => if s.isPoisoned (pa / 64) then none else some (e.2, ofBytes (s.homeBytes pa 8))
    | .error _ => none)

/-- Submits a block, read once: the status of R227. `issuer` is the region of a LAUNCH; a SUBMIT may name any region of
its interface's table. -/
def State.submitBlock (s : State) (v b : Nat) (issuer : Option Nat) : State × Nat :=
  let idx := bitsAt b 192 16
  let vi := s.vi v
  let inside := match issuer with
    | some top => s.isBelow v top (vi.regcnt + 1) idx
    | none => decide (idx < vi.regcnt)
  if !inside then (s, 3)
  else match s.regionOf v idx, parseLaunch b with
    | some r, some blk =>
      if r.ctxArea = 0 then (s, 2)
      else
        let mine := s.launches.filter (fun l => l.region.queue = r.queue && l.undispatched)
        if 256 ≤ mine.length then (s, 1)
        else
          let l : Launch := { handle := s.nextHandle, region := r, block := blk, next := 0, placed := 0, ended := 0
                              requeued := [], wide := false, killed := false, met := [], words := s.depWords r blk.deps }
          let qs := if mine.isEmpty then Tab.put s.queues r.queue QueueState.reset else s.queues
          ({ s with launches := s.launches ++ [l], nextHandle := s.nextHandle + 1, queues := qs }, 0)
    | _, _ => (s, 2)

/-- SUBMIT (Table 21.6): the block is read under the interface's first ASID; a block that cannot be read, or
comes poisoned, is malformed (log entry 121). -/
def State.doSubmit (s : State) (v va : Nat) : State :=
  let vi := s.vi v
  let tab : AsidTable := { at_ := vi.asidtab, base := vi.asidbase, count := vi.asidcnt }
  let pa := match s.walk tab (BitVec.ofNat 16 vi.asidbase) va with
    | .ok e => (match s.permit e va true false false with | .ok pa => some pa | .error _ => none)
    | .error _ => none
  let q := match pa with
    | some pa => if va % 256 = 0 && !s.poisonIn pa 256 then s.submitBlock v (ofBytes (s.homeBytes pa 256)) none else (s, 2)
    | none => (s, 2)
  q.1.modVi v (fun x => { x with subseq := x.subseq + 1, substat := BitVec.ofNat 8 q.2 })

def execSubmit (vi va : Nat) (s : State) : Host.Outcome State Fault Refusal :=
  .next (if s.security.started && decide (vi < 64) then s.doSubmit vi (va % 2 ^ 57) else s)

/-! LAUNCH (R227) -/

def execLaunch (h : Header) (o : FmtE) (s : State) : Host.Outcome State Fault Refusal :=
  s.issue (.launch h o) (fun s u =>
    let w := s.warp u.core u.slot
    let va := (w.srcS u.gang 2 o.srcA).toNat
    let ls := w.accLanes u.gang h true
    let named := ls.map (fun e => (e.1, e.2, va))
    if va % 256 ≠ 0 then .trap (illegal u.gang)
    else if ls.isEmpty then .done (s.advance u) false
    else if 2 ^ 57 ≤ va then .trap (laneTrap 0x09 .h 0 0 named)
    else match s.translated u.core w.asid { read := true, write := false, watch := 0 } va with
      | none =>
        let k : Walk := { gang := u.gang, asid := w.asid, lanes := ls.map (fun e => (e.1, e.2, BitVec.ofNat 57 va))
                          write := false, read := true, exec := false, sub := 0 }
        .walk k
      | some (.error f) =>
        (match xlatTrapOf 0 (ls.map (fun e => (e.1, e.2, va, f))) with
          | some t => .fault t
          | none => .done (s.advance u) false)
      | some (.ok pa) =>
        let s := s.modGroup u.core w.group (fun x => { x with committed := true })
        let ps := placesS u.gang (Operand.num o.dst)
        s.post u h.settok.toNat (.launch pa ps .start) ps)

/-- LAUNCH goes on: after the warp's earlier stores, those to scratchpad among them (R239), it publishes as REL.package, reads the
block and submits it; an accepted one closes the workgroup's rollback interval. A block with a poisoned line is consumed
(R345). -/
def State.doLaunch (s : State) (c slot : Nat) (p : Pend) (pa : Nat) (dst : List Place) (stage : PubStage) : State :=
  let w := s.warp c slot
  match stage with
  | .start =>
    if !(w.after p.id (fun q => q.isStore || q.isPadWrite)) then s
    else
      let q := s.release c
      q.1.setOp c slot p.id (.launch pa dst (.sealedUpTo q.2))
  | .sealedUpTo seq => if s.publishedFor c 3 seq then s.setOp c slot p.id (.launch pa dst .released) else s
  | .released =>
    let r := (s.group c w.group).region
    let lines := linesOf pa 256
    let s := lines.foldl (fun s l => s.readHome l) s
    match lines.find? (fun l => s.isPoisoned l || s.lostAt (l * 64)) with
    | some l => s.consumeAt c slot p (5, l)
    | none =>
    let q := s.submitBlock r.vi (ofBytes (s.homeBytes pa 256)) (some r.index)
    let s := if q.2 = 0 then q.1.closeInterval c w.group else q.1
    s.returned c slot p (dst.map (fun d => (d, BitVec.ofNat 64 q.2))) false

/-! Traversal (R299) -/

/-- A point of a plane of `x` columns in strips of 2^u. -/
def rowMajor (u x y d : Nat) : Nat × Nat :=
  let strip := d / (2 ^ u * y)
  let r := d % (2 ^ u * y)
  let w := max 1 (min (2 ^ u) (x - strip * 2 ^ u))
  (strip * 2 ^ u + r % w, r / w)

/-- Every second bit of a number, from bit `i`. -/
def everySecond (d i : Nat) : Nat := ((List.range 32).map (fun k => bitsAt d (2 * k + i) 1 * 2 ^ k)).sum

/-- A point of the Hilbert curve: quadrants from the smallest of side `n` outward. -/
def hilbert : Nat → Nat → Nat → Nat × Nat → Nat × Nat
  | 0, _, _, p => p
  | k + 1, n, t, (x, y) =>
    let rx := t / 2 % 2
    let ry := (t + rx) % 2
    let q := if ry = 1 then (x, y) else if rx = 1 then (n - 1 - y, n - 1 - x) else (y, x)
    hilbert k (2 * n) (t / 4) (q.1 + n * rx, q.2 + n * ry)

/-- Order of the square that covers the plane. -/
def LaunchBlock.square (b : LaunchBlock) : Nat :=
  ((List.range 33).find? (fun k => decide (max b.gridX b.gridY ≤ 2 ^ k))).getD 32

/-- Ordinals of one z plane. -/
def LaunchBlock.plane (b : LaunchBlock) : Nat := if b.order < 2 then b.gridX * b.gridY else 4 ^ b.square

/-- The point of a dispatch ordinal. -/
def LaunchBlock.point (b : LaunchBlock) (n : Nat) : Nat × Nat × Nat :=
  let d := n % b.plane
  let q := match b.order with
    | 0 => rowMajor b.swz b.gridX b.gridY d
    | 1 => (rowMajor b.swz b.gridY b.gridX d).swap
    | 2 => (everySecond d 0, everySecond d 1)
    | _ => hilbert b.square 1 d (0, 0)
  (q.1, q.2, n / b.plane)

/-- The first ordinal from `n` upward whose point lies in the grid. -/
def LaunchBlock.seek (b : LaunchBlock) : Nat → Nat → Nat
  | 0, n => n
  | k + 1, n =>
    let p := b.point n
    if p.1 < b.gridX && p.2.1 < b.gridY then n else LaunchBlock.seek b k (n + 1)

/-- The linear index of a point (R289). -/
def LaunchBlock.linear (b : LaunchBlock) (p : Nat × Nat × Nat) : Nat := p.1 + b.gridX * (p.2.1 + b.gridY * p.2.2)

/-- The point of a linear index. -/
def LaunchBlock.pointOf (b : LaunchBlock) (w : Nat) : Nat × Nat × Nat :=
  (w % b.gridX, w / b.gridX % b.gridY, w / (b.gridX * b.gridY))

/-- The linear index of a launch's next workgroup: one returned by FEATURE first (R305). -/
def Launch.nextLinear (l : Launch) : Nat :=
  match l.requeued with
  | w :: _ => w
  | [] => l.block.linear (l.block.point (l.block.seek l.block.plane l.next))

/-- The launch once its next workgroup has been dispatched. -/
def Launch.dispatched (l : Launch) : Launch :=
  match l.requeued with
  | _ :: r => { l with requeued := r }
  | [] => { l with next := l.block.seek l.block.plane l.next + 1, placed := l.placed + 1 }

/-! Dependences (R294–R297) -/

/-- The condition of a dependence on a word (R294). -/
def Dep.holds (d : Dep) (word linear : Nat) : Bool :=
  let t := d.value.toNat + (if d.kind = 1 then d.step * linear else 0)
  match d.cond with
  | 0 => decide (t ≤ word)
  | 1 => word = t
  | 2 => word ≠ t
  | _ => (BitVec.ofNat 64 word &&& BitVec.ofNat 64 t) ≠ 0

/-- The condition holds in the home view now. -/
def State.depNow (s : State) (r : Region) (d : Dep) (linear : Nat) : Bool :=
  match s.regionPa r d.addr true false with
  | .ok pa => !s.isPoisoned (pa / 64) && d.holds (ofBytes (s.homeBytes pa 8)) linear
  | .error _ => false

/-- Dependence `i` of a launch is satisfied for a workgroup. -/
def State.depMet (s : State) (l : Launch) (linear i : Nat) : Bool :=
  match l.block.deps[i]? with
  | none => true
  | some d =>
    d.kind = 0 || l.met.contains (linear, i) || l.words.any (fun q => q.1 = i && d.holds q.2 linear) || s.depNow l.region d linear

/-- R295: every condition without EARLY holds for the highest linear index. -/
def State.dispatchable (s : State) (l : Launch) : Bool :=
  l.block.deps.zipIdx.all (fun e => e.1.early || s.depMet l (l.block.total - 1) e.2)

/-- The dependences with EARLY set that do not hold for a workgroup. -/
def State.earlyFails (s : State) (l : Launch) (linear : Nat) : List Dep :=
  (l.block.deps.zipIdx.filter (fun e => e.1.early && !(s.depMet l linear e.2))).map (·.1)

/-- A dependence of kind 1 names a launch's progress counter, under one ASID of one interface. -/
def Dep.names (d : Dep) (r : Region) (p : Launch) : Bool :=
  d.kind = 1 && d.addr = p.block.progress && p.block.progress ≠ 0 && r.vi = p.region.vi && r.asid = p.region.asid

/-- A failing early condition sends the workgroup out (R296). -/
def State.waitsOut (s : State) (l : Launch) (d : Dep) : Bool :=
  d.kind = 2 || s.launches.any (fun p => p.undispatched && d.names l.region p)

/-- A launch for which its dies keep a reserve (R297). -/
def State.keepsReserve (s : State) (p : Launch) : Bool :=
  p.undispatched && s.dispatchable p && s.launches.any (fun l => l.block.deps.any (fun d => d.names l.region p))

/-! Room (R255, R283, R284, R298) -/

/-- Granules that a partition word takes, and windows of scale memory. One that breaks R255 takes what a core has. -/
def pwNeed (p : W32) : Nat := min 96 (pwTotal p)
def pwScale (p : W32) : Nat := min 32 (pwAcc p)

/-- Rows that a launch's warps need (R255). -/
def LaunchBlock.rows (b : LaunchBlock) : Nat := (b.warpRoles.map (fun r => 8 * (r.budget + 16))).sum

/-- A partition word that breaks R255. -/
def LaunchBlock.badPartition (b : LaunchBlock) : Bool :=
  BitVec.field b.partition 31 28 ≠ 0 || decide (pwReg b.partition < 8) || decide (32 < pwAcc b.partition)
  || decide (96 < pwTotal b.partition) || decide (1024 * pwReg b.partition < b.rows)

/-- Granules of a core that no resident workgroup holds. -/
def Core.freeGrans (k : Core) : Nat := 96 - (k.groups.map (fun e => e.2.grans.length)).sum

/-- Windows of its 32 KiB of scale memory that no resident workgroup holds (R2, R255). -/
def Core.freeScale (k : Core) : Nat := 32 - (k.groups.map (fun e => pwScale e.2.partition)).sum

/-- Moves moored contexts to their context areas until `n` granules are idle (R274). -/
def State.makeIdle (s : State) (c n : Nat) : List Mooring → State
  | [] => s
  | m :: r => if n ≤ (s.core c).idle.length then s else State.makeIdle (s.evictMooring c m) c n r

/-- Warp slots of a core whose backing-store windows some workgroup still names (R328). -/
def State.heldSlots (s : State) (c : Nat) : List Nat :=
  ((s.saved.flatMap (fun x => x.group.windows)) ++ s.cores.flatMap (fun k => k.2.groups.flatMap (fun g => g.2.windows))).filterMap
    (fun w => if w.1 = c then some w.2 else none)

/-- Warp slots of a core that a new warp may take. -/
def State.freeSlots (s : State) (c : Nat) : List Nat :=
  let held := s.heldSlots c
  (List.range 128).filter (fun i => (Tab.find i (s.core c).warps).isNone && !held.contains i)

/-- Resident warps of each pipe. -/
def Core.pipeCounts (k : Core) : List Nat := (List.range 4).map (fun p => (k.warps.filter (fun e => e.2.pipe = p)).length)

/-- The pipe of each warp: of its role's pipes the one with the fewest resident warps, the lowest among equals (R298). -/
def pipePlan (counts : List Nat) : List (BitVec 4) → Option (List Nat)
  | [] => some []
  | m :: r =>
    let ok := (setBits 4 m).filter (fun p => decide (counts.getD p 0 < 32))
    match ok with
    | [] => none
    | p :: ps =>
      let q := ps.foldl (fun a b => if counts.getD b 0 < counts.getD a 0 then b else a) p
      (pipePlan (counts.set q (counts.getD q 0 + 1)) r).map (fun l => q :: l)

/-- What a workgroup asks of a core and a die. -/
structure Ask where
  region : Region
  mask : BitVec 8
  grans : Nat
  scale : Nat
  pipes : List (BitVec 4)
  handle : Nat
  deriving DecidableEq, Repr

/-- A core has the granules, the scale memory, the slots, the pipes and the log size (R255, R284, R298). -/
def State.fits (s : State) (c : Nat) (a : Ask) : Bool :=
  let k := s.core c
  decide (a.grans ≤ k.freeGrans) && decide (a.scale ≤ k.freeScale) && (k.groups.isEmpty || decide (a.region.logSize * 2 ^ 20 ≤ k.logSize))
  && (pipePlan k.pipeCounts a.pipes).isSome && decide (a.pipes.length ≤ (s.freeSlots c).length)
  && decide (a.grans ≤ ((s.makeIdle c a.grans k.moored).core c).idle.length)

/-- The least of a node's own nonzero cap and its ancestors', 0 for none (R281). -/
def leastCap (l : List Nat) : Nat := l.foldl (fun a b => if b = 0 then a else if a = 0 then b else min a b) 0

/-- Resident workgroups of a subtree, with their cores. -/
def State.subtree (s : State) (v node : Nat) : List (Nat × Group) :=
  s.cores.flatMap (fun k => (k.2.groups.filter (fun g => g.2.region.vi = v && g.2.region.chain.any (fun n => n.1 = node))).map
    (fun g => (k.1, g.2)))

/-- The charge of one more workgroup on a core stays within the effective caps of one node, `chain` beginning at it
(R283). -/
def State.nodeOk (s : State) (c : Nat) (a : Ask) (chain : List (Nat × Nat × Nat × Nat × Nat)) : Bool :=
  match chain with
  | [] => true
  | (node, _) :: _ =>
    let gs := s.subtree a.region.vi node
    let cores := (gs.map (·.1)).dedup
    let all := if cores.contains c then cores else cores ++ [c]
    let logOf := fun x => if x = c && (s.core c).groups.isEmpty then a.region.logSize else (s.core x).logSize / 2 ^ 20
    let coreCap := leastCap (chain.map (fun n => n.2.1))
    let granCap := leastCap (chain.map (fun n => n.2.2.1))
    let logCap := leastCap (chain.map (fun n => n.2.2.2.1))
    (coreCap = 0 || decide (all.length ≤ coreCap))
    && (granCap = 0 || decide ((gs.map (fun g => g.2.grans.length)).sum + a.grans ≤ granCap))
    && (logCap = 0 || decide ((all.map logOf).sum ≤ logCap))

/-- No node of the region's chain would exceed a cap. -/
def State.budgetOk (s : State) (c : Nat) (a : Ask) : Bool := a.region.chain.tails.all (fun t => s.nodeOk c a t)

/-- The cores of a die. -/
def dieCores (d : Nat) : List Nat := (List.range 64).map (fun i => 64 * d + i)

/-- Placing a workgroup on a die breaks no reserve (R297). -/
def State.reserveOk (s : State) (d : Nat) (a : Ask) : Bool :=
  let ps := s.launches.filter (fun p => p.handle ≠ a.handle && p.region.dieMask.getLsbD d && s.keepsReserve p)
  ps.isEmpty ||
    (let grans := (ps.map (fun p => max 1 p.block.reserve * pwNeed p.block.partition)).sum
     let slots := (ps.map (fun p => max 1 p.block.reserve * p.block.warps)).sum
     decide (grans + a.grans ≤ ((dieCores d).map (fun c => (s.core c).freeGrans)).sum)
     && decide (slots + a.pipes.length ≤ ((dieCores d).map (fun c => (s.freeSlots c).length)).sum))

/-- The core of a list with the most free granules, the first among equals. -/
def State.mostFree (s : State) : List Nat → Option Nat
  | [] => none
  | c :: r => some (r.foldl (fun a b => if (s.core a).freeGrans < (s.core b).freeGrans then b else a) c)

/-- Where a workgroup goes (R298): die, then core; `budget` says whether the caps of R283 count. -/
def State.findPlace (s : State) (a : Ask) (budget : Bool) : Option Nat :=
  let dies := (setBits 8 a.mask).filterMap (fun d =>
    if s.reserveOk d a then
      (s.mostFree ((dieCores d).filter (fun c => s.fits c a && (!budget || s.budgetOk c a)))).map
        (fun c => (((dieCores d).map (fun c => (s.core c).freeGrans)).sum, c))
    else none)
  match dies with
  | [] => none
  | e :: r => some (r.foldl (fun a b => if a.1 < b.1 then b else a) e).2

/-- The dies left to a launch or a workgroup limited to the wide dies (R305). -/
def diesOf (r : Region) (wide : Bool) : BitVec 8 := if wide then r.dieMask &&& 0xC0 else r.dieMask

/-- What a launch's next workgroup asks. -/
def Launch.ask (l : Launch) : Ask :=
  { region := l.region, mask := diesOf l.region l.wide, grans := pwNeed l.block.partition
    scale := pwScale l.block.partition, pipes := l.block.warpRoles.map (·.pipes), handle := l.handle }

/-! The start of a workgroup (R41, R289) -/

/-- A slice at the start of its warp (Table 1.9, R27, R285). RESUME is not in the table, so it is a free value of the draw `seed`
(R41). -/
def startSlice (b : LaunchBlock) (r : Region) (role : Role) (c slot linear seed : Nat) (live : Mask8) (m0 : Mask32) (j : Nat) : Slice :=
  let base : VA := r.bsBase + BitVec.ofNat 57 (((c * 128 + slot) * 8 + j) * 2 ^ r.bsWin)
  let regs : List (Nat × W64) :=
    [(0, BitVec.zeroExtend 64 b.args), (1, BitVec.zeroExtend 64 b.completion), (2, BitVec.zeroExtend 64 b.code),
     (3, BitVec.ofNat 64 linear)]
  { Slice.empty with
    num := j, live := live.getLsbD j, pc := b.code, gang := if live.getLsbD j then live else 0, fsz := role.fsz, top := role.fsz + 1
    spillTop := base, bsBase := base, bsLimit := base + BitVec.ofNat 57 (2 ^ r.bsWin)
    resume := BitVec.ofNat 57 (Config.free seed (170000000 + 8 * slot + j)).toNat
    s := regs.foldl (fun t e => Tab.set 0 t e.1 e.2) [], m := Tab.set 0 [] 0 (sliceBits m0 j) }

/-- The lanes of a warp that lie within the thread count. -/
def LaunchBlock.lanes (b : LaunchBlock) (idx : Nat) : Mask32 :=
  maskOf 32 ((List.range 32).filter (fun l => decide (32 * idx + l < b.threads)))

/-- A warp at its start. -/
def startWarp (b : LaunchBlock) (r : Region) (role : Role) (c group slot idx pipe linear tick seed : Nat) : Warp :=
  let m0 := b.lanes idx
  let live : Mask8 := maskOf 8 ((List.range 8).filter (fun j => sliceBits m0 j ≠ 0))
  { Warp.empty with
    group := group, idx := idx, rowB := role.budget, pipe := pipe, age := tick, asid := r.asid, domain := r.domain
    handler := r.handler, start := m0
    slices := (List.range 8).map (fun j => (j, startSlice b r role c slot linear seed live m0 j)) }

/-- The active set of a pipe has room (R301). -/
def Core.activeRoom (k : Core) (p : Nat) : Bool := decide ((k.warps.filter (fun e => e.2.pipe = p && e.2.active)).length < 8)

/-- Puts a warp into a slot, in the active set where that has room (R301). -/
def State.seat (s : State) (c slot : Nat) (w : Warp) : State :=
  s.setWarp c slot { w with active := (s.core c).activeRoom w.pipe }

/-- Granules for a workgroup, with the moored contexts moved that stand in its way, and the core's log size taken (R274,
R284). -/
def State.takeGrans (s : State) (c : Nat) (r : Region) (n : Nat) : State × List Nat :=
  let s := s.makeIdle c n (s.core c).moored
  let k := s.core c
  let s := if k.groups.isEmpty then
      { (s.setCore c { k with logSize := r.logSize * 2 ^ 20 }) with
        pub := Tab.put s.pub c { s.pubSlot c with size := r.logSize * 2 ^ 20 } }
    else s
  (s, k.idle.take n)

/-- A launch begins on a core: the code lines of its workgroups are dropped (R71); any line may be one, since a gate can take them
into any service's ASID. -/
def State.beginLaunch (s : State) (c handle : Nat) : State :=
  if (s.core c).begun.contains handle then s
  else s.modCore c (fun k => { k with
    begun := k.begun ++ [handle], icache := [], icOrder := [], icBad := [] })

/-- The acquire at a start: ACQ.package with LSET 0x00 (R241). -/
def State.startAcquire (s : State) (c : Nat) : State := s.replayLogs c (List.range 512) true false

/-- A partition word that breaks R255 stops a warp with ILLEGAL as its workgroup is placed (R287). -/
def State.partitionCheck (s : State) (c slot : Nat) (b : LaunchBlock) : State :=
  let w := s.warp c slot
  if w.live = 0 || !b.badPartition then s else s.haltWarp c slot w.live (trapH 0x01 1 (gangMask w.live))

/-- The check of a launch's code address in one warp (R68). -/
def State.entryCheck (s : State) (c slot : Nat) (b : LaunchBlock) : State :=
  let w := s.warp c slot
  if w.live = 0 || w.report.isSome then s
  else match s.target c (s.tableOf c w.group) w.asid b.code.toNat with
    | .ok => s
    | .bad => s.haltWarp c slot w.live (badTarget w.live)
    | .unread => s.setWarp c slot (w.onGang w.live (fun _ sl => { sl with mark := true }))

/-- A placed workgroup starts: it acquires, its warps start with the check of their code address still due or made, and its rollback
interval opens where that has halted none of them (R68, R241, R289, R343, R344). -/
def State.startGroup (s : State) (c g : Nat) (l : Launch) : State :=
  let x := s.group c g
  let s := (s.beginLaunch c l.handle).startAcquire c
  let s := s.setGroup c g { x with waiting := false }
  let s := x.slots.foldl (fun s i => s.modWarp c i (fun w => { w with started := true })) s
  let s := x.slots.foldl (fun s i => s.entryCheck c i l.block) s
  let s := if x.slots.any (fun i => (s.warp c i).report.isSome) then s else s.openInterval c g
  s.noteEnded c g

/-- Puts a workgroup of a launch on a core, not yet started: the state, and its workgroup slot. Its CORE is this core's for good
(R22). -/
def State.placeGroup (s : State) (c : Nat) (l : Launch) (linear : Nat) : State × Nat :=
  let b := l.block
  let p := b.pointOf linear
  let q := s.takeGrans c l.region (pwNeed b.partition)
  let s := q.1
  let k := s.core c
  let g := Tab.fresh k.groups 0 128
  let roles := b.warpRoles
  let slots := (s.freeSlots c).take roles.length
  let pipes := (pipePlan k.pipeCounts (roles.map (·.pipes))).getD []
  let d := s.draw1
  let x : Group :=
    { Group.empty with
      launch := l.handle, linear := linear, core := c, x := BitVec.ofNat 32 p.1, y := BitVec.ofNat 32 p.2.1, z := BitVec.ofNat 32 p.2.2
      partition := b.partition, grans := q.2, slots := slots, region := l.region, check := b.check, seed := d.1
      waiting := true, windows := slots.map (fun i => (c, i)), wide := l.wide }
  let s := (d.2.setGroup c g x).modCore c Core.moor
  let s := (slots.zipIdx).foldl (fun s e =>
    match roles[e.2]? with
    | none => s
    | some role => s.seat c e.1 (startWarp b l.region role c g e.1 e.2 (pipes.getD e.2 0) linear s.tick d.1)) s
  (slots.foldl (fun s i => s.partitionCheck c i b) s, g)

/-! Restore (R328) -/

/-- A number of a list of pairs exchanged. -/
def renumber (m : List (Nat × Nat)) (n : Nat) : Nat := match m.find? (fun e => e.1 = n) with | some e => e.2 | none => n

/-- A saved warp as it comes back: under new numbers, its age begun anew; a member at the latch waits there still, and a YIELD has
ended. -/
def Warp.restored (w : Warp) (group pipe tick cycle : Nat) (ids : List (Nat × Nat)) : Warp :=
  { w with
    group := group, pipe := pipe, age := tick, swap := 0, readySince := none
    pend := w.pend.map (fun (p : Pend) => match p.op with
      | .engine r => { p with op := .engine (renumber ids r) }
      | _ => p)
    slices := w.slices.map (fun e =>
      let sl := e.2
      (e.1, ({ sl.retries with
        stall := cycle, waitSince := cycle
        wait := (match sl.wait with | .yield => .ready | x => x)
        pins := sl.pins.map (fun p => (p.1, renumber ids p.2))
        hazards := sl.hazards.map (fun (h : Hazard) => if h.window then { h with left := renumber ids h.left } else h) } : Slice))) }

/-- Ends a saved context's place among the moored ones: it is read from where it stands (R274). -/
def State.unmoor (s : State) (x : Saved) : State :=
  if x.place = 2 || x.kind = 4 then s
  else s.modCore x.mcore (fun k => Core.moor { k with moored := k.moored.filter (fun m => m.saved ≠ x.id) })

/-- The lines of a saved context in its region's context area. -/
def State.areaLines (s : State) (c : Nat) (x : Saved) : List Nat :=
  let r := x.group.region
  let va := r.ctxArea.toNat + x.area
  (List.range ((x.bytes + 63) / 64)).filterMap (fun i => match s.xlate c r.table r.asid (va + 64 * i) true false false with
    | .ok pa => some (pa / 64)
    | .error _ => none)

/-- The errors that a restore meets, with the STORE and the place of an uncorrectable one: in the granules in which the context is
moored, or in the lines of the context area (R345, R347; log entry 119). -/
def State.contextErrors (s : State) (c : Nat) (x : Saved) : State × Option (Nat × Nat) :=
  if x.kind = 4 then (s, none)
  else if x.place = 2 then
    if s.poison.isEmpty && s.upsets.isEmpty then (s, none)
    else
      let ls := s.areaLines c x
      let s := ls.foldl (fun s l => s.readHome l) s
      (s, (ls.find? (fun l => s.isPoisoned l)).map (fun l => (8, l)))
  else
    let n := (x.bytes + 16383) / 16384
    let q := s.meetWords ((s.upsets.map (·.place)).filter (fun p => match p with
      | .pool d gr o => d = x.mcore && decide (x.mgran ≤ gr) && decide (gr < x.mgran + n) && decide ((gr - x.mgran) * 16384 + o < x.bytes)
      | _ => false))
    (q.1, match q.2, x.bad with
      | some e, _ => some e
      | none, o :: _ => some (0, (x.mgran + o / 16384) * 16384 + o % 16384)
      | none, [] => none)

/-- Restores a saved workgroup on a core; a copy request that a delivered fault held goes on at its cursor (R221, R328).
An uncorrectable error in its context is consumed by it (R345). -/
def State.restoreGroup (s : State) (c : Nat) (x : Saved) (l : Launch) : State :=
  let met := s.contextErrors c x
  let s := met.1.unmoor x
  let s := { s with saved := s.saved.filter (fun y => y.id ≠ x.id) }
  let q := s.takeGrans c x.group.region (pwNeed x.group.partition)
  let s := q.1
  let k := s.core c
  let g := Tab.fresh k.groups 0 128
  let roles := l.block.warpRoles
  let slots := (s.freeSlots c).take x.warps.length
  let pipes := (pipePlan k.pipeCounts ((List.range x.warps.length).map (fun i => match roles[i]? with
    | some r => r.pipes | none => 15))).getD []
  let old := (x.copyq.map (·.id) ++ x.mq.map (·.id) ++ x.windows.map (·.id)).dedup
  let ids := old.zipIdx.map (fun e => (e.1, k.nextReq + e.2))
  let re := renumber ids
  let seats := (x.warps.map (·.1)).zip slots
  let move := renumber seats
  let mem := fun (ms : List (Nat × Mask8 × Nat)) => ms.map (fun m => (move m.1, m.2))
  let s := s.setCore c { k with
    copyq := k.copyq ++ x.copyq.map (fun (r : CopyReq) =>
      let waits := x.warps.any (fun e => e.1 = r.slot && e.2.slices.any (fun q => q.2.pending.any (fun p => p.sub = 2)))
      { r with id := re r.id, slot := move r.slot, group := g, held := r.held && waits })
    mq := k.mq ++ x.mq.map (fun (e : EngInstr) => { e with id := re e.id, group := g, members := mem e.members })
    windows := k.windows ++ x.windows.map (fun (e : StageWindow) => { e with
      id := re e.id, group := g, members := mem e.members, rows := e.rows.map (fun r => (move r.1, r.2))
      instr := { e.instr with id := re e.instr.id, group := g, members := mem e.instr.members } })
    nextReq := k.nextReq + old.length }
  let s := (s.beginLaunch c l.handle).startAcquire c
  let s := (s.setGroup c g { x.group with
    grans := q.2, slots := slots, deadline := none, fault := none
    latch := x.group.latch.map (fun (a : Arrival) => { a with slot := move a.slot }) }).modCore c Core.moor
  let s := (x.warps.zip slots).zipIdx.foldl (fun s e =>
    s.seat c e.1.2 (e.1.1.2.restored g (pipes.getD e.2 0) s.tick s.cycle ids)) s
  let s := slots.foldl (fun s i => ((s.warp c i).gangs).foldl (fun s r => s.traceEvent c i r 5) s) s
  let s := slots.foldl (fun s i =>
    match (s.warp c i).heldHalt with
    | none => s
    | some (gang, t) => (s.modWarp c i (fun w => { w with heldHalt := none })).haltNow c i gang t) s
  match met.2 with
  | some e => s.consume c g e.1 e.2
  | none => s

/-! Scheduling (R290–R293) -/

/-- Queues with undispatched launches. -/
def State.queueKeys (s : State) : List Nat := ((s.launches.filter (·.undispatched)).map (fun l => l.region.queue)).dedup

/-- The head launch of a queue. -/
def State.headOf (s : State) (key : Nat) : Option Launch := s.launches.find? (fun l => l.undispatched && l.region.queue = key)

/-- A region's fault domain is on hold (R282). -/
def State.domainHeld (s : State) (r : Region) : Bool := r.faultDom ≠ 0 && (s.vi r.vi).holds.contains r.faultDom

def State.queue (s : State) (key : Nat) : QueueState := Tab.get QueueState.reset s.queues key

/-- Where a queue's next workgroup goes, if it is eligible (R282, R290). -/
def State.queuePlace (s : State) (key : Nat) : Option Nat :=
  match s.headOf key with
  | none => none
  | some l => if s.domainHeld l.region || !(s.dispatchable l) then none else s.findPlace l.ask true

/-- The caps of R283 allow a workgroup on some core of its dies. -/
def State.someBudget (s : State) (a : Ask) : Bool :=
  (setBits 8 a.mask).any (fun d => (dieCores d).any (fun c => s.budgetOk c a))

/-- A queue is budget-blocked: the caps of R283 hold its next workgroup back on every core, or on those that have room. -/
def State.budgetBlocked (s : State) (key : Nat) : Bool :=
  match s.headOf key with
  | none => false
  | some l => (s.findPlace l.ask true).isNone && ((s.findPlace l.ask false).isSome || !(s.someBudget l.ask))

/-- A queue's next workgroup fits no die for lack of free resources (R293). -/
def State.queueUnfit (s : State) (key : Nat) : Bool :=
  match s.headOf key with
  | none => false
  | some l =>
    !(s.domainHeld l.region) && s.dispatchable l && (s.findPlace l.ask false).isNone && s.someBudget l.ask

/-- The class of a queue. -/
def State.queueClass (s : State) (key : Nat) : Nat := match s.headOf key with | some l => l.region.cls | none => 0

/-- The least of a list, 0 where it is empty. -/
def leastOf (l : List Nat) : Nat := match l with | [] => 0 | a :: r => r.foldl min a

/-- Brings every queue's eligibility up to date (R291, R293). -/
def State.refreshQueues (s : State) : State :=
  let keys := s.queueKeys
  let now := keys.filter (fun k => (s.queuePlace k).isSome)
  let old := now.filter (fun k => (s.queue k).eligible)
  let qs := keys.foldl (fun (t : Tab QueueState) k =>
    let q := s.queue k
    let e := now.contains k
    let v := leastOf ((old.filter (fun o => s.queueClass o = s.queueClass k)).map (fun o => (s.queue o).pass))
    Tab.put t k { q with
      eligible := e, pass := if e && !q.eligible then max q.pass v else q.pass
      since := if !e && s.queueUnfit k then some (q.since.getD s.tick) else none
      holds := q.holds && !(s.budgetBlocked k) }) []
  { s with queues := qs }

/-- Scales the tickets of the queues below one node (R283): each queue is its number, its tickets and its chain from the
root down. -/
def scaleNode (node budget : Nat) (qs : List (Nat × Nat × List (Nat × Nat))) : List (Nat × Nat × List (Nat × Nat)) :=
  let sum := ((qs.filter (fun q => q.2.2.any (fun n => n.1 = node))).map (fun q => q.2.1)).sum
  if budget = 0 || sum ≤ budget then qs
  else qs.map (fun q => if q.2.2.any (fun n => n.1 = node) then (q.1, max 1 (q.2.1 * budget / sum), q.2.2) else q)

/-- Applies every node that stands `d` below a root, for the depths from `d` on. -/
def scaleFrom : Nat → Nat → List (Nat × Nat × List (Nat × Nat)) → List (Nat × Nat × List (Nat × Nat))
  | 0, _, qs => qs
  | n + 1, d, qs =>
    let nodes := (qs.filterMap (fun q => q.2.2[d]?)).dedup
    scaleFrom n (d + 1) (nodes.foldl (fun l e => scaleNode e.1 e.2 l) qs)

/-- The tickets of a queue after R283. -/
def State.tickets (s : State) (key : Nat) : Nat :=
  let qs := s.queueKeys.filterMap (fun k => (s.headOf k).bind (fun l =>
    if k / 65536 = key / 65536 then some (k, l.region.tickets, (l.region.chain.map (fun n => (n.1, n.2.2.2.2))).reverse) else none))
  let depth := (qs.map (fun q => q.2.2.length)).foldl max 0
  match (scaleFrom depth 0 qs).find? (fun q => q.1 = key) with
  | some q => max 1 q.2.1
  | none => 1

/-- Tie order of queues: the lower region index, then the lower interface. -/
def queueBefore (a b : Nat) : Bool := decide (a % 65536 * 64 + a / 65536 < b % 65536 * 64 + b / 65536)

/-- The queue of least pass. -/
def State.leastPass (s : State) : List Nat → Option Nat
  | [] => none
  | k :: r => some (r.foldl (fun a b =>
      if (s.queue b).pass < (s.queue a).pass || ((s.queue b).pass = (s.queue a).pass && queueBefore b a) then b else a) k)

/-- The launch with the conditions that are seen to hold for a workgroup noted (R294). -/
def State.noteMet (s : State) (l : Launch) (linear : Nat) : Launch :=
  { l with met := (l.met ++ ((List.range l.block.deps.length).filter (fun i => s.depMet l linear i)).map (fun i => (linear, i))).dedup }

/-- Dispatches the next workgroup of a queue to a core, and advances the queue's pass (R291, R296). -/
def State.dispatchTo (s : State) (key c : Nat) : State :=
  match s.headOf key with
  | none => s
  | some l =>
    let linear := l.nextLinear
    let stride := 2 ^ 20 / s.tickets key
    let fails := s.earlyFails l linear
    let l' := (s.noteMet l linear).dispatched
    let q := s.queue key
    let s := { s with
      launches := s.launches.map (fun (x : Launch) => if x.handle = l.handle then l' else x)
      queues := Tab.put s.queues key { q with pass := q.pass + stride, since := none, holds := false } }
    let s := { s with queues := s.queues.filter (fun e => s.queueKeys.contains e.1) }
    if fails.any (fun d => s.waitsOut l' d) && !l.block.badPartition then
      let x : Saved :=
        { id := s.nextHandle, launch := l.handle, linear := linear, kind := 4, released := true, saveTick := s.tick, core := c
          group := { Group.empty with launch := l.handle, linear := linear, region := l.region, partition := l.block.partition }
          warps := [], copyq := [], chunks := [], mq := [], windows := [], place := 2, mcore := 0, mgran := 0, bytes := 256, area := 0
          wide := l.wide, bad := [] }
      { s with saved := s.saved ++ [x], nextHandle := s.nextHandle + 1 }
    else
      let p := s.placeGroup c l' linear
      if fails.isEmpty then p.1.startGroup c p.2 l' else p.1

/-- The matrix engine holds FP64 work for a saved workgroup. -/
def Saved.fp64 (x : Saved) : Bool := x.mq.any (fun e => !e.finished && (match e.kind with
  | .bfly | .bchain => fbWFmt e.fmt = 3 || fbXFmt e.fmt = 3
  | _ => false))

/-- What a saved workgroup asks: with FP64 stages to go on, a wide die (R47, R51; log entry 103). -/
def Saved.ask (x : Saved) (l : Launch) : Ask :=
  { l.ask with mask := diesOf x.group.region (x.wide || x.fp64), grans := pwNeed x.group.partition, scale := pwScale x.group.partition }

/-- Where a saved workgroup may re-enter (R282, R296, R328). -/
def State.savedPlace (s : State) (x : Saved) : Option (Launch × Nat) :=
  match s.launches.find? (fun l => l.handle = x.launch) with
  | none => none
  | some l =>
    if !x.released || s.domainHeld x.group.region || (x.kind = 4 && !(s.earlyFails l x.linear).isEmpty) then none
    else ((s.unmoor x).findPlace (x.ask l) true).map (fun c => (l, c))

/-- A saved workgroup re-enters: one that waited for its conditions starts afresh (R296), another is restored. -/
def State.reenter (s : State) (x : Saved) (l : Launch) (c : Nat) : State :=
  if x.kind = 4 then
    let s := { s with saved := s.saved.filter (fun y => y.id ≠ x.id) }
    let p := s.placeGroup c l x.linear
    p.1.startGroup c p.2 l
  else s.restoreGroup c x l

/-- DISPATCH_TURN of a class (R290–R293): workgroups that re-enter first, then the queue of least pass; only the queue
that holds the class, where one does. -/
def State.dispatchTurn (s : State) (cls : Nat) : State :=
  let s := s.refreshQueues
  let elig := s.queueKeys.filter (fun k => (s.queue k).eligible)
  if elig.any (fun k => decide (s.queueClass k < cls)) then s
  else
    let back := s.saved.findSome? (fun x =>
      if x.group.region.cls = cls then (s.savedPlace x).map (fun p => (x, p.1, p.2)) else none)
    match back with
    | some (x, l, c) => s.reenter x l c
    | none =>
      let mine := s.queueKeys.filter (fun k => s.queueClass k = cls)
      let cands := match mine.find? (fun k => (s.queue k).holds) with
        | some k => elig.filter (fun e => e = k)
        | none => elig.filter (fun e => s.queueClass e = cls)
      match s.leastPass cands with
      | none => s
      | some k => match s.queuePlace k with
        | none => s
        | some c => s.dispatchTo k c

def execDispatchTurn (cls : Nat) (s : State) : Host.Outcome State Fault Refusal :=
  .next (if s.security.started then s.dispatchTurn cls else s)

/-- CLASS_HOLD (R293). -/
def State.classHold (s : State) (key : Nat) : State :=
  let s := s.refreshQueues
  let q := s.queue key
  let mine := s.queueKeys.filter (fun k => s.queueClass k = s.queueClass key)
  match q.since with
  | none => s
  | some t =>
    if s.leastPass mine = some key && decide (t + 65536 ≤ s.tick) then
      { s with queues := Tab.put s.queues key { q with holds := true } }
    else s

def execClassHold (vi region : Nat) (s : State) : Host.Outcome State Fault Refusal := .next (s.classHold (vi * 65536 + region))

/-- DEPENDENCE_MET (R294–R296): a condition that holds is noted, and a workgroup that waits in its place starts once all
of its conditions hold. -/
def State.dependenceMet (s : State) (handle linear i : Nat) : State :=
  match s.launches.find? (fun l => l.handle = handle) with
  | none => s
  | some l =>
    if i < l.block.deps.length && linear < l.block.total && s.depMet l linear i then
      let l' : Launch := if l.met.contains (linear, i) then l else { l with met := l.met ++ [(linear, i)] }
      let s := { s with launches := s.launches.map (fun (x : Launch) => if x.handle = handle then l' else x) }
      if (s.earlyFails l' linear).isEmpty then
        let here := s.cores.flatMap (fun k => (k.2.groups.filter (fun g =>
          g.2.launch = handle && g.2.linear = linear && g.2.waiting)).map (fun g => (k.1, g.1)))
        here.foldl (fun s p => s.startGroup p.1 p.2 l') s
      else s
    else s

def execDependenceMet (launch linear dep : Nat) (s : State) : Host.Outcome State Fault Refusal :=
  .next (s.dependenceMet launch linear dep)

def execFdrelease (vi : Nat) (value : W64) (s : State) : Host.Outcome State Fault Refusal :=
  .next (if BitVec.field value 63 12 = 0 && decide (vi < 64) then
      s.modVi vi (fun v => { v with holds := v.holds.filter (fun f => f ≠ value.toNat) })
    else s)

/-! The end of a workgroup (R241, R289) -/

/-- Adds 1 to a counter at its home as ATOM.add does, the core's copy of its line being invalidated except overlay bytes (R172),
or drops the update with event 9, as it does where the counter's line is poisoned (R241; log entry 121). -/
def State.countEnd (s : State) (c : Nat) (r : Region) (va : VA) : State :=
  match s.regionPa r va true true with
  | .error _ => s.event r.vi 9 0 0 r.faultDom r.index
  | .ok pa =>
    let s := ((s.notePage r.table r.asid va.toNat).readHome (pa / 64)).dropCopies (pa / 64)
    if s.isPoisoned (pa / 64) then s.event r.vi 9 0 0 r.faultDom r.index
    else (s.homeWrite pa (toBytes 8 (ofBytes (s.homeBytes pa 8) + 1))).invalidateLine c (pa / 64)

/-- The counters of a launch's end. -/
def Launch.counters (l : Launch) : List VA :=
  l.block.completion :: (if l.block.progress = 0 then [] else [l.block.progress])

/-- Lines of the counters that must be shot down before they are written (R313). -/
def State.countLines (s : State) (l : Launch) : List Nat :=
  l.counters.filterMap (fun va => match s.regionPa l.region va true true with
    | .ok pa => some (pa / 64)
    | .error _ => none)

/-- A workgroup counts, and its launch with it where it was the last. -/
def State.countGroup (s : State) (c : Nat) (l : Launch) : State :=
  let s := l.counters.foldl (fun s va => s.countEnd c l.region va) s
  let l' : Launch := { l with ended := l.ended + 1 }
  if l'.ended < l.block.total then { s with launches := s.launches.map (fun (x : Launch) => if x.handle = l.handle then l' else x) }
  else
    let s := { s with launches := s.launches.filter (fun x => x.handle ≠ l.handle) }
    if l.block.notify && (s.vi l.region.vi).ctl.getLsbD 0 then s.event l.region.vi 6 0 0 l.region.faultDom l.region.index else s

/-- The release of a counter's atomic at package scope (R241). -/
def State.countRelease (s : State) (c g : Nat) : State :=
  let q := s.release c
  q.1.modGroup c g (fun x => { x with counting := some q.2 })

/-- Every warp of a workgroup has ended, and nothing that it issued is outstanding. -/
def State.groupDone (s : State) (c g : Nat) : Bool :=
  let x := s.group c g
  x.slots.all (fun i => s.warpDone c i && (s.warp c i).pend.isEmpty)

/-- WORKGROUP_END: it publishes as REL.domain does; after that its counters' atomics publish what the overlay holds by then, once
more while it marks their lines (R172), and the workgroup counts and is freed. -/
def State.workgroupEnd (s : State) (c g : Nat) : State :=
  match Tab.find g (s.core c).groups with
  | none => s
  | some x =>
    if x.waiting || x.saving.isSome || !(s.groupDone c g) then s
    else match x.ending with
      | none =>
        let q := s.release c
        q.1.modGroup c g (fun x => { x with ending := some q.2 })
      | some seq =>
        if !(s.publishedFor c 4 seq) then s
        else match s.launches.find? (fun l => l.handle = x.launch), x.counting with
          | none, _ => s.dropGroup c g
          | some _, none => s.countRelease c g
          | some l, some n =>
            if !(s.publishedFor c 3 n) then s
            else if (s.countLines l).any (fun a => ((s.core c).overlays a).any (fun o => o.mask ≠ 0)) then s.countRelease c g
            else
            let q := (s.countLines l).foldl (fun (q : State × Bool) a =>
              let r := q.1.shootdown a
              (r.1, q.2 && r.2)) (s, true)
            if q.2 then (q.1.dropGroup c g).countGroup c l else q.1

def execWorkgroupEnd (core group : Nat) (s : State) : Host.Outcome State Fault Refusal := .next (s.workgroupEnd core group)

end Sys2Proof.Machine
end

