-- ==== Sys2Proof/Machine/Stage.lean ====
section
/-! DEFINITION. The stage instructions, opcodes 0xE0 to 0xEA (R182–R209): the grant and the team, operand checks, the
rendezvous latch, and the matrix engine's events. -/

namespace Sys2Proof.Machine

/-! The grant (R186) -/

/-- A format a stage may use. -/
def stageFmt (f : Nat) : Bool := f = 1 || f = 2 || f = 3 || (decide (9 ≤ f) && decide (f ≤ 15))

/-- Why a request is refused, 0 where it is not (R186). -/
def shapeReason (accs p blk m w x : Nat) : Nat :=
  if 6 < blk || !([1, 2, 4, 8, 16, 32, 64].contains p) then 0x10
  else if 128 < 2 * 2 ^ blk * p then 0x11
  else if m = 0 || 256 < m then 0x12
  else if !stageFmt w || !stageFmt x || ((w = 3) ≠ (x = 3)) then 0x13
  else if accs = 0 then 0x14
  else 0

/-- The grant for a request in a workgroup of `accs` accumulator granules (R186, Table 8.3). -/
def shapeGrant (accs : Nat) (req : W64) : W64 :=
  let m := BitVec.field req 18 10
  let w := BitVec.field req 22 19
  let r := shapeReason accs (BitVec.field req 6 0) (BitVec.field req 9 7) m w (BitVec.field req 26 23)
  if r ≠ 0 then BitVec.ofNat 64 (r * 2 ^ 56)
  else
    let cap := if w = 3 then min 128 (16 * accs) else min 256 (32 * accs)
    let cols := min m cap
    BitVec.ofNat 64 (2 ^ 63 + (if cap < m then 2 ^ 56 else 0) + (req.toNat % 2 ^ 27 - m * 2 ^ 10 + cols * 2 ^ 10))

/-- MTEAM with a grant's fields in bits 63:36 (R186, Table 8.2). -/
def withGrant (mteam grant : W64) : W64 :=
  BitVec.ofNat 64 (bitsAt mteam.toNat 0 36 + 2 ^ 36 * bitsAt grant.toNat 0 27 + 2 ^ 63 * bitsAt grant.toNat 63 1)

def execMshape (h : Header) (o : FmtG) (s : State) : Host.Outcome State Fault Refusal :=
  s.issue (.mshape h o) (fun s u =>
    let w := s.warp u.core u.slot
    let req := w.readS u.gang (Operand.num o.opx)
    if BitVec.field req 63 27 ≠ 0 then .trap (illegal u.gang)
    else if (BitVec.field req 22 19 = 3 || BitVec.field req 26 23 = 3) && !coreWide u.core then .trap (featureFault u.gang)
    else if w.gangActs u.gang h then
      let grant := shapeGrant (pwAcc (s.group u.core w.group).partition) req
      let s' := s.modWarp u.core u.slot (fun w => { w with mteam := withGrant w.mteam grant })
      .done ((s'.addRegs u h.settok.toNat ((placesS u.gang (Operand.num o.opw)).map (fun p => (p, grant))) 0 false).advance u) true
    else .done (s.advance u) false)

/-! The team (R187) -/

/-- The warp indices in SLOT0 to SLOT(COUNT − 1). -/
def teamSlots (mteam : W64) : List Nat :=
  (List.range (BitVec.field mteam 32 30)).map (fun i => bitsAt mteam.toNat (5 * i) 5)

/-- What MTEAM refuses to write, in a workgroup of `warps` warps (R187). -/
def teamBad (v : W64) (warps : Nat) : Bool :=
  let n := BitVec.field v 32 30
  BitVec.field v 63 33 ≠ 0 || n = 1 || n = 7
  || (List.range 6).any (fun i => decide (n ≤ i) && bitsAt v.toNat (5 * i) 5 ≠ 0)
  || !(decide (teamSlots v).Nodup) || (teamSlots v).any (fun i => decide (warps ≤ i))

def execMteam (h : Header) (o : FmtG) (s : State) : Host.Outcome State Fault Refusal :=
  s.issue (.mteam h o) (fun s u =>
    let w := s.warp u.core u.slot
    let v := w.readS u.gang (Operand.num o.opx)
    if teamBad v (s.group u.core w.group).slots.length then .trap (illegal u.gang)
    else if w.gangActs u.gang h then
      .done ((s.modWarp u.core u.slot (fun w => { w with mteam := BitVec.ofNat 64 (w.mteam.toNat / 2 ^ 33 * 2 ^ 33 + v.toNat) })).advance
        u) false
    else .done (s.advance u) false)

def execMteamRd (h : Header) (o : FmtG) (s : State) : Host.Outcome State Fault Refusal :=
  s.issue (.mteamRd h o) (fun s u =>
    let w := s.warp u.core u.slot
    if w.gangActs u.gang h then
      .done ((s.addRegs u h.settok.toNat ((placesS u.gang (Operand.num o.opw)).map (fun p => (p, w.mteam))) 0 false).advance u) true
    else .done (s.advance u) false)

def execMstride (h : Header) (o : FmtG) (s : State) : Host.Outcome State Fault Refusal :=
  s.issue (.mstride h o) (fun s u =>
    let w := s.warp u.core u.slot
    let v := w.srcS u.gang 0 o.opx
    if w.gangActs u.gang h then
      .done ((s.modWarp u.core u.slot (fun w => { w with bs := Tab.set 0 w.bs o.stride.toNat (BitVec.truncate 16 v) })).advance u) false
    else .done (s.advance u) false)

/-! MFENCE and MWAIT (R199, R200) -/

/-- What a warp has written in its frames is read from here on as it stands. -/
def Slice.fence (sl : Slice) : Slice :=
  { sl with unfenced := [], hunfenced := [], hazards := sl.hazards.filter (fun h => h.varLat || h.window || (h.kind ≠ .row && h.kind ≠ .hrow)) }

def execMfence (h : Header) (o : FmtG) (s : State) : Host.Outcome State Fault Refusal :=
  s.issue (.mfence h o) (fun s u =>
    let w := s.warp u.core u.slot
    if w.gangActs u.gang h then
      let s := s.modWarp u.core u.slot (fun w => { w with slices := w.slices.map (fun e => (e.1, e.2.fence)) })
      .done (((s.sawTokens u.core u.slot).modGroup u.core w.group (fun g => g.fence w.idx)).advance u) false
    else .done (s.advance u) false)

def execMwait (h : Header) (o : FmtG) (s : State) : Host.Outcome State Fault Refusal :=
  s.issue (.mwait h o) (fun s u =>
    if (s.warp u.core u.slot).gangActs u.gang h then
      let s := s.modWarp u.core u.slot (fun w => { w with waited := w.waited ||| BitVec.ofNat 6 (2 ^ o.subop.toNat) })
      .done ((s.closeWindows u.core u.slot (o.subop.toNat + 1)).advance u) false
    else .done (s.advance u) false)

/-! Scratchpad pairs (R190, Table 8.4) -/

def spBase (a : W64) : Nat := BitVec.field a 31 0
def spRpitch (a : W64) : Nat := BitVec.field a 47 32
def spTpitch (a : W64) : Nat := BitVec.field a 63 48
def spRows (b : W64) : Nat := BitVec.field b 11 4
def spPartner (b : W64) : Nat := BitVec.field b 41 20
def spMap (b : W64) : Nat := BitVec.field b 63 42

/-- The conditions that make a pair ILLEGAL, for rows of `bytes` bytes, with or without a bitmap and a split half (R190). A sparse
stage's MAP that is no multiple of 32 is one of them, the model's choice (log entry 130). -/
def spBad (a b : W64) (bytes : Nat) (sparse split : Bool) : Bool :=
  BitVec.field b 19 12 ≠ 0 || decide (spRpitch a < bytes) || (!sparse && spMap b ≠ 0) || (!split && spPartner b ≠ 0)
  || (sparse && spMap b % 32 ≠ 0)

/-- The byte ranges of `rows` rows of `bytes` bytes from an address. -/
def rowRanges (base pitch rows bytes : Nat) : List (Nat × Nat) :=
  if bytes = 0 then [] else (List.range rows).map (fun r => (base + r * pitch, base + r * pitch + bytes - 1))

/-- The ranges a pair's tiles take: those with the indices from `first`, `n` of them; both halves in the split form. -/
def spRanges (a b : W64) (rows bytes first n : Nat) (split : Bool) : List (Nat × Nat) :=
  if split then
    rowRanges (spBase a) (spRpitch a) (rows / 2) bytes ++ rowRanges (spPartner b) (spRpitch a) (rows / 2) bytes
  else (List.range n).flatMap (fun i => rowRanges (spBase a + 64 * spTpitch a * (first + i)) (spRpitch a) rows bytes)

/-- The range of a bitmap. -/
def mapRange (b : W64) (sparse : Bool) : List (Nat × Nat) := if sparse then [(spMap b, spMap b + 31)] else []

/-- A range reaches beyond `size` bytes. -/
def outside (rs : List (Nat × Nat)) (size : Nat) : Bool := rs.any (fun r => decide (size ≤ r.2))

/-! The checks of a team instruction (R196) -/

/-- What a team instruction names, as its member reads it. -/
structure StageUse where
  shape : Shape
  chain : Bool
  /-- First weight tile, and how many. -/
  first : Nat
  tiles : Nat
  split : Bool
  sparse : Bool
  acc : Nat
  fmt : W64
  alpha : W64
  /-- AUX names a register. -/
  hasAux : Bool
  strides : List Nat
  opw : Operand
  opx : Operand
  pairW : W64 × W64
  pairX : W64 × W64
  deriving DecidableEq, Repr

/-- The registers of a pair, where the operand is one. -/
def Warp.stagePair (w : Warp) (g : Mask8) (o : Operand) : W64 × W64 :=
  match o with
  | .s i => (w.readS g i, w.readS g (i + 1))
  | _ => (0, 0)

def Warp.stageUse (w : Warp) (g : Mask8) (o : FmtG) (chain : Bool) : StageUse :=
  let f := w.readS g (Operand.num o.fmt)
  { shape := shapeOf w.mteam, chain := chain
    first := if chain then 0 else o.count.toNat, tiles := if chain then o.count.toNat else 1
    split := o.split, sparse := o.sparse, acc := o.acc.toNat, fmt := f
    alpha := if fbMode f = 2 then
        (if fmtWide f then w.readS g (Operand.num o.aux) else BitVec.ofNat 64 ((w.readS g (Operand.num o.aux)).toNat % 2 ^ 32))
      else 0
    hasAux := Operand.isS o.aux
    strides := if o.split then [(shapeOf w.mteam).pairs]
      else (List.range (if chain then o.count.toNat else 1)).map (fun i => (Tab.get 0 w.bs (o.stride.toNat + i)).toNat)
    opw := o.opw, opx := o.opx, pairW := w.stagePair g o.opw, pairX := w.stagePair g o.opx }

def StageUse.rows (u : StageUse) : Nat := u.shape.rows
/-- Width of a weight tile. -/
def StageUse.wide (u : StageUse) : Nat := 2 * u.shape.blk
def StageUse.bytesW (u : StageUse) : Nat := rowBytes u.wide (fbWFmt u.fmt)
def StageUse.bytesX (u : StageUse) : Nat := rowBytes u.shape.cols (fbXFmt u.fmt)

/-- The format block is ILLEGAL (R191, R192, R201). The split form halves N for the activations' blocks alone, the model's choice (log
entry 131). -/
def StageUse.fmtBad (u : StageUse) : Bool :=
  let f := u.fmt
  let wf := fbWFmt f
  let xf := fbXFmt f
  let n := u.rows
  BitVec.field f 63 46 ≠ 0 || fbCarry f = 3 || fbMode f = 3 || fbWLen f = 3 || fbXLen f = 3
  || wf ≠ u.shape.wfmt || xf ≠ u.shape.xfmt
  || (!isBfp wf && (fbWScale f ≠ 0 || fbWLen f ≠ 0)) || (!isBfp xf && (fbXScale f ≠ 0 || fbXLen f ≠ 0))
  || (fmtWide f && (fbCarry f = 1 || fbCarry f = 2))
  || (fbMode f = 2 && !u.hasAux)
  || (isBfp wf && n * u.wide % lenOf (fbWLen f) ≠ 0)
  || (isBfp xf && (if u.split then n / 2 else n) * u.shape.cols % lenOf (fbXLen f) ≠ 0)
  || (decide (2 ≤ u.strides.length) && u.chain && fbCarry f = 2 && n * u.shape.cols % lenOf (fbXLen f) ≠ 0)

/-- The stride rule (R196). -/
def StageUse.strideBad (u : StageUse) : Bool :=
  u.strides.any (fun s => !([1, 2, 4, 8, 16, 32, 64].contains s) || decide (u.shape.pairs < s))

/-- The rules of split and sparse stages and of the scratchpad pairs (R190, R195, R202). -/
def StageUse.pairBad (u : StageUse) : Bool :=
  (u.sparse && (decide (u.shape.blk < 4) || u.shape.cols % 16 ≠ 0 || !Operand.isS u.opx || !Operand.isS u.opw || u.split))
  || (u.split && !Operand.isS u.opx)
  || (Operand.isS u.opw && spBad u.pairW.1 u.pairW.2 u.bytesW u.sparse false)
  || (Operand.isS u.opx && spBad u.pairX.1 u.pairX.2 u.bytesX u.sparse u.split)

/-- Regions of the accumulator that the outputs take (R193). -/
def StageUse.regions (u : StageUse) : Nat := if fmtWide u.fmt then (u.shape.cols + 15) / 16 else (u.shape.cols + 31) / 32

/-- Registers that each member of a team of `t` supplies for a tile (R189). -/
def memberRegs (units t : Nat) : Nat := (units + t - 1) / max 1 t

/-- The frame registers that operands take: one beyond the highest (R189, R192). -/
def StageUse.frameTop (u : StageUse) (t : Nat) : Nat :=
  let top := fun (o : Operand) (units n : Nat) => match o with | .f i => i.val + n * memberRegs units t | _ => 0
  max (top u.opw (tileUnits u.rows u.wide (fbWFmt u.fmt)) (u.first + u.tiles))
    (top u.opx (tileUnits u.rows u.shape.cols (fbXFmt u.fmt)) 1)

/-- The scratchpad ranges that it reads. -/
def StageUse.padRanges (u : StageUse) : List (Nat × Nat) :=
  (if Operand.isS u.opw then
      spRanges u.pairW.1 u.pairW.2 u.rows u.bytesW u.first u.tiles false ++ mapRange u.pairW.2 u.sparse else [])
  ++ (if Operand.isS u.opx then
      spRanges u.pairX.1 u.pairX.2 u.rows u.bytesX 0 1 u.split ++ mapRange u.pairX.2 u.sparse else [])

/-- The ranges of scale memory that it reads (R192). -/
def StageUse.scaleRanges (u : StageUse) : List (Nat × Nat) :=
  let f := u.fmt
  let per := u.rows * u.wide / lenOf (fbWLen f)
  (if isBfp (fbWFmt f) then [(fbWScale f + u.first * per, fbWScale f + (u.first + u.tiles) * per - 1)] else [])
  ++ (if isBfp (fbXFmt f) then [(fbXScale f, fbXScale f + u.rows * u.shape.cols / lenOf (fbXLen f) - 1)] else [])

/-- The rows of the tiles are more than a pair has (R190). -/
def StageUse.rowsOut (u : StageUse) : Bool :=
  (Operand.isS u.opw && decide (spRows u.pairW.2 < u.rows))
  || (Operand.isS u.opx && decide (spRows u.pairX.2 < if u.split then u.rows / 2 else u.rows))

/-- A format block names FP64. -/
def blockFp64 (f : W64) : Bool := fbWFmt f = 3 || fbXFmt f = 3

/-- The first of the checks of R196 that fails. A format block that names FP64 on a standard die raises FEATURE where its codes
are checked (R51; log entry 103). -/
def State.teamCheck (s : State) (u : Cur) (h : Header) (x : StageUse) : Option Trap :=
  let w := s.warp u.core u.slot
  let g := s.group u.core w.group
  let team := teamSlots w.mteam
  if h.guard ≠ 7 || h.gneg || h.settok = 0 then some (illegal u.gang)
  else if team.isEmpty || !(team.contains w.idx) || !(w.mteam.getLsbD 63) then some (illegal u.gang)
  else if u.gang ≠ 0xFF then some (trapH 0x0C 0 (gangMask u.gang))
  else if blockFp64 x.fmt && !coreWide u.core then some (featureFault u.gang)
  else if x.fmtBad || x.strideBad || x.pairBad || decide (pwAcc g.partition < x.acc + x.regions) then some (illegal u.gang)
  else if (gangSlices u.gang).any (fun j => decide ((w.slice j).fszNow < x.frameTop team.length)) then some (protFault u.gang)
  else if x.rowsOut || outside x.padRanges g.padBytes || outside x.scaleRanges (1024 * pwAcc g.partition) then
    some (boundsFault (gangMask u.gang))
  else none

/-! Arriving at the latch (R197) -/

/-- A row as a stage reads it: byte by byte as it stands, or as it was before writes that no MFENCE follows (R199). -/
def mixRow (seed key : Nat) (now : W128) (old : Option W128) : W128 :=
  match old with
  | none => now
  | some o => BitVec.ofNat 128 (ofBytes ((List.range 16).map (fun i =>
      BitVec.ofNat 8 (bitsAt (if freeBit seed (key + i) then o else now).toNat (8 * i) 8))))

/-- Register `i` of a slice as a stage operand: the windows of other stages do not concern it (R198). -/
def Slice.stageRow (sl : Slice) (B seed j i : Nat) : W128 :=
  let open' : Slice := { sl with hazards := sl.hazards.filter (fun h => !h.window) }
  let now := open'.readRow B seed i
  mixRow seed (500000000 + (j * 128 + i) * 16) now
    (if sl.handler.isSome then Tab.find i sl.hunfenced else Tab.find (sl.ringRow B i) sl.unfenced)

/-- The rows of `n` registers from `i`: register by register, its eight slices in turn. -/
def Warp.stageRows (w : Warp) (i n : Nat) : List W128 :=
  (List.range n).flatMap (fun k => (List.range 8).map (fun j => (w.slice j).stageRow w.rowB w.seed j (i + k)))

/-- The key of the first byte of register `k` of a member's frame operand in slice `j`: the member is number `m` of `t`, and a
tile has `units` units (R189); registers that hold no unit have none. -/
def rowKey (x : Bool) (units t m k j : Nat) : Nat :=
  let per := memberRegs units t
  let q := k % per * t + m
  if units ≤ q then 2 ^ 42 else frameKey x ((k / per * units + q) * 128 + 16 * j)

/-- The rows of `n` registers from `i` of a frame operand of member `m` of `t`. -/
def Warp.opRows (w : Warp) (x : Bool) (units t m i n : Nat) : List OpRow :=
  (List.range 8).flatMap (fun j => (List.range n).map (fun k =>
    { slice := j, hrow := (w.slice j).handler.isSome, row := (w.slice j).rowAt w.rowB (i + k), key := rowKey x units t m k j }))

/-- The registers of a frame operand that a member of a team of `t` supplies: the first, and how many. -/
def frameSpan (o : Operand) (units t first tiles : Nat) : Nat × Nat :=
  match o with
  | .f i => (i.val + first * memberRegs units t, tiles * memberRegs units t)
  | _ => (0, 0)

/-- The words of the pool that the rows of a frame operand take. -/
def State.opWords (s : State) (c slot : Nat) (rows : List OpRow) : List UpsetAt :=
  let w := s.warp c slot
  let g := s.group c w.group
  let base := s.rowBase c g w.idx
  rows.flatMap (fun r =>
    let at_ := g.rowWord (base + r.slice * (w.rowB + 16) + (if r.hrow then w.rowB else 0) + r.row)
    [.pool c at_.1 at_.2, .pool c at_.1 (at_.2 + 8)])

/-- A member arrives at the latch and waits there; an error in a row of its operands is met here (R345). -/
def arrive (o : FmtG) (h : Header) (x : StageUse) (s : State) (u : Cur) : Eff :=
  let w := s.warp u.core u.slot
  let team := teamSlots w.mteam
  let t := team.length
  let uw := tileUnits x.rows x.wide (fbWFmt x.fmt)
  let ux := tileUnits x.rows x.shape.cols (fbXFmt x.fmt)
  let fw := frameSpan x.opw uw t x.first x.tiles
  let fx := frameSpan x.opx ux t 0 1
  let a : Arrival :=
    { warp := w.idx, slot := u.slot, gang := u.gang, pc := (w.slice (gangLeader u.gang)).pc, tok := h.settok.toNat
      ops := o, chain := x.chain, mteam := w.mteam, fmt := x.fmt, alpha := x.alpha
      opw := [x.pairW.1, x.pairW.2], opx := [x.pairX.1, x.pairX.2], strides := x.strides
      rowsW := w.stageRows fw.1 fw.2, rowsX := w.stageRows fx.1 fx.2
      pins := w.opRows false uw t (team.idxOf w.idx) fw.1 fw.2 ++ w.opRows true ux t (team.idxOf w.idx) fx.1 fx.2 }
  let q := s.meetWords (s.opWords u.core u.slot a.pins)
  let s := q.1
  match q.2 with
  | some bad => .fault (uncorrTrap bad)
  | none =>
    let s := s.modGroup u.core w.group (fun g => { g with latch := g.latch ++ [a] })
    .done (s.modWarp u.core u.slot (fun w => w.onGang u.gang (fun _ sl => { sl with wait := .latch, waitSince := s.cycle }))) true

def teamEff (h : Header) (o : FmtG) (chain : Bool) (s : State) (u : Cur) : Eff :=
  let x := (s.warp u.core u.slot).stageUse u.gang o chain
  match s.teamCheck u h x with
  | some t => .trap t
  | none => arrive o h x s u

def execBfly (h : Header) (o : FmtG) (s : State) : Host.Outcome State Fault Refusal :=
  s.issue (.bfly h o) (teamEff h o false)

def execBchain (h : Header) (o : FmtG) (s : State) : Host.Outcome State Fault Refusal :=
  s.issue (.bchain h o) (teamEff h o true)

/-! Acceptance (R184, R198) -/

/-- The engine accepts an instruction of some members: each member's token counts it, its operands' windows open. -/
def State.accept (s : State) (c : Nat) (e : EngInstr) (reads : List (Nat × Nat)) (rows : List (Nat × OpRow)) (pcs : List VA) :
    State :=
  let (d, s) := s.draw1
  let id := (s.core c).nextReq
  let g := s.group c e.group
  let idxs := e.members.map (fun m => (s.warp c m.1).idx)
  let e := { e with id := id, seed := d, stale := g.staleIn idxs reads }
  let x : StageWindow :=
    { id := id, group := e.group, members := e.members, reads := reads, instr := e, rows := rows, dirt := [], later := []
      laterBytes := [] }
  let s := s.modCore c (fun k => { k with mq := k.mq ++ [e], windows := k.windows ++ [x], nextReq := id + 1 })
  (e.members.zip pcs).foldl (fun s m =>
    s.modWarp c m.1.1 (fun w =>
      let tok := m.1.2.2
      let p : Pend := { id := w.nextId, tok := tok, gang := m.1.2.1, pc := m.2, born := w.seed, op := .engine id }
      { w with pend := w.pend ++ [p], nextId := w.nextId + 1
               tok := if tok = 0 then w.tok else Tab.set 0 w.tok (tok - 1) (Tab.get 0 w.tok (tok - 1) + 1) })) s

/-- Pins a member's operand rows and opens their windows (R36, R198). -/
def Warp.pinRows (w : Warp) (id tok : Nat) (pins : List OpRow) : Warp :=
  pins.foldl (fun w p =>
    let sl := w.slice p.slice
    let h : Hazard := { kind := if p.hrow then .hrow else .row, idx := p.row, lanes := 15, old := 0, new := none, left := id, tok := tok
                        varLat := false, landed := false, window := true, born := w.seed }
    w.setSlice p.slice { sl with pins := if p.hrow then sl.pins else sl.pins ++ [(p.row, id)], hazards := h :: sl.hazards }) w

/-! The latch opens (R197) -/

/-- Two members agree in everything that the latch compares. -/
def Arrival.agrees (a b : Arrival) : Bool :=
  a.ops = b.ops && a.mteam = b.mteam && a.fmt = b.fmt && a.alpha = b.alpha && a.opw = b.opw && a.opx = b.opx
  && a.strides = b.strides

/-- Bytes of a row. -/
def rowToBytes (r : W128) : List Byte := toBytes 16 r.toNat

/-- The tiles of a frame operand, from the members' rows: unit q of a tile lies in member q mod T, in its register
t·R + q div T (R189). -/
def frameBytes (rows : List (List W128)) (units tiles : Nat) : List Byte :=
  let t := rows.length
  let per := memberRegs units t
  (List.range tiles).flatMap (fun i => (List.range units).flatMap (fun q =>
    let reg := i * per + q / max 1 t
    (((rows.getD (q % max 1 t) []).drop (8 * reg)).take 8).flatMap rowToBytes))

/-- The operand of an accepted instruction. -/
def stageSrc (o : Operand) (pair : List W64) (rows : List (List W128)) (units tiles : Nat) : TileSrc :=
  match o with
  | .s _ =>
    let a := pair.getD 0 0
    let b := pair.getD 1 0
    .pad (spBase a) (spRpitch a) (spTpitch a) (spMap b) (spPartner b)
  | _ => .frame (frameBytes rows units tiles)

/-- The engine accepts the instruction of a team whose members, in the order of their slots, have all arrived and
agree. -/
def State.openLatch (s : State) (c g : Nat) (ms : List Arrival) : State :=
  match ms with
  | [] => s
  | a :: _ =>
    let w := s.warp c a.slot
    let o := a.ops
    let chain := a.chain
    let x := { w.stageUse a.gang o chain with
      fmt := a.fmt, alpha := a.alpha, strides := a.strides, pairW := (a.opw.getD 0 0, a.opw.getD 1 0)
      pairX := (a.opx.getD 0 0, a.opx.getD 1 0) }
    let e : EngInstr :=
      { id := 0, group := g, seed := 0, kind := if chain then .bchain else .bfly
        members := ms.map (fun m => (m.slot, m.gang, m.tok))
        pairs := x.shape.pairs, blk := x.shape.blk, cols := x.shape.cols, fmt := x.fmt, alpha := x.alpha, acc := x.acc
        count := o.count.toNat, split := x.split, sparse := x.sparse, strides := x.strides
        w := stageSrc x.opw a.opw (ms.map (·.rowsW)) (tileUnits x.rows x.wide (fbWFmt x.fmt)) x.tiles
        x := stageSrc x.opx a.opx (ms.map (·.rowsX)) (tileUnits x.rows x.shape.cols (fbXFmt x.fmt)) 1
        stale := [], h := 0, wd := 0, off := 0, begun := false, t := 0, j := 0, steps := 0, carry := [], carryExp := []
        partialOut := [], flags := 0, finished := false }
    let id := (s.core c).nextReq
    let s := s.modGroup c g (fun q => { q with latch := q.latch.filter (fun b => !(ms.contains b)) })
    let s := s.accept c e (x.padRanges ++ x.scaleRanges.map (fun r => (scaleKey r.1, scaleKey r.2)))
      (ms.flatMap (fun m => m.pins.map (fun r => (m.slot, r)))) (ms.map (·.pc))
    ms.foldl (fun s m => s.modWarp c m.slot (fun w =>
      (w.pinRows id m.tok m.pins).onGang m.gang (fun _ sl => { sl with wait := .ready, pc := nextSlot sl.pc }))) s

/-- The members of some arrivals raise COLLECTIVE (R197). -/
def State.collective (s : State) (c g : Nat) (ms : List Arrival) : State :=
  let pre := s
  let s := s.modGroup c g (fun q => { q with latch := q.latch.filter (fun b => !(ms.contains b)) })
  let s := ms.foldl (fun s m => s.modWarp c m.slot (fun w => w.onGang m.gang (fun _ sl => { sl with wait := .ready }))) s
  ms.foldl (fun s m => s.takeH pre c m.slot m.gang (trapH 0x0C 0 (gangMask m.gang))) s

/-- A warp of a workgroup can no longer arrive: it has ended or it is halted. -/
def State.gone (s : State) (c g idx : Nat) : Bool :=
  let x := s.group c g
  x.ended.contains idx || (match x.slots[idx]? with
    | some i => (s.warp c i).report.isSome || (s.warp c i).live = 0
    | none => true)

/-- A member that was saved waiting and arrives again on a standard die with a format block that names FP64 raises FEATURE (R51,
R203, R305; log entry 103). -/
def State.latchFeature (s : State) (c g : Nat) (a : Arrival) : State :=
  let pre := s
  let s := s.modGroup c g (fun q => { q with latch := q.latch.filter (fun b => b ≠ a) })
  let s := s.modWarp c a.slot (fun w => w.onGang a.gang (fun _ sl => { sl with wait := .ready }))
  s.deliver pre c a.slot a.gang (featureFault a.gang)

/-- The latch looks at the team of a waiting member. -/
def State.latchLook (s : State) (c slot : Nat) : State :=
  let w := s.warp c slot
  let g := s.group c w.group
  match g.latch.find? (fun a => a.slot = slot) with
  | none => s
  | some a =>
    let team := teamSlots a.mteam
    let ms := team.filterMap (fun i => g.latch.find? (fun b => b.warp = i))
    if g.saving.isSome then s
    else if blockFp64 a.fmt && !coreWide c then s.latchFeature c w.group a
    else if team.any (fun i => s.gone c w.group i) then s.collective c w.group [a]
    else if ms.length < team.length then s
    else if ms.all (fun b => b.agrees a) then s.openLatch c w.group ms
    else s.collective c w.group ms

def execLatchOpen (core slot : Nat) (s : State) : Host.Outcome State Fault Refusal := .next (s.latchLook core slot)

/-! Transfers (R205–R209) -/

/-- An engine instruction with nothing set. -/
def EngInstr.blank (group : Nat) (kind : EngKind) (m : Nat × Mask8 × Nat) : EngInstr :=
  { id := 0, group := group, seed := 0, kind := kind, members := [m], pairs := 1, blk := 1, cols := 1, fmt := 0, alpha := 0, acc := 0
    count := 0, split := false, sparse := false, strides := [], w := .none, x := .none, stale := [], h := 0, wd := 0, off := 0
    begun := false, t := 0, j := 0, steps := 0, carry := [], carryExp := [], partialOut := [], flags := 0
    finished := false }

/-- Accepts a transfer at issue, where it takes effect (R209). -/
def transfer (h : Header) (e : EngInstr) (reads : List (Nat × Nat)) (s : State) (u : Cur) : Eff :=
  let w := s.warp u.core u.slot
  if w.gangActs u.gang h then
    .done ((s.accept u.core e reads [] [(w.slice (gangLeader u.gang)).pc]).advance u) true
  else .done (s.advance u) false

/-- MSCALE: `out` copies to scratchpad. -/
def mscaleEff (h : Header) (o : FmtG) (out : Bool) (s : State) (u : Cur) : Eff :=
  let w := s.warp u.core u.slot
  let g := s.group u.core w.group
  let addr := (w.srcS u.gang 0 o.opx).toNat
  let off := (w.srcS u.gang 0 o.opw).toNat
  let n := (w.srcS u.gang 0 o.aux).toNat
  if n ≠ 0 && (decide (g.padBytes < addr + n) || decide (1024 * pwAcc g.partition < off + n)) then
    .trap (boundsFault (gangMask u.gang))
  else
    let e := { EngInstr.blank w.group (.mscale out) (u.slot, u.gang, h.settok.toNat) with
      x := .pad addr 0 0 0 0, off := off, count := n }
    let pad := if n = 0 then [] else [(addr, addr + n - 1)]
    transfer h e (if out then (if n = 0 then [] else [(scaleKey off, scaleKey (off + n - 1))]) else pad) s u

def execMscale (h : Header) (o : FmtG) (s : State) : Host.Outcome State Fault Refusal := s.issue (.mscale h o) (mscaleEff h o false)
def execMscaleOut (h : Header) (o : FmtG) (s : State) : Host.Outcome State Fault Refusal :=
  s.issue (.mscaleOut h o) (mscaleEff h o true)

/-- The shape register of MLOAD and MSTORE: rows and columns, `none` where it is ILLEGAL (R206). -/
def tileShape (v : W64) : Option (Nat × Nat) :=
  let h := BitVec.field v 7 0
  let w := BitVec.field v 16 8
  if BitVec.field v 63 17 = 0 && 1 ≤ h && h ≤ 128 && 1 ≤ w && w ≤ 256 then some (h, w) else none

/-- Regions of the accumulator that `w` columns take. -/
def tileRegions (f w : Nat) : Nat := if f = 3 then (w + 15) / 16 else (w + 31) / 32

def execMload (h : Header) (o : FmtG) (s : State) : Host.Outcome State Fault Refusal :=
  s.issue (.mload h o) (fun s u =>
    let w := s.warp u.core u.slot
    let g := s.group u.core w.group
    let f := o.subop.toNat
    let p := w.stagePair u.gang o.opx
    match tileShape (w.readS u.gang (Operand.num o.aux)) with
    | none => .trap (illegal u.gang)
    | some (rows, wd) =>
      let bytes := rowBytes wd f
      let rs := rowRanges (spBase p.1) (spRpitch p.1) rows bytes
      let n := tileRegions f wd
      if spBad p.1 p.2 bytes false false || decide (pwAcc g.partition < o.acc.toNat + n) then .trap (illegal u.gang)
      else if spRows p.2 < rows || outside rs g.padBytes then .trap (boundsFault (gangMask u.gang))
      else
        let e := { EngInstr.blank w.group (.mload f) (u.slot, u.gang, h.settok.toNat) with
          x := .pad (spBase p.1) (spRpitch p.1) 0 0 0, acc := o.acc.toNat, h := rows, wd := wd }
        transfer h e rs s u)

def execMstore (h : Header) (o : FmtG) (s : State) : Host.Outcome State Fault Refusal :=
  s.issue (.mstore h o) (fun s u =>
    let w := s.warp u.core u.slot
    let g := s.group u.core w.group
    let f := o.subop.toNat
    let p := w.stagePair u.gang o.opx
    match tileShape (w.readS u.gang (Operand.num o.aux)) with
    | none => .trap (illegal u.gang)
    | some (rows, wd) =>
      let bytes := rowBytes wd f
      let rs := rowRanges (spBase p.1) (spRpitch p.1) rows bytes
      let len := lenOf (o.count.toNat % 4)
      let off := (w.srcS u.gang 0 o.fmt).toNat
      if spBad p.1 p.2 bytes false false || decide (pwAcc g.partition < o.acc.toNat + tileRegions f wd)
          || (isBfp f && rows * wd % len ≠ 0) then .trap (illegal u.gang)
      else if spRows p.2 < rows || outside rs g.padBytes
          || (isBfp f && decide (1024 * pwAcc g.partition < off + rows * wd / len)) then .trap (boundsFault (gangMask u.gang))
      else
        let e := { EngInstr.blank w.group (.mstore f (o.count.toNat % 4)) (u.slot, u.gang, h.settok.toNat) with
          x := .pad (spBase p.1) (spRpitch p.1) 0 0 0, acc := o.acc.toNat, h := rows, wd := wd, off := off }
        transfer h e [] s u)

def execMzero (h : Header) (o : FmtG) (s : State) : Host.Outcome State Fault Refusal :=
  s.issue (.mzero h o) (fun s u =>
    let w := s.warp u.core u.slot
    let n := o.count.toNat
    if pwAcc (s.group u.core w.group).partition < o.acc.toNat + n then .trap (illegal u.gang)
    else
      let e := { EngInstr.blank w.group .mzero (u.slot, u.gang, h.settok.toNat) with acc := o.acc.toNat, count := n }
      transfer h e [] s u)

/-! The engine's events (R184, R203, R58) -/

/-- Words of the pool and of scale memory that a run of keys touches. -/
def Group.runWords (g : Group) (c : Nat) (r : Nat × Nat) : List UpsetAt :=
  if 2 ^ 41 ≤ r.1 then []
  else if 2 ^ 40 ≤ r.1 then
    ((List.range ((r.1 + r.2 + 7) / 8 - r.1 / 8)).map (fun i =>
      let w := g.scaleWord ((r.1 - 2 ^ 40) / 8 * 8 + 8 * i); .scale c w.1 w.2))
  else (List.range ((r.1 + r.2 + 7) / 8 - r.1 / 8)).map (fun i => let w := g.padWord (r.1 / 8 * 8 + 8 * i); .pool c w.1 w.2)

/-- The words that the next `n` pairs of an instruction, or the whole of a transfer, read (R345). -/
def Group.chunkWords (g : Group) (c : Nat) (e : EngInstr) (n : Nat) : List UpsetAt :=
  let b2 := 2 * e.blk
  let pairs := (List.range n).map (· + e.j)
  let accs := fun (l : List Nat) => l.map (fun i => let w := g.accWordAt i; (.pool c w.1 w.2 : UpsetAt))
  let tile := fun (rows : List Nat) => match e.tile with
    | some t => accs (rows.flatMap (fun y => (List.range t.2.2.1).map (fun x => accIndex t.1 y x t.2.2.2)))
    | none => []
  (match e.kind, e.x with
    | .bfly, _ | .bchain, _ =>
      ((pairs.flatMap (fun j => (List.range b2).flatMap (fun i => g.weightRuns e e.t (j * b2 + i))))
        ++ (if e.t = 0 then pairs.flatMap (fun j => (List.range b2).flatMap (fun u => (List.range e.cols).flatMap (fun x =>
              g.actRuns e (pairRow e.blk e.stride j u) x))) else [])).flatMap (g.runWords c)
        ++ (if e.t + 1 = e.stages && fbMode e.fmt ≠ 0 then
              tile (pairs.flatMap (fun j => (List.range b2).map (fun i => pairRow e.blk e.stride j i))) else [])
    | .mload f, .pad base rp _ _ _ => (List.range e.h).flatMap (fun r => g.runWords c (base + r * rp, rowBytes e.wd f))
    | .mscale out, .pad base _ _ _ _ => g.runWords c (if out then scaleKey e.off else base, e.count)
    | .mstore f _, _ => accs ((List.range e.h).flatMap (fun y => (List.range e.wd).map (fun x => accIndex e.acc y x (f = 3))))
    | _, _ => []).dedup

/-- The two runs of a redundant stage or transfer are compared (R349): `some` of what a second difference brings about. -/
def State.engineSlip (s : State) (c : Nat) (e : EngInstr) : State × Bool :=
  if (s.group c e.group).region.redund && e.kind ≠ .mscale true && e.kind ≠ .mscale false then s.meetSlip c 128 else (s, false)

/-- A tile lies in scratchpad. -/
def TileSrc.inPad : TileSrc → Bool
  | .pad _ _ _ _ _ => true
  | _ => false

/-- The bytes of some runs are what an instruction of the engine has written: one accepted later sees them, and nothing older
(R184). -/
def EngInstr.seesBytes (e : EngInstr) (runs : List (Nat × Nat)) : EngInstr :=
  if e.stale.isEmpty then e else { e with stale := e.stale.filter (fun q => !(keysMeet [(q.1, 1)] runs)) }

/-- What has been written of an instruction's operands in their window leaves the outputs that read it undefined as it finishes
(R198). -/
def State.spoilOutputs (s : State) (c id : Nat) : State :=
  match (s.core c).windows.find? (fun x => x.id = id) with
  | some x => if x.dirt.isEmpty then s else s.freeOutputs c x x.dirt
  | none => s

/-- The engine works, with the cycles of R204 counted as a stage ends and free ones for a transfer, whose cost the spec does
not give, on the first accepted instruction that is not finished, of a workgroup whose save has not reached
its drain (R203, R325); twice where the workgroup is redundant (R349). A chunk that would take in an error has no effect
(R345). -/
def State.engineChunk (s : State) (c asked : Nat) : State :=
  match (s.core c).mq.find? (fun e => !e.finished && (s.group c e.group).saving.isNone) with
  | none => s
  | some e =>
      let g := s.group c e.group
      let met := if s.upsets.isEmpty then (s, none) else s.meetWords (g.chunkWords c e (e.chunkPairs asked))
      match met.2 with
      | some bad => met.1.consume c e.group bad.1 bad.2
      | none =>
        let slip := met.1.engineSlip c e
        if slip.2 then slip.1.consumeSlip c e.group
        else
          let s := slip.1
          let q := g.engineWork e asked
          let stage := e.kind = .bfly || e.kind = .bchain
          let (d, s) := s.draw1
          let busy := if !stage then (Config.free d 0).toNat
            else if q.2.t ≠ e.t || q.2.finished then ({ e with steps := q.2.steps } : EngInstr).cost else 0
          let s := if e.w.inPad || e.x.inPad then s.served c 2 else s
          let s := (s.setGroup c e.group q.1).count c (coreCtr 0x4B) (if stage && g.region.redund then 2 * busy else busy)
          let s := s.modCore c (fun k => { k with mq := k.mq.map (fun x => if x.id = e.id then q.2
            else if q.2.finished && x.group = e.group then x.seesBytes e.bytesOut else x) })
          if q.2.finished then s.spoilOutputs c e.id else s

def execStageChunk (core pairs : Nat) (s : State) : Host.Outcome State Fault Refusal := .next (s.engineChunk core pairs)

/-- A member is told that an instruction has completed: its flags, the end of its pins, its token (R58, R36). -/
def State.engineDone (s : State) (c : Nat) (e : EngInstr) (m : Nat × Mask8 × Nat) (flags : W32) : State :=
  let s := s.modWarp c m.1 (fun w =>
    (w.orFlags m.2.1 flags).onGang 0xFF (fun _ sl => { sl with pins := sl.pins.filter (fun p => p.2 ≠ e.id) }))
  match (s.warp c m.1).pend.find? (fun p => p.op = .engine e.id) with
  | none => s
  | some p => (s.modWarp c m.1 (fun w => { w with pend := w.pend.filter (fun q => q.id ≠ p.id) })).decTok c m.1 p.tok

/-- Words that an instruction has written whole hold no error any more (Table 19.1). -/
def State.freshOut (s : State) (c : Nat) (e : EngInstr) : State :=
  if s.upsets.isEmpty then s
  else
    let g := s.group c e.group
    let accs := match e.tile with
      | some t => (List.range t.2.1).flatMap (fun y => (List.range (t.2.2.1 / (if t.2.2.2 then 1 else 2))).map (fun x =>
          let w := g.accWordAt (accIndex t.1 y (if t.2.2.2 then x else 2 * x) t.2.2.2)
          (.pool c w.1 w.2 : UpsetAt)))
      | none => []
    s.freshWords (accs ++ e.bytesOut.flatMap (fun r => if r.2 % 8 = 0 && r.1 % 8 = 0 then g.runWords c r else []))

/-- The oldest instruction that has finished completes. What was written of its operands in their window leaves its flags undefined
(R198). -/
def State.engineComplete (s : State) (c : Nat) : State :=
  match (s.core c).mq.find? (·.finished) with
  | none => s
  | some e =>
      let s := (s.modCore c (fun k => { k.writtenOver e with mq := k.mq.filter (fun q => q.id ≠ e.id) })).freshOut c e
      let dirt := match (s.core c).windows.find? (fun x => x.id = e.id) with | some x => x.dirt | none => []
      let (d, s) := s.draw1
      let flags := if dirt.isEmpty then e.flags else e.flags ||| (free32 d 0 &&& 0x3F)
      e.members.foldl (fun s m => s.engineDone c e m flags) s

end Sys2Proof.Machine
end

