-- ==== Sys2Proof/Machine/System.lean ====
section
/-! DEFINITION. The system registers, the tick and the counters, opcodes 0xF0 to 0xF3 (R21, R22, R126, R228, R229, R354,
R355). -/

namespace Sys2Proof.Machine

/-! Counters (R354, Table 19.4) -/

/-- Slots of a pipe that have passed with no warp on it and are not yet counted. -/
def State.emptyOwed (s : State) (c p : Nat) : Nat :=
  if (s.core c).frozen then 0 else s.cycle - Tab.get 0 (s.core c).seen p

/-- The leaves that a number of Table 19.4 sums. -/
def ctrLeaves (n : Nat) : List Nat :=
  let issued := (List.range 6).map (· + 0x10)
  let front := [0x21, 0x22, 0x23]
  let depend := [0x24, 0x25, 0x26, 0x27]
  let memsync := [0x28, 0x29]
  let sync := (List.range 6).map (· + 0x2A)
  match n with
  | 0x00 => issued ++ [0x20] ++ front ++ depend ++ memsync ++ sync ++ [0x03]
  | 0x01 => issued
  | 0x02 => [0x20] ++ front ++ depend ++ memsync ++ sync
  | 0x04 => front
  | 0x05 => depend
  | 0x06 => memsync
  | 0x07 => sync
  | k => [k]

/-- A per-pipe counter. -/
def State.pipeCtr (s : State) (c p n : Nat) : Nat :=
  ((ctrLeaves n).map (fun k => s.counter c (p * 256 + k) + if k = 0x03 then s.emptyOwed c p else 0)).sum

/-- The value that a counter select names (R355). -/
def State.readCtr (s : State) (c : Nat) (imm : BitVec 16) : W64 :=
  let n := imm.toNat % 256
  if 0x40 ≤ n then BitVec.ofNat 64 (s.counter c (coreCtr n))
  else if imm.getLsbD 10 then BitVec.ofNat 64 (((List.range 4).map (fun p => s.pipeCtr c p n)).sum)
  else BitVec.ofNat 64 (s.pipeCtr c (imm.toNat / 256 % 4) n)

/-- A value known at issue goes to a scalar destination at fixed latency 6. -/
def scalarEff (h : Header) (o : FmtE) (v : W64) (s : State) (u : Cur) : Eff :=
  regEff (fun w g => if w.gangActs g h then w.writeS g 6 (Operand.num o.dst) v else w) s u

def execRdctr (h : Header) (o : FmtE) (s : State) : Host.Outcome State Fault Refusal :=
  s.issue (.rdctr h o) (fun s u => scalarEff h o (s.readCtr u.core o.imm) s u)

def execRdtick (h : Header) (o : FmtE) (s : State) : Host.Outcome State Fault Refusal :=
  s.issue (.rdtick h o) (fun s u => scalarEff h o (BitVec.ofNat 64 s.tick) s u)

/-! System registers (Table 1.3) -/

/-- A register of Table 1.3 other than LANE, as slice `j` of a warp reads it. -/
def State.sysRead (s : State) (c slot j n : Nat) : W64 :=
  let w := s.warp c slot
  let sl := w.slice j
  let g := s.group c w.group
  match n with
  | 0x00 => BitVec.ofNat 64 (sl.fp w.rowB)
  | 0x01 => BitVec.ofNat 64 sl.fszNow
  | 0x02 => BitVec.ofNat 64 sl.depth
  | 0x03 => sl.readSys w.seed n (BitVec.zeroExtend 64 sl.spillTop)
  | 0x04 => sl.readSys w.seed n (BitVec.zeroExtend 64 (match sl.gates with | e :: _ => e.limit | [] => sl.bsLimit))
  | 0x05 => BitVec.zeroExtend 64 sl.gang
  | 0x07 => BitVec.ofNat 64 w.idx
  | 0x08 => BitVec.zeroExtend 64 g.x
  | 0x09 => BitVec.zeroExtend 64 g.y
  | 0x0A => BitVec.zeroExtend 64 g.z
  | 0x0B => BitVec.ofNat 64 g.core
  | 0x10 => BitVec.zeroExtend 64 w.asid
  | 0x11 => BitVec.zeroExtend 64 w.domain
  | 0x12 => if w.preq then 1 else 0
  | 0x13 => BitVec.zeroExtend 64 (sl.readFs w.seed)
  | 0x14 => BitVec.zeroExtend 64 atomcap
  | 0x15 => BitVec.zeroExtend 64 (features c g)
  | 0x16 => BitVec.zeroExtend 64 g.partition
  | 0x17 => BitVec.ofNat 64 s.tick
  | 0x18 => sl.readSys w.seed n (BitVec.zeroExtend 64 (match sl.gates with | e :: _ => e.handler | [] => w.handler))
  | 0x19 => BitVec.zeroExtend 64 (sl.resumeAt w.seed)
  | _ => 0

/-- MFS (R229): to an f destination each lane receives its own slice's value, FSTATUS among them (log entry 104). -/
def execMfs (h : Header) (o : FmtE) (s : State) : Host.Outcome State Fault Refusal :=
  s.issue (.mfs h o) (fun s u =>
    let n := o.imm.toNat
    match o.dst with
    | .f i =>
      regEff (fun w g => w.writeF 6 i (w.execLanes g h) (fun l =>
        if n = 0x06 then BitVec.ofNat 32 l else BitVec.truncate 32 (s.sysRead u.core u.slot (l / 4) n))) s u
    | _ => scalarEff h o (s.sysRead u.core u.slot (gangLeader u.gang) n) s u)

/-- A new SPILLTOP: at once, or after the transfers in flight (R229). -/
def Slice.setSpillTop (sl : Slice) (v : VA) : Slice := { sl with newSpillTop := some v }.takeTop

/-- The bits of a value that a register of Table 1.3 holds. -/
def sysBits (n : Nat) (v : W64) : W64 :=
  if n = 0x13 then BitVec.zeroExtend 64 (BitVec.truncate 32 v &&& 0x3F : W32) else BitVec.zeroExtend 64 (BitVec.truncate 57 v : VA)

/-- MTS of a slice's register, by an instruction that entered flight as number `born`. -/
def Slice.sysWrite (sl : Slice) (n : Nat) (v : W64) (born : Nat) : Slice :=
  match n with
  | 0x03 => sl.setSpillTop (BitVec.truncate 57 v)
  | 0x04 =>
    (match sl.gates with
      | e :: r => { sl with gates := { e with limit := BitVec.truncate 57 v } :: r }
      | [] => { sl with bsLimit := BitVec.truncate 57 v })
  | 0x13 => sl.setFlags born (BitVec.truncate 32 v &&& 0x3F)
  | 0x18 => { sl with gates := match sl.gates with | e :: r => { e with handler := BitVec.truncate 57 v } :: r | [] => [] }
  | 0x19 => { sl with resume := BitVec.truncate 57 v }
  | _ => sl

/-- The slices whose register MTS writes: every one of the warp for HANDLER, which is the warp's (Table 1.3). -/
def sysSlices (n : Nat) (g : Mask8) : Mask8 := if n = 0x18 then 0xFF else g

/-- MTS: the checks of R21 and R229 at issue, its write as a variable-latency result (R211). -/
def execMts (h : Header) (o : FmtE) (s : State) : Host.Outcome State Fault Refusal :=
  s.issue (.mts h o) (fun s u =>
    let w := s.warp u.core u.slot
    let ld := w.slice (gangLeader u.gang)
    let n := o.imm.toNat
    let v := w.srcS u.gang 2 o.srcA
    if n ≠ 0x13 && ld.handler.isNone then .trap (protFault u.gang)
    else if (n = 0x03 || n = 0x04) && v.toNat % 16 ≠ 0 then .trap (illegal u.gang)
    else if w.gangActs u.gang h then
      let s := (s.addPend u h.settok.toNat (.sys n v)).modWarp u.core u.slot (fun w => w.onGang (sysSlices n u.gang) (fun _ sl =>
        sl.noteVar .sys n 15 h.settok.toNat (some (BitVec.zeroExtend 128 (sysBits n v))) w.seed))
      .done (s.advance u) true
    else .done (s.advance u) false)

/-- The write of an MTS completes (R74, R211). -/
def State.doSys (s : State) (c slot : Nat) (p : Pend) (n : Nat) (v : W64) : State :=
  (s.modWarp c slot (fun w =>
    let outside := (w.slice (gangLeader p.gang)).gates.isEmpty
    let w := w.onGang (sysSlices n p.gang) (fun _ sl => (sl.sysWrite n v p.born).noteLanded .sys n p.born)
    if n = 0x18 && outside then { w with handler := BitVec.truncate 57 v } else w)).finishPend c slot p

end Sys2Proof.Machine
end

