-- ==== Sys2Proof/Machine/Complete.lean ====
section
/-! DEFINITION. The events in which work in flight goes on or completes: RESULT_COMPLETE (R74, R156), STAGE_COMPLETE (R58,
R203) and COPY_CHUNK_LAND (R220), with the ends of warps that they bring about (R130). -/

namespace Sys2Proof.Machine

/-- Slot j+1 of a pair that slot j holds back goes to the issue latch once nothing holds it; where its gang has left it, or is
stopped or saved, it is given up, and the gang issues it alone when it comes back there (R69, R70). -/
def State.resumeSecond (s : State) (c slot : Nat) (p : Pend) (i : Instr) (floor : Nat) : State :=
  let w := s.warp c slot
  let u : Cur := { core := c, slot := slot, gang := p.gang, pos := .second, floor := floor }
  let t := s.finishPend c slot p
  if !s.standing u || (w.slice (gangLeader p.gang)).pc ≠ p.pc || w.report.isSome || (s.group c w.group).saving.isSome then t
  else if (t.gangHold c slot p.gang).isSome || (t.secondHold c slot p.gang i).isSome then s
  else { t with ir := [{ cur := u, pc := p.pc, instr := i }] }

/-- The next step of an instruction in flight. -/
def State.pendStep (s : State) (c slot : Nat) (p : Pend) : State :=
  match p.op with
  | .regs ws flags => s.complete c slot p ws flags
  | .sys n v => s.doSys c slot p n v
  | .load n signed home ls => s.doLoad c slot p n signed home ls
  | .store _ ls => s.doStore c slot p ls
  | .padLoad n signed ls => s.doPadLoad c slot p n signed ls
  | .padStore _ ls => s.doPadStore c slot p ls
  | .ldl n ls => s.doLdl c slot p n ls
  | .atom _ _ _ _ _ _ _ _ _ _ _ => (match p.op.atomWork with | some a => s.doAtom c slot p a | none => s)
  | .padAtom op n ls => s.doPadAtom c slot p op n ls
  | .acq scope logs degrade => s.doAcq c slot p scope logs degrade
  | .rel scope stage => s.doRel c slot p scope stage
  | .fence scope logs degrade stage => s.doFence c slot p scope logs degrade stage
  | .sealUpTo seq => s.doSeal c slot p seq
  | .lbinit pc pg a v => s.doLbinit c slot p pc pg a v
  | .lbarrive pc pg a n => s.doLbarrive c slot p pc pg a n
  | .launch pa dst stage => s.doLaunch c slot p pa dst stage
  | .loaded ws _ => s.complete c slot p ws 0
  | .second i floor _ => s.resumeSecond c slot p i floor
  | .engine _ => s

/-- A warp's workgroup looks again at which of its warps have ended (R130), and its barriers at their counts (R226). -/
def State.endLook (s : State) (c g : Nat) : State :=
  match Tab.find g (s.core c).groups with
  | none => s
  | some _ => s.noteEnded c g

def execResultComplete (core slot id : Nat) (s : State) : Host.Outcome State Fault Refusal :=
  match s.pendOf core slot id with
  | none => .next s
  | some p => .next ((s.pendStep core slot p).endLook core (s.warp core slot).group)

def execStageComplete (core : Nat) (s : State) : Host.Outcome State Fault Refusal :=
  match (s.core core).mq.find? (·.finished) with
  | none => .next s
  | some e => .next ((s.engineComplete core).endLook core e.group)

def execCopyChunkLand (core chunk : Nat) (s : State) : Host.Outcome State Fault Refusal :=
  match (s.core core).chunks.find? (fun q => q.id = chunk) with
  | none => .next s
  | some q =>
    match (s.core core).copyq.find? (fun r => r.id = q.req) with
    | none => .next s
    | some r => .next ((s.landChunk core chunk).endLook core r.group)

end Sys2Proof.Machine
end

