-- ==== Sys2Proof/Machine/Predicate.lean ====
section
/-! DEFINITION. The predicate and mask instructions, opcodes 0x30 to 0x3B (R107–R110). -/

namespace Sys2Proof.Machine

/-- An operation of Table 4.5 on one bit. -/
def plop (op : Nat) (a b c : Bool) : Bool :=
  match op with
  | 0 => a && b
  | 1 => a || b
  | 2 => xor a b
  | 3 => a && !b
  | 4 => a || !b
  | 5 => !a
  | 6 => a && b && c
  | 7 => a || b || c
  | _ => if c then a else b

/-- An operation of Table 4.5 bit by bit. -/
def plopMask (op : Nat) (a b c : Mask32) : Mask32 :=
  maskOf 32 ((List.range 32).filter (fun i => plop op (a.getLsbD i) (b.getLsbD i) (c.getLsbD i)))

/-- A mask source: an m-register under R17, the low 32 bits of an s-register, or an inline constant. -/
def Warp.maskSrc (w : Warp) (g : Mask8) (o : Operand) : Mask32 := BitVec.truncate 32 (w.srcS g 0 o)

/-- Writes a mask to an m- or an s-register: a gang effect (R107). -/
def Warp.putMask (w : Warp) (g : Mask8) (h : Header) (dst : Operand) (v : Mask32) : Warp :=
  if w.gangActs g h then
    match dst with
    | .m i => w.writeM g 4 i v
    | .s i => w.writeS g 4 i (BitVec.zeroExtend 64 v)
    | _ => w
  else w

def execPlop (h : Header) (o : FmtA) (s : State) : Host.Outcome State Fault Refusal :=
  s.issueReg (.plop h o) (fun w g =>
    w.writeP 4 (Operand.num o.dst) (w.execLanes g h) (fun l =>
      plop o.subop.toNat (w.src1 g o.xmod 0 o.srcA l = 1) (w.src g 0 o.srcB l = 1) (w.src g 0 o.srcC l = 1)))

def execMlop (h : Header) (o : FmtA) (s : State) : Host.Outcome State Fault Refusal :=
  s.issueReg (.mlop h o) (fun w g =>
    w.putMask g h o.dst (plopMask o.subop.toNat (w.maskSrc g o.srcA) (w.maskSrc g o.srcB) (w.maskSrc g o.srcC)))

def execPmov (h : Header) (o : FmtA) (s : State) : Host.Outcome State Fault Refusal :=
  s.issueReg (.pmov h o) (fun w g =>
    let m := w.execLanes g h
    match o.dst with
    | .p i =>
      w.writeP 4 i m (fun l => match o.srcA with
        | .m k => (w.readM g k).getLsbD l
        | a => w.src1 g o.xmod 0 a l ≠ 0)
    | .f i => w.writeF 4 i m (fun l => BitVec.truncate 32 (w.src1 g o.xmod 0 o.srcA l))
    | _ => w)

def execMmov (h : Header) (o : FmtA) (s : State) : Host.Outcome State Fault Refusal :=
  s.issueReg (.mmov h o) (fun w g => w.putMask g h o.dst (w.maskSrc g o.srcA))

def execBallot (h : Header) (o : FmtA) (s : State) : Host.Outcome State Fault Refusal :=
  s.issueReg (.ballot h o) (fun w g =>
    let m := w.execLanes g h
    w.putMask g h o.dst (maskOf 32 ((gangLanes g).filter (fun l => m.getLsbD l && w.src1 g o.xmod 0 o.srcA l = 1))))

/-- The lanes of a scope that lane `l` combines: the gang or the warp, or the lane's own slice (R109). -/
def scopeLanes (m : Mask32) (scope l : Nat) : List Nat :=
  (setBits 32 m).filter (fun k => scope ≠ 1 || k / 4 = l / 4)

/-- Scope warp needs a gang that holds every live slice (R109, R155). -/
def Warp.scopeBad (w : Warp) (g : Mask8) (scope : Nat) : Bool := scope = 2 && w.live ≠ g

/-- COLLECTIVE, class H. -/
def collective (g : Mask8) : Trap := trapH 0x0C 0 (gangMask g)

/-- ANY and ALL: `f` combines the contributing lanes' predicates. -/
def anyAllEff (f : List Nat → (Nat → Bool) → Bool) (h : Header) (o : FmtA) (s : State) (u : Cur) : Eff :=
  let w := s.warp u.core u.slot
  if w.scopeBad u.gang o.subop.toNat then .trap (collective u.gang)
  else regEff (fun w g =>
    let m := w.execLanes g h
    w.writeP 4 (Operand.num o.dst) m (fun l =>
      f (scopeLanes m o.subop.toNat l) (fun k => w.src1 g o.xmod 0 o.srcA k = 1))) s u

def execAnyP (h : Header) (o : FmtA) (s : State) : Host.Outcome State Fault Refusal :=
  s.issue (.anyP h o) (anyAllEff List.any h o)

def execAllP (h : Header) (o : FmtA) (s : State) : Host.Outcome State Fault Refusal :=
  s.issue (.allP h o) (anyAllEff List.all h o)

/-- A number found in a mask, written to the gang's scalar or to every executing lane. -/
def Warp.putCount (w : Warp) (g : Mask8) (h : Header) (dst : Operand) (n : Nat) : Warp :=
  let v : AluOut := .plain (BitVec.ofNat 64 n)
  w.alu g h 4 dst false 7 (fun _ => v) v

def execMfirst (h : Header) (o : FmtA) (s : State) : Host.Outcome State Fault Refusal :=
  s.issueReg (.mfirst h o) (fun w g => w.putCount g h o.dst ((setBits 32 (w.maskSrc g o.srcA)).headD 32))

def execMcount (h : Header) (o : FmtA) (s : State) : Host.Outcome State Fault Refusal :=
  s.issueReg (.mcount h o) (fun w g => w.putCount g h o.dst (setBits 32 (w.maskSrc g o.srcA)).length)

def execMtop (h : Header) (o : FmtA) (s : State) : Host.Outcome State Fault Refusal :=
  s.issueReg (.mtop h o) (fun w g => w.putCount g h o.dst ((setBits 32 (w.maskSrc g o.srcA)).getLastD 32))

def execMseti (h : Header) (o : FmtB) (s : State) : Host.Outcome State Fault Refusal :=
  s.issueReg (.mseti h o) (fun w g =>
    let old := w.readM g (Operand.num o.dst)
    w.putMask g h o.dst (match o.subop.toNat with
      | 0 => o.imm
      | 1 => old ||| o.imm
      | _ => old &&& ~~~ o.imm))

def execPseti (h : Header) (o : FmtB) (s : State) : Host.Outcome State Fault Refusal :=
  s.issueReg (.pseti h o) (fun w g =>
    w.writeP 4 (Operand.num o.dst) (w.execLanes g h) (fun l => o.imm.getLsbD l))

end Sys2Proof.Machine
end

