-- ==== Sys2Proof/Machine/Convert.lean ====
section
/-! DEFINITION. Conversions and the cross-lane instructions, opcodes 0x90 to 0xA3 (R61–R64, R150–R155). -/

namespace Sys2Proof.Machine

/-! CVT (R61, R150, Table 6.7) -/

/-- The type under which a constant of a format is read, and a register of it. A constant of INT8 or INT16 is one element of that width,
of which HSEL then selects, the model's choice (log entry 128). -/
def typeOfFmt (c : Nat) : BitVec 4 :=
  match c with
  | 0 => 4 | 1 => 5 | 2 => 6 | 3 => 7 | 4 => 11 | 5 => 9 | _ => 1

/-- Bits of an integer format. -/
def fmtIntBits (c : Nat) : Nat := match c with | 4 => 8 | 5 => 16 | _ => 32

/-- A signed integer from its low `w` bits. -/
def sintOf (w x : Nat) : Int := mantOf w x

/-- The part of the source that HSEL⟨1:0⟩ selects, as a number. -/
def cvtPart (src hs : Nat) (a : W64) : Nat :=
  match src with
  | 1 | 2 | 5 => bitsAt a.toNat (16 * (hs % 2)) 16
  | 4 => bitsAt a.toNat (8 * hs) 8
  | 3 => a.toNat
  | _ => a.toNat % 2 ^ 32

/-- Bits of a CVT destination that is an integer: 64 for .s64. -/
def cvtIntBits (dst : Nat) (hd : Bool) : Nat := if hd then 64 else fmtIntBits dst

/-- The encoded result of a conversion and its flags (R61). -/
def cvtValue (src dst hs : Nat) (hd sat : Bool) (rm : Nat) (a : W64) : Nat × W32 :=
  let x := cvtPart src hs a
  let w := cvtIntBits dst hd
  if 4 ≤ src then
    let v := sintOf (fmtIntBits src) x
    if 4 ≤ dst then
      let y : Int := if sat then max (-(2 ^ (w - 1))) (min v (2 ^ (w - 1) - 1)) else v
      ((y % (2 ^ w : Nat)).toNat, 0)
    else
      let r := (fmtOfCode dst).ofInt rm v
      (r.bits, r.flags)
  else
    let v := (fmtOfCode src).decode x
    if 4 ≤ dst then
      let r := toInt w rm v
      ((r.1 % (2 ^ w : Nat)).toNat, r.2)
    else
      let r := (fmtOfCode dst).convert rm v
      (r.bits, r.flags)

/-- CVT's result as its destination holds it, `d` being its old contents: a half merged, a narrow integer sign-extended
to 32 bits. -/
def cvtOut (o : FmtA) (a d : W64) : W64 × W32 :=
  let dst := o.type.toNat
  let hs := o.pdst.toNat % 4
  let hd := decide (4 ≤ o.pdst.toNat)
  let r := cvtValue o.subop.toNat dst hs (hd && dst = 6) o.sat o.rm.toNat a
  let v := match dst with
    | 1 | 2 =>
      let keep := if hd then d.toNat % 2 ^ 16 else d.toNat % 2 ^ 32 / 2 ^ 16 * 2 ^ 16
      keep + r.1 * (if hd then 2 ^ 16 else 1)
    | 4 => (sintOf 8 r.1 % (2 ^ 32 : Nat)).toNat
    | 5 => (sintOf 16 r.1 % (2 ^ 32 : Nat)).toNat
    | _ => r.1
  (BitVec.ofNat 64 v, r.2)

/-- The destination of CVT takes a pair. -/
def cvtWide (o : FmtA) : Bool := o.type = 3 || (o.type = 6 && decide (4 ≤ o.pdst.toNat))

def execCvt (h : Header) (o : FmtA) (s : State) : Host.Outcome State Fault Refusal :=
  s.issueReg (.cvt h o) (fun w g =>
    let t := typeOfFmt o.subop.toNat
    if fcInt o.type && fcInt o.subop then
      w.alu g h 5 o.dst (cvtWide o) 7 (fun l => .plain (cvtOut o (w.src1 g o.xmod t o.srcA l) 0).1)
        (.plain (cvtOut o (w.srcS g t o.srcA) 0).1)
    else
      w.fp g h 5 o.dst (cvtWide o)
        (fun l => cvtOut o (w.src1 g o.xmod t o.srcA l) (BitVec.zeroExtend 64 (w.readF l (Operand.num o.dst))))
        (cvtOut o (w.srcS g t o.srcA) (w.readS g (Operand.num o.dst))))

/-! PCVT (R63, R151) -/

/-- Element `i` of a float side that begins at register `r`. -/
def Warp.floatElem (w : Warp) (fmt r l i : Nat) : FVal :=
  if fmt = 0 then fp32.decode (w.readF l (r + i)).toNat
  else (fmtOfCode fmt).decode (halfOf (w.readF l (r + i / 2)).toNat (i % 2))

/-- Expansion of one mantissa (R63). -/
def expandOne (F : Fmt) (rm E : Nat) (m : Int) : FOut :=
  if E = 255 then { bits := F.nanBits, flags := 0 } else F.round rm (decide (m < 0)) m.natAbs ((E : Int) - 127)

/-- The registers of an expanded float side. -/
def expandRegs (fmt : Nat) (vs : List Nat) : List Nat :=
  if fmt = 0 then vs
  else (List.range (vs.length / 2)).map (fun i => vs.getD (2 * i) 0 + 65536 * vs.getD (2 * i + 1) 0)

/-- The flags of a list of results, together. -/
def orAll (fs : List W32) : W32 := fs.foldl (fun a f => a ||| f) 0

/-- PCVT (R151). An exponent that is an inline constant is read in the integer column of Table 3.13, the model's choice (log
entry 127). -/
def execPcvt (h : Header) (o : FmtA) (s : State) : Host.Outcome State Fault Refusal :=
  s.issueReg (.pcvt h o) (fun w g =>
    let m := w.execLanes g h
    let c := pcvtCount o
    let rm := o.rm.toNat
    let d := Operand.num o.dst
    let exp := fun l => (w.src g 0 o.srcB l).toNat % 256
    if fcBfp o.subop then
      let n := fcBits o.subop
      let fmt := o.type.toNat
      let outs := fun l =>
        let a := (w.src g 0 o.srcA l).toNat
        (List.range c).map (fun i => expandOne (fmtOfCode fmt) rm (exp l) (mantOf n (bitsAt a (n * i) n)))
      let regs := fun l => expandRegs fmt ((outs l).map (·.bits))
      let w' := (List.range (pcvtRegs o o.type)).foldl
        (fun (w' : Warp) k => w'.writeF 5 (d + k) m (fun l => BitVec.ofNat 32 ((regs l).getD k 0))) w
      w'.raiseLanes 5 m (fun l => orAll ((outs l).map (·.flags)))
    else
      let n := fcBits o.type
      let a := Operand.num o.srcA
      let outs := fun l => (List.range c).map (fun i => packMant rm n (exp l) (w.floatElem o.subop.toNat a l i))
      (w.writeF 5 d m (fun l => BitVec.ofNat 32 (packMants n ((outs l).map (·.1))))).raiseLanes 5 m
        (fun l => orAll ((outs l).map (·.2))))

/-! QBLK (R152) -/

def execQblk (h : Header) (o : FmtA) (s : State) : Host.Outcome State Fault Refusal :=
  s.issue (.qblk h o) (fun s u =>
    let w := s.warp u.core u.slot
    if w.live ≠ u.gang then .trap (collective u.gang)
    else
      let m := w.execLanes u.gang h
      let k := 2 ^ o.pdst.toNat
      let n := fcBits o.type
      let vs := (List.range 32).flatMap (fun l => (List.range k).map (fun j =>
        if m.getLsbD l then w.floatElem o.subop.toNat (Operand.num o.srcA) l j else FVal.fin false 0 0))
      let b := requantize n vs
      let rows := (setBits 32 m).map (fun l =>
        (w.placeF l (Operand.num o.dst), BitVec.ofNat 64 (packMants n ((b.mants.drop (k * l)).take k))))
      let scal := if w.gangActs u.gang h then
          (placesS u.gang (Operand.num o.srcB)).map (fun p => (p, BitVec.ofNat 64 b.exp)) else []
      .done ((s.addRegs u h.settok.toNat (rows ++ scal) b.flags true).advance u) true)

/-! XSHF and XBCAST (R153, R154) -/

/-- The lane number that XSHF computes, before the bounds are looked at (R153). -/
def xshfTarget (sub l x : Nat) : Int :=
  match sub % 4 with
  | 0 => if 8 ≤ sub then ((4 * (l / 4) + x % 4 : Nat) : Int) else ((x % 32 : Nat) : Int)
  | 1 => (l : Int) - ((x % 256 : Nat) : Int)
  | 2 => (l : Int) + ((x % 256 : Nat) : Int)
  | _ => ((l ^^^ (x % 32) : Nat) : Int)

/-- The lane that XSHF reads, before the gang is looked at; `none` outside the slice or the warp. -/
def xshfLane (sub : Nat) (l : Nat) (b : W64) : Option Nat :=
  let q := xshfTarget sub l b.toNat
  if q < 0 ∨ 31 < q then none
  else if 8 ≤ sub ∧ q.toNat / 4 ≠ l / 4 then none else some q.toNat

/-- A register of another lane of the gang, or the fill value. -/
def Warp.fromLane (w : Warp) (g : Mask8) (t : BitVec 4) (a : Operand) (q : Option Nat) (own : Bool) (l : Nat) : W64 :=
  match q with
  | some q => if g.getLsbD (q / 4) then w.src g t a q else if own then w.src g t a l else 0
  | none => if own then w.src g t a l else 0

def execXshf (h : Header) (o : FmtA) (s : State) : Host.Outcome State Fault Refusal :=
  s.issueReg (.xshf h o) (fun w g =>
    let sub := o.subop.toNat
    let m := w.execLanes g h
    w.writeFw 6 (tyPair o.type) (Operand.num o.dst) m (fun l =>
      w.fromLane g o.type o.srcA (xshfLane sub l (w.src g 0 o.srcB l)) (decide (4 ≤ sub % 8)) l))

def execXbcast (h : Header) (o : FmtA) (s : State) : Host.Outcome State Fault Refusal :=
  s.issueReg (.xbcast h o) (fun w g =>
    let q := (w.srcS g 0 o.srcB).toNat
    w.writeFw 6 (tyPair o.type) (Operand.num o.dst) (w.execLanes g h) (fun l =>
      w.fromLane g o.type o.srcA (some (if o.subop = 1 then 4 * (l / 4) + q % 4 else q % 32)) false l))

/-! XRED and XSCAN (R155) -/

/-- One step of a reduction (Table 6.8). -/
def redOp (op : Nat) (t : BitVec 4) (rm : Nat) (a b : W32) : W32 × W32 :=
  let wa := BitVec.zeroExtend 64 a
  let wb := BitVec.zeroExtend 64 b
  if t = 4 then
    let r := match op with
      | 0 => fAdd 4 rm wa wb
      | 1 => fMinMax 4 false wa wb
      | _ => fMinMax 4 true wa wb
    (BitVec.truncate 32 r.1, r.2)
  else
    (match op with
      | 0 => a + b
      | 1 => if intOf t wa ≤ intOf t wb then a else b
      | 2 => if intOf t wb ≤ intOf t wa then a else b
      | 3 => a &&& b
      | 4 => a ||| b
      | _ => a ^^^ b, 0)

/-- The identity of an operation (Table 6.8). -/
def redIdentity (op : Nat) (t : BitVec 4) : W32 :=
  match op with
  | 1 => if t = 4 then 0x7F800000 else if t = 1 then 0x7FFFFFFF else 0xFFFFFFFF
  | 2 => if t = 4 then 0xFF800000 else if t = 1 then 0x80000000 else 0
  | 3 => 0xFFFFFFFF
  | _ => 0

/-- A lane's partial result, `none` where it has none. -/
abbrev LaneVals := List (Option W32)

def LaneVals.at (v : LaneVals) (l : Nat) : Option W32 := v.getD l none

/-- Combines two partial results, the lower lane's first. -/
def redPair (op : Nat) (t : BitVec 4) (rm : Nat) (lo hi : Option W32) : Option W32 × W32 :=
  match lo, hi with
  | some a, some b => let r := redOp op t rm a b; (some r.1, r.2)
  | some a, none => (some a, 0)
  | none, x => (x, 0)

/-- Runs steps at distances, gathering flags; `other` names the lane a lane combines with. -/
def redSteps (op : Nat) (t : BitVec 4) (rm : Nat) (m : Mask32) (other : Nat → Nat → Option Nat) :
    List Nat → LaneVals → W32 → LaneVals × W32
  | [], v, f => (v, f)
  | d :: ds, v, f =>
    let out := (List.range 32).map (fun l =>
      match other d l with
      | none => (LaneVals.at v l, (0 : W32))
      | some u => redPair op t rm (LaneVals.at v (min l u)) (LaneVals.at v (max l u)))
    redSteps op t rm m other ds (out.map (·.1)) (out.zipIdx.foldl (fun a r => if m.getLsbD r.2 then a ||| r.1.2 else a) f)

/-- Lane `u` lies in the scope unit of lane `l` (R155): the gang, the slice or the warp. -/
def inUnit (g : Mask8) (scope l u : Nat) : Bool :=
  match scope with
  | 0 => g.getLsbD (l / 4) && g.getLsbD (u / 4)
  | 1 => l / 4 = u / 4
  | _ => true

/-- The distances of the steps. -/
def redDistances (scope : Nat) : List Nat := if scope = 1 then [1, 2] else [1, 2, 4, 8, 16]

/-- The tree of XRED. -/
def xredTree (op : Nat) (t : BitVec 4) (rm scope : Nat) (m : Mask32) (v : LaneVals) : LaneVals × W32 :=
  redSteps op t rm m (fun d l => some (l ^^^ d)) (redDistances scope) v 0

/-- The scan of XSCAN. -/
def xscanTree (op : Nat) (t : BitVec 4) (rm scope : Nat) (m : Mask32) (g : Mask8) (excl : Bool) (v : LaneVals) : LaneVals × W32 :=
  let v := if excl then (List.range 32).map (fun l => if l ≠ 0 && inUnit g scope l (l - 1) then LaneVals.at v (l - 1) else none) else v
  redSteps op t rm m (fun d l => if decide (d ≤ l) && inUnit g scope l (l - d) then some (l - d) else none)
    (redDistances scope) v 0

/-- The contributing lanes' values. -/
def Warp.contrib (w : Warp) (g : Mask8) (h : Header) (o : FmtA) : LaneVals :=
  let m := w.execLanes g h
  (List.range 32).map (fun l =>
    if m.getLsbD l then some (BitVec.truncate 32 (w.src g o.type o.srcA l)) else none)

/-- XRED and XSCAN: the trees' results for the executing lanes, or for the gang's scalar. -/
def redEff (scan : Bool) (h : Header) (o : FmtA) (s : State) (u : Cur) : Eff :=
  let w := s.warp u.core u.slot
  let g := u.gang
  let scope := o.pdst.toNat
  let op := o.subop.toNat % 8
  if w.scopeBad g scope then .trap (collective g)
  else
    let m := w.execLanes g h
    let v := w.contrib g h o
    let r := if scan then xscanTree op o.type o.rm.toNat scope m g (decide (8 ≤ o.subop.toNat)) v
      else xredTree op o.type o.rm.toNat scope m v
    let out := fun l => (LaneVals.at r.1 l).getD (redIdentity op o.type)
    let ws := match o.dst with
      | .s i =>
        if w.gangActs g h then
          let x := match (setBits 32 m).head? with | some l => out l | none => redIdentity op o.type
          (placesS g i).map (fun p => (p, BitVec.zeroExtend 64 x))
        else []
      | d => (setBits 32 m).map (fun l => (w.placeF l (Operand.num d), BitVec.zeroExtend 64 (out l)))
    .done ((s.addRegs u h.settok.toNat ws r.2 (o.type = 4)).advance u) true

def execXred (h : Header) (o : FmtA) (s : State) : Host.Outcome State Fault Refusal := s.issue (.xred h o) (redEff false h o)

def execXscan (h : Header) (o : FmtA) (s : State) : Host.Outcome State Fault Refusal := s.issue (.xscan h o) (redEff true h o)

end Sys2Proof.Machine
end

