-- ==== Sys2Proof/Machine/Cycle.lean ====
section
/-! DEFINITION. The pipes: fetching and checking the next instruction of a gang (R65–R71, R86, R113), choosing what issues
(R13, R76, R300, R301), counting the slot (R349, R354), and the events of the undertow and of pending faults (R32, R308,
R331). -/

namespace Sys2Proof.Machine

/-! The undertow -/

def execSpillLanded (core slot slice : Nat) (s : State) : Host.Outcome State Fault Refusal := .next (s.spillLand core slot slice)

/-- What a refill brings about: the row written, the loss of the package that held it or the poison of its line consumed for the
workgroup (R256, R345, R380). -/
def State.undertowRefill (s : State) (c slot j : Nat) : State :=
  match s.refillOne c slot j with
  | (s', .still) => s'
  | (s', .landed) => s'.rowsSeen c slot
  | (s', .poison line) => s'.consume c (s'.warp c slot).group 7 line
  | (s', .lost line) => s'.consume c (s'.warp c slot).group 7 line

/-- UNDERTOW_REFILL. -/
def execUndertowRefill (core slot slice : Nat) (s : State) : Host.Outcome State Fault Refusal :=
  .next (s.undertowRefill core slot slice)

/-! Fetching (R65, R67, R71) -/

/-- The number of ones of the low `n` bits of a number is even. -/
def evenOnes (x n : Nat) : Bool := (((List.range n).filter (fun i => bitsAt x i 1 = 1)).length) % 2 = 0

/-- LWPAR of the line word (Table 3.1). -/
def lwparOk (l : LineBits) : Bool := evenOnes (lineWord l % 2 ^ 24 + bitsAt (lineWord l) 29 1 * 2 ^ 24) 25

/-- SLOTPAR of a slot. -/
def slotparOk (l : LineBits) (i : Nat) : Bool := evenOnes (lineSlot l i + bitsAt (lineWord l) (24 + i) 1 * 2 ^ 96) 97

/-- PAIR bit of a slot; slot 4 has none. -/
def pairBit (l : LineBits) (i : Nat) : Bool := decide (i < 4) && bitsAt (lineWord l) (5 + i) 1 = 1

/-- Reserved bits of the line word. -/
def lwReserved (l : LineBits) : Bool := bitsAt (lineWord l) 30 2 ≠ 0 || bitsAt (lineWord l) 9 15 ≠ 0

/-- The parity that is checked when slot `i` issues, with slot i+1 where the two are a pair (R67, R70). -/
def parityOk (l : LineBits) (i : Nat) : Bool := lwparOk l && slotparOk l i && (!pairBit l i || slotparOk l (i + 1))

/-- PARITY of slot `i`, or of the slot that pairs with it alone (R70). -/
def parityTrap (l : LineBits) (i : Nat) (g : Mask8) : Trap :=
  { trapH 0x04 0 (gangMask g) with second := lwparOk l && slotparOk l i }

/-- The slot pairs, in a line whose PAIR holds two adjacent set bits (R69). -/
def pairAdjacent (l : LineBits) (i : Nat) : Bool :=
  pairBit l i && (List.range 3).any (fun k => pairBit l k && pairBit l (k + 1))

/-- The conditions of R69 that two words meet whatever else is wrong with them: their classes, where both opcodes have one, and
their tokens. -/
def pairRaw (x y : Nat) : Bool :=
  let a := x % 256
  let b := y % 256
  (!opcodeUsed a || !opcodeUsed b || ((a = 0 || b = 0 || opClass a ≠ opClass b) && opClass a ≠ .c))
  && ((getHeader x).settok = 0 || (getHeader x).settok ≠ (getHeader y).settok)

/-- The instruction cache takes a line, that which it filled first giving way beyond 128 KiB (R2; log entry 94). -/
def Core.icPut (k : Core) (key : Nat) (l : LineBits) (bad : Bool) : Core :=
  let order := k.icOrder.filter (· ≠ key) ++ [key]
  let out := order.take (order.length - 2048)
  { k with icache := out.foldl (fun t a => Tab.del t a) (Tab.put k.icache key l), icOrder := order.drop out.length
           icBad := (k.icBad.filter (fun a => a ≠ key && !out.contains a)) ++ (if bad then [key] else []) }

/-- What the fetch unit and the first checks of R86 make of a gang's next instruction. -/
inductive Front where
  /-- The gang does not issue: the reason's number in Table 19.4. -/
  | held (n : Nat)
  /-- Parity failed and the line fetched again is good: its physical address (R67). -/
  | refetch (pa : Nat)
  | stop (t : Trap)
  /-- A pending fault is delivered (R308). -/
  | pending
  | go (a : Instr) (b : Option Instr)
  deriving DecidableEq, Repr

/-- Steps 3 to 5 of R86 for a word that is no instruction: the first that fails, in tenths. -/
def rejectAt (c : Nat) (g : Mask8) (bits : Nat) : Nat × Trap :=
  if !opcodeUsed (bits % 256) then (30, illegal g)
  else if decide (0x88 ≤ bits % 256) && decide (bits % 256 ≤ 0x8F) && !coreWide c then (40, featureFault g)
  else (50, illegal g)

/-- Steps 3 to 6 of R86 for one slot of a pair. -/
def State.slotFault (s : State) (c slot : Nat) (g : Mask8) (bits : Nat) : Option (Nat × Trap) :=
  match decodeSlot bits with
  | .error _ => some (rejectAt c g bits)
  | .ok i => s.precheckAt { core := c, slot := slot, gang := g, pos := .alone, floor := 0 } i

/-- How many bits of a slot the fields of an instruction's format take, and where its specifiers stand (Tables 3.4 to 3.9). -/
def Instr.shape (i : Instr) : Nat × List Nat :=
  match Instr.parts i with
  | .a _ _ _ => (86, [32, 40, 48, 56])
  | .b _ _ _ => (93, [32, 40])
  | .c _ _ _ => (92, [32, 40])
  | .d _ _ _ => (93, [32, 40, 48, 56])
  | .e _ _ _ => (87, [32, 40, 48, 56])
  | .g _ _ _ => (85, [32, 40, 48, 77])
  | .event => (0, [])

/-- What a slot's bits name, reserved bits left out and a reserved specifier taken for a constant, which names no register: what
R69 asks of the registers of two slots holds whatever else is wrong with them. -/
def looseInstr (bits : Nat) : Option Instr :=
  (buildInstr (bits % 256) 0 (getHeader 0)).bind (fun i =>
    let x := (Instr.shape i).2.foldl (fun x lo =>
      let b := bitsAt x lo 8
      if 0xC0 ≤ b then x - (b - 0x80) * 2 ^ lo else x) (bits % 2 ^ (Instr.shape i).1)
    buildInstr (bits % 256) x (getHeader x))

/-- The registers of two slots of a pair, of which one at least does not decode, meet R69. -/
def Warp.pairLoose (w : Warp) (g : Mask8) (x y : Nat) : Bool :=
  match looseInstr x, looseInstr y with
  | some a, some b => pairOk (w.asUsed g a) (w.asUsed g b)
  | _, _ => true

/-- The target-check mark (R113), steps 1 to 3 of R86 and decoding, for the slot at a gang's program counter. A line that is to be
fetched again and whose translation now fails raises PARITY, the model's choice (log entry 122). -/
def State.readSlot (s : State) (c slot : Nat) (g : Mask8) (l : LineBits) : Front :=
  let w := s.warp c slot
  let a := (w.slice (gangLeader g)).pc.toNat
  let i := a % 64 / 12
  let bad := (s.core c).icBad.contains (icKey w.asid a)
  if !bad && (gangSlices g).any (fun j => (w.slice j).mark) && bitsAt (lineWord l) i 1 = 0 then .stop (badTarget g)
  else if !parityOk l i || bad then
    match s.xlate c (s.tableOf c w.group) w.asid a false false true with
    | .ok pa =>
      let n := (s.lineRead c (pa / 64)).2
      if parityOk n.1 i && !n.2 && !s.lostAt pa then .refetch pa else .stop (parityTrap l i g)
    | .error _ => .stop (parityTrap l i g)
  else if lwReserved l || pairAdjacent l i then .stop (illegal g)
  else
    let x := lineSlot l i
    if !pairBit l i then
      (match decodeSlot x with
        | .error _ => .stop (rejectAt c g x).2
        | .ok a => .go a none)
    else
      let y := lineSlot l (i + 1)
      if !pairRaw x y then .stop (illegal g)
      else match decodeSlot x, decodeSlot y with
        | .ok a, .ok b => if pairOk (w.asUsed g a) (w.asUsed g b) then .go a (some b) else .stop (illegal g)
        | _, _ =>
          if w.pairLoose g x y then .stop ((firstFault (s.slotFault c slot g x) (s.slotFault c slot g y)).getD (illegal g))
          else .stop (illegal g)

/-- The least of the reasons that hold two instructions. -/
def firstReason (a b : Option Nat) : Option Nat :=
  match a, b with
  | some x, some y => some (min x y)
  | some x, none => some x
  | none, y => y

/-- Whether a gang can issue in this slot, and what (R69, R86, R308, R354): a pair only where neither slot is held. -/
def State.front (s : State) (c slot : Nat) (g : Mask8) : Front :=
  let w := s.warp c slot
  let ld := w.slice (gangLeader g)
  let line := Tab.find (icKey w.asid ld.pc.toNat) (s.core c).icache
  match s.gangHold c slot g, line with
  | some n, none => .held (if n = 0x20 then n else 0x21)
  | some n, some _ => .held n
  | none, _ =>
    if (s.deliverPending c slot g).isSome then .pending
    else match line with
      | none => .held 0x21
      | some l =>
        match s.readSlot c slot g l with
        | .go a b =>
          let u : Cur := { core := c, slot := slot, gang := g, pos := .alone, floor := 0 }
          let bad := (s.precheck u a).isSome || (match b with | some x => (s.precheck u x).isSome | none => false)
          if bad then .go a b
          else match firstReason (s.instrHold c slot g a) (b.bind (fun x => s.instrHold c slot g x)) with
            | some n => .held n
            | none => .go a b
        | f => f

/-- FETCH_LINE_FILL: the line at a gang's program counter arrives, or its translation fails there (R71, R113). -/
def State.lineFill (s : State) (c slot low : Nat) : State :=
  let w := s.warp c slot
  match w.gangs.find? (fun g => gangLeader g = low) with
  | none => s
  | some g =>
    let a := (w.slice low).pc.toNat
    if s.lineHere c slot g || w.walk.isSome || w.report.isSome then s
    else
      let v := s.tableOf c w.group
      let es := s.walkEntries c v w.asid [a]
      if s.underWrite es then s
      else
      let s := s.holdEntries c v es
      match s.xlate c v w.asid a false false true with
      | .ok pa =>
        let q := s.lineRead c (pa / 64)
        q.1.modCore c (fun k => k.icPut (icKey w.asid a) q.2.1 (q.2.2 || s.lostAt pa))
      | .error f =>
        if (s.gangHold c slot g).isSome then s
        else match s.deliverPending c slot g with
          | some s' => s'
          | none =>
            match xlatTrapOf 0 ((gangLanes g).map (fun l => (l, BitVec.ofNat 32 (2 ^ l), a, f))) with
            | some t => s.deliver s c slot g t
            | none => s

def execFetchLineFill (core slot low : Nat) (s : State) : Host.Outcome State Fault Refusal := .next (s.lineFill core slot low)

/-- PENDING_FAULT_DELIVERY: a gang that is about to issue takes a fault held against one of its slices (R308). -/
def execPendingFaultDelivery (core slot low : Nat) (s : State) : Host.Outcome State Fault Refusal :=
  match (s.warp core slot).gangs.find? (fun g => gangLeader g = low) with
  | none => .next s
  | some g =>
    if (s.gangHold core slot g).isSome then .next s
    else match s.deliverPending core slot g with
      | some s' => .next s'
      | none => .next s

/-! Choosing (R13, R76, R300, R301) -/

/-- A warp's gangs in the order of their turns: the gang after the one that issued last comes first (R13). -/
def Warp.turns (w : Warp) : List Mask8 :=
  w.gangs.filter (fun g => decide (w.last < gangLeader g)) ++ w.gangs.filter (fun g => decide (gangLeader g ≤ w.last))

/-- A front that takes the issue slot. -/
def Front.takes : Front → Bool
  | .held _ | .refetch _ => false
  | _ => true

/-- The first ready gang of a warp. -/
def State.readyGang (s : State) (c slot : Nat) : Option (Mask8 × Front) :=
  (s.warp c slot).turns.findSome? (fun g => let f := s.front c slot g; if f.takes then some (g, f) else none)

/-- Warp slots of a pipe whose warps have not ended, active or pending, oldest first. -/
def Core.pipeWarps (k : Core) (p : Nat) (active : Bool) : List Nat :=
  let ws := k.warps.filter (fun e => e.2.pipe = p && e.2.active = active && e.2.live ≠ 0)
  (ws.foldl (fun (l : List (Nat × Nat)) e =>
    l.takeWhile (fun x => decide (x.1 ≤ e.2.age)) ++ (e.2.age, e.1) :: l.dropWhile (fun x => decide (x.1 ≤ e.2.age))) []).map (·.2)

/-- The order of the next issue choice: the oldest first, those with the YIELD hint youngest (R76, R300). -/
def State.choiceOrder (s : State) (c p : Nat) : List Nat :=
  let l := (s.core c).pipeWarps p true
  l.filter (fun i => !(s.warp c i).hint) ++ l.filter (fun i => (s.warp c i).hint)

/-- Counts a cycle off the exchanges in progress, and frees the places of warps that have ended for the oldest pending
ones (R301). -/
def State.keepPipe (s : State) (c p : Nat) : State :=
  let s := s.modCore c (fun k => { k with warps := k.warps.map (fun e =>
    (e.1, if e.2.pipe = p then
        { e.2 with swap := e.2.swap - 1, active := e.2.active && e.2.live ≠ 0 }
      else e.2)) })
  let room := 8 - ((s.core c).pipeWarps p true).length
  (((s.core c).pipeWarps p false).take room).foldl (fun s i => s.modWarp c i (fun w => { w with active := true, readySince := none })) s

/-- Notes since when the pending warps of a pipe have been ready (R301). -/
def State.noteReady (s : State) (c p : Nat) : State :=
  ((s.core c).pipeWarps p false).foldl (fun s i =>
    let r := (s.readyGang c i).isSome
    s.modWarp c i (fun w => { w with readySince := if r then some (w.readySince.getD s.cycle) else none })) s

/-- The reasons for which an active warp gives its place away (R301). -/
def swapReason (n : Nat) : Bool := [0x25, 0x26, 0x27, 0x2B, 0x2C, 0x2D].contains n

/-- A gang is held by a gate's drain or a full copy queue (R124, R213). -/
def State.longHold (s : State) (c slot : Nat) (g : Mask8) : Bool :=
  let w := s.warp c slot
  match Tab.find (icKey w.asid (w.slice (gangLeader g)).pc.toNat) (s.core c).icache with
  | none => false
  | some l => match s.readSlot c slot g l with
    | .go a b => s.engineLong c slot g a || (match b with | some x => s.engineLong c slot g x | none => false)
    | _ => false

/-- Whether a gang stalls so that its warp may give its place away, whether or not the line of its next instruction has come; at
a REGANG it waits for others of its warp. -/
def State.gangYields (s : State) (c slot : Nat) (g : Mask8) : Option Bool :=
  let reason := match s.gangHold c slot g with
    | some n => some n
    | none => match s.front c slot g with | .held n => some n | _ => none
  match reason with
  | none => none
  | some n =>
    if swapReason n || (n = 0x29 && s.longHold c slot g) then some true
    else if n = 0x2E then some false else none

/-- An active warp stalls so that a pending one may take its place: no gang of it is ready, each waits for such a reason
or at a REGANG. -/
def State.givesWay (s : State) (c slot : Nat) : Bool :=
  let rs := (s.warp c slot).turns.map (fun g => s.gangYields c slot g)
  rs.contains (some true) && rs.all (fun r => r.isSome)

/-- Exchanges an active and a pending warp, which takes 2 cycles (R301). -/
def State.exchange (s : State) (c out inn : Nat) : State :=
  (s.modWarp c out (fun w => { w with active := false, readySince := none })).modWarp c inn
    (fun w => { w with active := true, swap := 2, readySince := none })

/-- The oldest stalled active warp gives way to the oldest ready pending one. -/
def State.exchangeOne (s : State) (c p : Nat) : State :=
  match ((s.core c).pipeWarps p false).find? (fun i => (s.warp c i).readySince.isSome) with
  | none => s
  | some i =>
    match ((s.core c).pipeWarps p true).find? (fun o => s.givesWay c o) with
    | none => s
    | some o => s.exchange c o i

/-- PENDING_STARVATION: a warp pending and ready for 4,096 cycles is exchanged with the youngest active one (R301). -/
def execPendingStarvation (core pipe : Nat) (s : State) : Host.Outcome State Fault Refusal :=
  let k := s.core core
  match (k.pipeWarps pipe false).find? (fun i => match (s.warp core i).readySince with
      | some t => decide (t + 4096 ≤ s.cycle)
      | none => false), (k.pipeWarps pipe true).getLast? with
  | some i, some o => .next (s.exchange core o i)
  | _, _ => .next s

/-! The issue slot (R349, R354) -/

/-- Adds one to a leaf of a pipe. -/
def State.countSlot (s : State) (c p leaf : Nat) : State := s.count c (p * 256 + leaf) 1

/-- Counts the slots that have passed with no warp on the pipe, and this one as seen. -/
def State.seeSlot (s : State) (c p : Nat) : State :=
  let owed := s.cycle - Tab.get 0 (s.core c).seen p
  (s.count c (p * 256 + 0x03) owed).modCore c (fun k => { k with seen := Tab.set 0 k.seen p (s.cycle + 1) })

/-- The leaf of an instruction that issues. -/
def State.issueLeaf (s : State) (c slot : Nat) (g : Mask8) (i : Instr) : Nat :=
  if (s.warp c slot).execLanes g (Instr.header i) = 0 then 0x14
  else match opClass (Instr.opcode i) with
    | .v => 0x10
    | .c => 0x11
    | .m => 0x12
    | .x => 0x13

/-- The second run of R349 takes the pipe's next slot, and where the two differ both run again in two more; true where the runs
differ again. -/
def State.secondRun (s : State) (c p slot : Nat) (is : List Instr) : State × Bool :=
  if (s.group c (s.warp c slot).group).region.redund && is.any (fun i => opClass (Instr.opcode i) = .v) then
    let n := if s.slips.any (fun q => q.core = c && q.slot = slot) then 3 else 1
    let q := s.meetSlip c slot
    ((q.1.count c (p * 256 + 0x15) n).modCore c (fun k => { k with seen := Tab.set 0 k.seen p (s.cycle + n + 1) }), q.2)
  else (s, false)

/-- A gang takes the slot: its instruction, or both of a pair, go to the issue latch. -/
def State.takeSlot (s : State) (c p slot : Nat) (g : Mask8) (f : Front) : State :=
  let s := ((s.core c).pipeWarps p true).foldl (fun s i => s.modWarp c i (fun w => { w with hint := false })) s
  let pc := ((s.warp c slot).slice (gangLeader g)).pc
  let mk := fun (i : Instr) (pos : PairPos) (at' : VA) =>
    ({ cur := { core := c, slot := slot, gang := g, pos := pos, floor := 0 }, pc := at', instr := i } : Fetched)
  let unmark := s.modWarp c slot (fun w => w.onGang g (fun _ sl => { sl with mark := false }))
  let issues := fun (a : Instr) (is : List Instr) (fs : List Fetched) =>
    let q := (unmark.countSlot c p (s.issueLeaf c slot g a)).secondRun c p slot is
    if q.2 then { (q.1.count c (coreCtr 0x40) is.length).consumeSlip c (s.warp c slot).group with ir := [] } else { q.1 with ir := fs }
  match f with
  | .pending =>
    (match s.deliverPending c slot g with
      | some s' => { s'.countSlot c p 0x14 with ir := [] }
      | none => s.countSlot c p 0x14)
  | .stop t => { (unmark.deliver unmark c slot g t).countSlot c p 0x14 with ir := [] }
  | .go a none => issues a [a] [mk a .alone pc]
  | .go a (some b) => issues a [a, b] [mk a .first pc, mk b .second (nextSlot pc)]
  | _ => s

/-- What a gang that is held asks for: refills of a frame stall, the line fetched again, and its log-full stall counted
once (R32, R67, R354). -/
def State.heldGang (s : State) (c slot : Nat) (g : Mask8) : State :=
  let w := s.warp c slot
  let ld := w.slice (gangLeader g)
  match s.front c slot g with
  | .refetch pa =>
    let q := s.lineRead c (pa / 64)
    (q.1.modCore c (fun k => k.icPut (icKey w.asid ld.pc.toNat) q.2.1 q.2.2)).count c (coreCtr 0x50) 1
  | .held 0x26 =>
    (match (Tab.find (icKey w.asid ld.pc.toNat) (s.core c).icache).map (fun l => s.readSlot c slot g l) with
      | some (.go a b) => (s.askRefill c slot g a).askRefill c slot g (b.getD a)
      | _ => s)
  | .held 0x27 =>
    if ld.logStalled then s
    else (s.modWarp c slot (fun w => w.onGang g (fun _ sl => { sl with logStalled := true }))).count c (coreCtr 0x44) 1
  | _ => s

/-- The leaf of a slot in which no gang issues: the first reason that holds the gang of the oldest active warp which would
issue next. -/
def State.stallLeaf (s : State) (c p : Nat) : Nat :=
  match (s.core c).pipeWarps p true with
  | [] => 0x03
  | i :: _ =>
    match (s.warp c i).turns.head? with
    | none => 0x03
    | some g => match s.front c i g with
      | .held n => n
      | _ => 0x21

/-- ISSUE_CYCLE of a pipe. -/
def State.issueCycle (s : State) (c p : Nat) : State :=
  if s.cycle < Tab.get 0 (s.core c).seen p then s
  else
    let s := ((s.seeSlot c p).keepPipe c p).noteReady c p
    let order := s.choiceOrder c p
    let pick := order.findSome? (fun i => (s.readyGang c i).map (fun q => (i, q.1, q.2)))
    let held := fun (s : State) (skip : Nat) => order.foldl (fun s i =>
      if i = skip then s else (s.warp c i).turns.foldl (fun s g => s.heldGang c i g) s) s
    match pick with
    | some (i, g, f) => ((held s i).exchangeOne c p).takeSlot c p i g f
    | none => (held (s.countSlot c p (s.stallLeaf c p)) 128).exchangeOne c p

def execIssueCycle (core pipe : Nat) (s : State) : Host.Outcome State Fault Refusal := .next (s.issueCycle core pipe)

end Sys2Proof.Machine
end

