-- ==== Sys2Proof/Machine/Preempt.lean ====
section
/-! DEFINITION. Pre-emption, saves and swap-outs as events (R129, R320–R325), and what the application cores answer (R321,
R322). -/

namespace Sys2Proof.Machine

/-- The halted warps of a workgroup, by slot. -/
def State.haltedSlots (s : State) (c g : Nat) : List Nat := (s.group c g).slots.filter (fun i => (s.warp c i).report.isSome)

/-- PREQ is set in the warps of a workgroup. -/
def State.preqSet (s : State) (c g : Nat) : Bool := (s.group c g).slots.any (fun i => (s.warp c i).preq)

/-- PREEMPT_REQUEST (R324): PREQ is set and the deadline starts, whether the workgroup runs or waits in its place; one that holds a halted warp is reported instead,
and its deadline waits (R320). -/
def State.preemptRequest (s : State) (c g : Nat) : State :=
  match Tab.find g (s.core c).groups with
  | none => s
  | some x =>
    if x.saving.isSome || s.preqSet c g then s
    else
      let halted := s.haltedSlots c g
      let s := x.slots.foldl (fun s i => s.modWarp c i (fun w => { w with preq := true })) s
      match halted with
      | i :: _ => s.groupEvent x 5 c i
      | [] => s.setGroup c g { x with deadline := some (s.cycle + x.region.deadline) }

def execPreemptRequest (core group : Nat) (s : State) : Host.Outcome State Fault Refusal := .next (s.preemptRequest core group)

/-- Every live slice of a workgroup stands at a YIELD, no warp of it being halted (R129, R324). -/
def State.allYield (s : State) (c g : Nat) : Bool :=
  let x := s.group c g
  (s.haltedSlots c g).isEmpty
  && x.slots.any (fun i => (s.warp c i).live ≠ 0)
  && x.slots.all (fun i => (gangSlices (s.warp c i).live).all (fun j => ((s.warp c i).slice j).wait = .yield))

/-- YIELD_SAVE: the save of KIND 0 begins, or goes on (R129, R325). -/
def State.yieldSave (s : State) (c g : Nat) : State :=
  match Tab.find g (s.core c).groups with
  | none => s
  | some x =>
    match x.saving with
    | some (0, _) => s.continueSave c g
    | some _ => s
    | none => if s.preqSet c g && s.allYield c g then s.startSave c g 0 (x.slots.headD 0) else s

def execYieldSave (core group : Nat) (s : State) : Host.Outcome State Fault Refusal := .next (s.yieldSave core group)

/-- FORCED_SAVE: the save of KIND 1 begins once the deadline has expired, and every save but KIND 0 goes on through it
(R321, R322, R324, R325). -/
def State.forcedSave (s : State) (c g : Nat) : State :=
  match Tab.find g (s.core c).groups with
  | none => s
  | some x =>
    match x.saving with
    | some (0, _) => s
    | some _ => s.continueSave c g
    | none => match x.deadline with
      | none => s
      | some d => if decide (d ≤ s.cycle) && (s.haltedSlots c g).isEmpty then s.startSave c g 1 (x.slots.headD 0) else s

def execForcedSave (core group : Nat) (s : State) : Host.Outcome State Fault Refusal := .next (s.forcedSave core group)

/-- The sub-kind of WATCHDOG for a wait that it counts (Table 16.1). -/
def Wait.watched : Wait → Option Nat
  | .regang => some 0
  | .barr _ _ => some 1
  | .latch => some 2
  | .landing _ _ => some 3
  | .ring _ _ _ _ _ => some 3
  | .ready | .yield => none

/-- WATCHDOG (R322): a gang that has waited 2^26 cycles has its workgroup saved with KIND 3. -/
def State.watchdogBite (s : State) (c slot low : Nat) : State :=
  let w := s.warp c slot
  match w.gangs.find? (fun g => gangLeader g = low) with
  | none => s
  | some g =>
    let sl := w.slice low
    match sl.wait.watched with
    | none => s
    | some sub =>
      if w.report.isSome || (s.group c w.group).saving.isSome || s.cycle < sl.waitSince + 2 ^ 26 then s
      else if sl.handler.isSome then
        s.takeH s c slot g { trapH 0x14 sub (gangMask g) with cls := .h }
      else
        let f : PendFault := { cause := 0x14, cls := .w, sub := sub, mask := gangMask g, va := 0 }
        (s.modGroup c w.group (fun x => { x with fault := some f })).startSave c w.group 3 slot

def execWatchdog (core slot low : Nat) (s : State) : Host.Outcome State Fault Refusal := .next (s.watchdogBite core slot low)

/-- A saved workgroup of a kind may re-enter. -/
def State.releaseSaved (s : State) (id kind : Nat) : State :=
  { s with saved := s.saved.map (fun (x : Saved) => if x.id = id && x.kind = kind then { x with released := true } else x) }

/-- FAULT_SERVED (R321). -/
def execFaultServed (saved : Nat) (s : State) : Host.Outcome State Fault Refusal := .next (s.releaseSaved saved 2)

/-- WATCHDOG_RELEASE (R322). -/
def execWatchdogRelease (saved : Nat) (s : State) : Host.Outcome State Fault Refusal := .next (s.releaseSaved saved 3)

end Sys2Proof.Machine
end

