-- ==== Sys2Proof/Machine/Debug.lean ====
section
/-! DEFINITION. The debug windows: what they show (Tables 16.2 and 16.3), the commands RESUME, STEP and KILL (R317, R318,
R320), register accesses (R377) and the counter freeze word (R376). -/

namespace Sys2Proof.Machine

/-! What the window holds (R316) -/

/-- The halt report as the window shows it (Table 16.2). -/
def Report.word (r : Report) : Nat :=
  2 ^ 174 + r.pending.toNat * 2 ^ 175 + r.inHandler.toNat * 2 ^ 176 + r.gdepth.toNat * 2 ^ 177 + r.domain.toNat * 2 ^ 180
    + r.asid.toNat * 2 ^ 192 + r.cause.toNat * 2 ^ 208 + r.sub.toNat * 2 ^ 216 + r.live.toNat * 2 ^ 224
    + r.stopGang.toNat * 2 ^ 232 + r.code.toNat * 2 ^ 240 + r.m0.toNat * 2 ^ 256 + r.fmask.toNat * 2 ^ 288
    + r.addr.toNat * 2 ^ 327 + r.pc.toNat * 2 ^ 391 + r.tick.toNat * 2 ^ 448

/-- The slice's gang is held by a token, by rows that must come back or by a full log, the halt left aside. -/
def State.heldLong (s : State) (c slot : Nat) (g : Mask8) : Bool :=
  match (s.modWarp c slot (fun w => { w with report := none, walk := none, stepping := none })).front c slot g with
  | .held n => [0x25, 0x26, 0x27].contains n
  | _ => false

/-- WAIT of Table 16.3, as the slice stands (log entry 115). -/
def State.waitCode (s : State) (c slot j : Nat) : Nat :=
  let w := s.warp c slot
  let sl := w.slice j
  match sl.wait with
  | .regang => 1
  | .barr _ _ => 2
  | .latch => 3
  | .landing _ _ => 4
  | .ring _ _ _ _ _ => 4
  | .ready | .yield => if w.otherHandler sl.gang then 6 else if s.heldLong c slot sl.gang then 5 else 0

/-- A slice's debug state as the window shows it (Table 16.3). -/
def State.sliceWord (s : State) (c slot j : Nat) : Nat :=
  let w := s.warp c slot
  let sl := w.slice j
  sl.handler.isSome.toNat * 2 ^ 26 + sl.live.toNat * 2 ^ 27 + s.waitCode c slot j * 2 ^ 28 + sl.gang.toNat * 2 ^ 31
    + sl.fp w.rowB * 2 ^ 39 + sl.fszNow * 2 ^ 48 + sl.depth * 2 ^ 55 + sl.pc.toNat * 2 ^ 71

/-! RESUME, STEP, KILL (R317) -/

/-- A member of the latch whose arrival was withdrawn by the halt arrives again. -/
def State.latchAgain (s : State) (c slot : Nat) : State :=
  let w := s.warp c slot
  let here := (s.group c w.group).latch.any (fun a => a.slot = slot)
  s.setWarp c slot { w with slices := w.slices.map (fun e =>
    (e.1, if e.2.wait = .latch && !here then { e.2 with wait := .ready } else e.2)) }

/-- Gangs whose slices the debugger has sent to different places part. -/
def Warp.partAll (w : Warp) : Warp := w.gangs.foldl (fun w g => w.part g) w

/-- Ends a halt; a wait is counted from here on (R322). The slices' program counters are checked under R66 only: a gang that
stands at none raises BADTARGET. -/
def State.resumeWarp (s : State) (c slot : Nat) (step : Bool) : State :=
  let w := s.warp c slot
  match w.report with
  | none => s
  | some r =>
    let w' := ({ w with report := none, slices := w.slices.map (fun e => (e.1, { e.2.retries with waitSince := s.cycle })) } : Warp).partAll
    let stop := gangLeader r.stopGang
    let w' : Warp := { w' with stepping := if step then some (w'.slice stop).gang else none }
    let s := (s.setWarp c slot w').latchAgain c slot
    let s := match w'.gangs.find? (fun g => !slotAligned ((w'.slice (gangLeader g)).pc.toNat)) with
      | some g => s.haltWarp c slot g (badTarget g)
      | none => s
    let x := s.group c w.group
    if w.preq && (s.haltedSlots c w.group).isEmpty then
      s.setGroup c w.group { x with deadline := some (s.cycle + x.region.deadline) }
    else s

/-- A slot's window is reached through the interface whose workgroup occupies it alone (R376). -/
def State.windowOpen (s : State) (vi c slot : Nat) : Bool :=
  match Tab.find slot (s.core c).warps with
  | some w => (s.group c w.group).region.vi = vi
  | none => false

def execDebugResume (core : CoreVia) (slot : Nat) (s : State) : Host.Outcome State Fault Refusal :=
  .next (if s.windowOpen core.vi core.core slot then s.resumeWarp core.core slot false else s)
def execDebugStep (core : CoreVia) (slot : Nat) (s : State) : Host.Outcome State Fault Refusal :=
  .next (if s.windowOpen core.vi core.core slot then s.resumeWarp core.core slot true else s)

/-- Ends a launch: its resident workgroups and the saved ones go, their unpublished records voided, and nothing of it is
counted any more. -/
def State.killLaunch (s : State) (handle : Nat) : State :=
  let here := s.cores.flatMap (fun k => (k.2.groups.filter (fun g => g.2.launch = handle)).map (fun g => (k.1, g.1)))
  let s := here.foldl (fun s p => (s.voidRecords p.1 p.2).dropGroup p.1 p.2) s
  let s := (s.saved.filter (fun x => x.launch = handle)).foldl (fun s x => s.unmoor x) s
  let s := { s with saved := s.saved.filter (fun x => x.launch ≠ handle)
                    launches := s.launches.filter (fun l => l.handle ≠ handle) }
  { s with queues := s.queues.filter (fun e => s.queueKeys.contains e.1) }

def State.debugKill (s : State) (c slot : Nat) : State :=
  let w := s.warp c slot
  if w.report.isNone then s
  else
    let x := s.group c w.group
    (s.killLaunch x.launch).event x.region.vi 4 0 0 x.region.faultDom x.region.index

def execDebugKill (core : CoreVia) (slot : Nat) (s : State) : Host.Outcome State Fault Refusal :=
  .next (if s.windowOpen core.vi core.core slot then s.debugKill core.core slot else s)

/-! DACC and DDATA (R377, Table 21.7) -/

/-- A ring row holds a resident row of the slice. -/
def Slice.holdsRow (sl : Slice) (B r : Nat) : Bool :=
  decide (r < B) && (List.range (sl.top - sl.low)).any (fun i => (sl.low + i) % B = r)

/-- The bits of a mask register as a slice reads them (R17). -/
def Warp.maskSeen (w : Warp) (j k : Nat) : Mask32 :=
  let g := (w.slice j).gang
  (gangSlices (if g = 0 then BitVec.ofNat 8 (2 ^ j) else g)).foldl (fun a i =>
    a ||| (BitVec.zeroExtend 32 (Tab.get 0 (w.slice i).m k) <<< (4 * i))) 0

/-- A register of a halted warp by its number; `none` sets ERR. -/
def State.debugRead (s : State) (c slot j lane n : Nat) : Option W64 :=
  let w := s.warp c slot
  let sl := w.slice j
  if n < 0x1000 then
    (if n = 0x06 then some (BitVec.ofNat 64 (4 * j + lane % 4)) else if sysListed n then some (s.sysRead c slot j n) else none)
  else if n < 0x1020 then some (Tab.get 0 sl.s (n - 0x1000))
  else if n < 0x1040 then some (BitVec.ofNat 64 (bitsAt (Tab.get 0 sl.b ((n - 0x1020) / 2)).toNat (64 * (n % 2)) 64))
  else if n < 0x1048 then some (BitVec.zeroExtend 64 (w.maskSeen j (n - 0x1040)))
  else if n = 0x1048 then some (BitVec.zeroExtend 64 (Tab.get 0 sl.p (lane % 4) ||| 0x80))
  else if 0x1050 ≤ n && n ≤ 0x1055 then some (BitVec.ofNat 64 (Tab.get 0 w.tok (n - 0x1050)))
  else if 0x1058 ≤ n && n ≤ 0x105F then some (BitVec.zeroExtend 64 (Tab.get 0 w.bs (n - 0x1058)))
  else if n = 0x1060 then some w.mteam
  else if 0x2000 ≤ n && n ≤ 0x21FF then
    (if sl.holdsRow w.rowB (n - 0x2000) then some (BitVec.zeroExtend 64 (rowLane (Tab.get 0 sl.rows (n - 0x2000)) (lane % 4)))
     else none)
  else if 0x2200 ≤ n && n ≤ 0x220F then
    some (BitVec.zeroExtend 64 (rowLane (Tab.get 0 sl.hrows (n - 0x2200)) (lane % 4)))
  else none

/-- A row with one lane replaced. -/
def putLane (r : W128) (l : Nat) (v : W32) : W128 := rowMerge (BitVec.ofNat 4 (2 ^ l)) r (rowOf4 (fun _ => v))

/-- Writes a register of a halted warp by its number; `none` sets ERR. HANDLER is the warp's, so every slice takes it (Table 1.3). -/
def State.debugWrite (s : State) (c slot j lane n : Nat) (v : W64) : Option State :=
  let w := s.warp c slot
  let sl := w.slice j
  let put := fun (sl : Slice) => some (s.setWarp c slot (w.setSlice j sl))
  if n < 0x1000 then
    (if !(sysListed n && sysWritable n) then none
     else if n = 0x18 then
       (if sl.gates.isEmpty then some (s.setWarp c slot { w with handler := BitVec.truncate 57 v })
        else some (s.setWarp c slot { w with slices := w.slices.map (fun e => (e.1, e.2.sysWrite n v w.seed)) }))
     else put (sl.sysWrite n v w.seed))
  else if n < 0x1020 then put { sl with s := Tab.set 0 sl.s (n - 0x1000) v }
  else if n < 0x1040 then
    let i := (n - 0x1020) / 2
    let old := (Tab.get 0 sl.b i).toNat
    let new := if n % 2 = 0 then old / 2 ^ 64 * 2 ^ 64 + v.toNat else old % 2 ^ 64 + v.toNat * 2 ^ 64
    put { sl with b := Tab.set 0 sl.b i (BitVec.ofNat 128 new) }
  else if n < 0x1048 then
    let g := if sl.gang = 0 then BitVec.ofNat 8 (2 ^ j) else sl.gang
    some ((s.setWarp c slot (w.onGang g (fun i q =>
      { q with m := Tab.set 0 q.m (n - 0x1040) (sliceBits (BitVec.truncate 32 v) i) }))).traceMasks s c slot)
  else if n = 0x1048 then put { sl with p := Tab.set 0 sl.p (lane % 4) (BitVec.truncate 8 v &&& 0x7F) }
  else if 0x1050 ≤ n && n ≤ 0x1055 then
    some (s.setWarp c slot { w with tok := Tab.set 0 w.tok (n - 0x1050) (v.toNat % 64) })
  else if 0x1058 ≤ n && n ≤ 0x105F then
    some (s.setWarp c slot { w with bs := Tab.set 0 w.bs (n - 0x1058) (BitVec.truncate 16 v) })
  else if n = 0x1060 then some (s.setWarp c slot { w with mteam := v })
  else if 0x2000 ≤ n && n ≤ 0x21FF then
    (if sl.holdsRow w.rowB (n - 0x2000) then
      let row := putLane (Tab.get 0 sl.rows (n - 0x2000)) (lane % 4) (BitVec.truncate 32 v)
      put (sl.putRow (n - 0x2000) row)
     else none)
  else if 0x2200 ≤ n && n ≤ 0x220F then
    let row := putLane (Tab.get 0 sl.hrows (n - 0x2200)) (lane % 4) (BitVec.truncate 32 v)
    put (sl.putHrow (n - 0x2200) row)
  else none

/-- DACC once an access is done: its fields, GO clear, ERR as it came out. -/
def daccWord (write : Bool) (slice lane reg : Nat) (err : Bool) : W64 :=
  BitVec.ofNat 64 (write.toNat * 2 ^ 62 + err.toNat * 2 ^ 61 + slice % 8 * 2 ^ 55 + lane % 32 * 2 ^ 50 + reg % 65536)

/-- Leaves DACC, and DDATA where a value was read. -/
def State.setDacc (s : State) (c slot : Nat) (d : W64) (v : Option W64) : State :=
  s.modCore c (fun k => { k with dacc := Tab.set 0 k.dacc slot d
                                 ddata := match v with | some x => Tab.set 0 k.ddata slot x | none => k.ddata })

/-- A register of a warp slot is read into DDATA. -/
def State.daccGet (s : State) (c slot slice lane reg : Nat) : State :=
  let v := if (s.warp c slot).report.isNone then none else s.debugRead c slot (slice % 8) (lane % 32) (reg % 65536)
  s.setDacc c slot (daccWord false slice lane reg v.isNone) v

/-- A register of a warp slot is written from DDATA. -/
def State.daccPut (s : State) (c slot slice lane reg : Nat) : State :=
  let v := Tab.get 0 (s.core c).ddata slot
  match (if (s.warp c slot).report.isNone then none else s.debugWrite c slot (slice % 8) (lane % 32) (reg % 65536) v) with
  | some s' => (s'.rowsSeen c slot).setDacc c slot (daccWord true slice lane reg false) none
  | none => s.setDacc c slot (daccWord true slice lane reg true) none

def execDaccRead (core : CoreVia) (slot slice lane reg : Nat) (s : State) : Host.Outcome State Fault Refusal :=
  .next (if s.windowOpen core.vi core.core slot then s.daccGet core.core slot slice lane reg else s)

def execDaccWrite (core : CoreVia) (slot slice lane reg : Nat) (s : State) : Host.Outcome State Fault Refusal :=
  .next (if s.windowOpen core.vi core.core slot then s.daccPut core.core slot slice lane reg else s)

/-! The counter freeze word (R355, R376) -/

/-- Holds every counter of a core, the slots that passed with no warp counted first; or lets them go on. -/
def State.freeze (s : State) (c : Nat) (hold : Bool) : State :=
  if hold then
    if (s.core c).frozen then s
    else
      let s := (List.range 4).foldl (fun s p => s.count c (p * 256 + 0x03) (s.emptyOwed c p)) s
      s.modCore c (fun k => { k with frozen := true })
  else if (s.core c).frozen then
    s.modCore c (fun k => { k with frozen := false, seen := (List.range 4).foldl (fun t p => Tab.set 0 t p s.cycle) k.seen })
  else s

/-- The freeze word is reached through interface 0 alone. -/
def execCounterFreeze (core : CoreVia) (hold : Bool) (s : State) : Host.Outcome State Fault Refusal :=
  .next (if core.vi = 0 then s.freeze core.core hold else s)

end Sys2Proof.Machine
end

