-- ==== Sys2Proof/Machine/Gate.lean ====
section
/-! DEFINITION. The protected call: GATE and GRET (R42, R123–R128). -/

namespace Sys2Proof.Machine

/-! The gate table entry (Table 5.4) -/

def geCallers (e : Nat) : Nat := bitsAt e 448 64
def geVersion (e : Nat) : Nat := bitsAt e 416 32
def geScrub (e : Nat) : W32 := BitVec.ofNat 32 (bitsAt e 384 32)
def geHandler (e : Nat) : VA := BitVec.ofNat 57 (bitsAt e 320 57)
def geBsBase (e : Nat) : Nat := bitsAt e 256 57
def geEntry (e : Nat) : Nat := bitsAt e 192 57
def geAsid (e : Nat) : BitVec 16 := BitVec.ofNat 16 (bitsAt e 176 16)
def geDomain (e : Nat) : BitVec 12 := BitVec.ofNat 12 (bitsAt e 164 12)
def geDomGrp (e : Nat) : Nat := bitsAt e 158 6
def geFsize (e : Nat) : Nat := bitsAt e 151 7
def geNarg (e : Nat) : Nat := bitsAt e 144 7
def geNres (e : Nat) : Nat := bitsAt e 137 7
def geWindow (e : Nat) : Nat := bitsAt e 132 5

/-- VALID is set and every reserved bit is clear. No rule refuses a BSBASE that is no multiple of 4,096: it is used as it stands (log
entry 111). -/
def geValid (e : Nat) : Bool :=
  bitsAt e 128 1 = 1 && bitsAt e 377 7 = 0 && bitsAt e 313 7 = 0 && bitsAt e 249 7 = 0 && bitsAt e 129 3 = 0
  && bitsAt e 0 128 = 0

/-- CALLERS and DOMGRP admit a caller's domain. -/
def geAdmits (e : Nat) (d : BitVec 12) : Bool := bitsAt (geCallers e) (d.toNat % 64) 1 = 1 && d.toNat / 64 = geDomGrp e

/-- The sizes of an entry suit a caller (reason 0x04). -/
def geFits (e B fsz : Nat) : Bool :=
  decide (1 ≤ geFsize e) && decide (geFsize e ≤ 64) && decide (geFsize e + 2 ≤ B) && decide (geNarg e ≤ fsz)
  && decide (geNarg e ≤ geFsize e) && decide (geNres e ≤ geNarg e) && decide (12 ≤ geWindow e) && decide (geWindow e ≤ 24)

/-- What reading the gate table gives. -/
inductive GateRead where
  | refused (reason : Nat)
  | entry (e : Nat)
  /-- The entry stands in a poisoned line (R345, R348). -/
  | poison (line : Nat)
  deriving DecidableEq, Repr

/-- Reads an entry and applies the refusals of Table 5.5 in their order (R123, R124 step 4). -/
def State.readGate (s : State) (u : Cur) (index : Nat) : GateRead :=
  let w := s.warp u.core u.slot
  let r := (s.group u.core w.group).region
  let va := r.gateTab.toNat + 64 * index
  if r.gateCount ≤ index then .refused 0x01
  else match s.xlate u.core r.table w.asid va true false false, s.homeVirt u.core r.table w.asid va 64 with
    | .ok pa, some bs =>
      let e := ofBytes bs
      if s.isPoisoned (pa / 64) || s.lostAt pa then .poison (pa / 64)
      else if !geValid e then .refused 0x02
      else if !geAdmits e w.domain then .refused 0x03
      else if (gangSlices w.live).all (fun j => geFits e w.rowB (w.slice j).fsz) then .entry e
      else .refused 0x04
    | _, _ => .refused 0x05

/-- Gives a status word to the caller's f(FSZ − 1) in the lanes of the entry mask, and clears pd there (R124). -/
def Slice.refuseGate (sl : Slice) (B seed pd : Nat) (st : W32) : Slice :=
  let m := sl.readM seed 0
  (sl.writeRow B seed 0 (sl.fsz - 1) m (rowOf4 (fun _ => st))).writeP seed 0 pd m 0

/-- A refused GATE: it writes only pd and the status row, and goes on (R124, Table 5.5). The status word has 12 bits for an index that
may have 64; it shows the low 12, the model's choice (log entry 124). -/
def gateRefuse (reason index pd : Nat) (s : State) (u : Cur) : Eff :=
  let s' := s.modWarp u.core u.slot (fun w => w.onGang u.gang (fun _ sl =>
    sl.refuseGate w.rowB w.seed pd (gateStatus 1 (index % 4096) sl.gates.length reason)))
  .done ((s'.modGroup u.core (s.warp u.core u.slot).group (fun x => { x with committed := true })).advance u) false

/-- The base of a slice's window (R125). -/
def gateWindow (e core slot slice depth : Nat) : Nat :=
  geBsBase e + (((core * 128 + slot) * 8 + slice) * 4 + depth) * 2 ^ geWindow e

/-- The frame rows of a gate frame as the service finds them: the caller's top registers, then zeros (R125). -/
def argRows (sl : Slice) (B seed narg fsize : Nat) : List W128 :=
  (List.range fsize).map (fun i => if i < narg then sl.readRow B seed (sl.fsz - narg + i) else 0)

/-- Writes whole rows to frame registers from `i` upward. -/
def Slice.fillRows (sl : Slice) (B : Nat) : Nat → List W128 → Slice
  | _, [] => sl
  | i, r :: rs => Slice.fillRows (sl.putRow (sl.ringRow B i) r) B (i + 1) rs

/-- One slice enters the service (R125). -/
def Slice.enterGate (sl : Slice) (w : Warp) (core slot j index pd e : Nat) : Slice :=
  let B := w.rowB
  let depth := sl.gates.length
  let base := gateWindow e core slot j depth
  let header := headerTo (nextSlot sl.pc) sl.fsz 0 (sl.readM w.seed 0) true false
  let args := argRows sl B w.seed (geNarg e) (geFsize e)
  let opened := sl.openFrame B w.seed (geFsize e) 0 header
  let save : GateSave :=
    { asid := w.asid, domain := w.domain, spillTop := sl.spillTop, base := sl.bsBase, index := index % 4096
      narg := geNarg e, nres := geNres e, scrub := geScrub e, handler := geHandler e
      limit := BitVec.ofNat 57 (base + 2 ^ geWindow e), pd := pd, first := sl.top, hdr := opened.top - 1
      header := header, depth := sl.depth, born := w.seed }
  let s0 : W64 := BitVec.ofNat 64 (w.domain.toNat * 2 ^ 48 + index % 4096 * 2 ^ 32 + geVersion e)
  let filled := (opened.fillRows B 0 args).quenchRegs (geScrub e)
  (({ filled with gates := save :: sl.gates, spillTop := BitVec.ofNat 57 base, bsBase := BitVec.ofNat 57 base } : Slice)).writeS
    w.seed 0 0 s0

/-- Enters the service in every live slice of the warp (R124 steps 5 and 6, R125), at any DEPTH: the steps of GATE name no limit
of it (log entry 110). In a package that has booted the entry's ASID is a service's, under which nothing is executable before an
image has passed for it (R382; log entry 117): the transfer is made and the fetch fails there (R113). -/
def gateEnter (e index pd : Nat) (s : State) (u : Cur) : Eff :=
  let w := s.warp u.core u.slot
  let s := if s.security.started then s.barService (geAsid e) else s
  if s.anyBad u (geAsid e) [geEntry e] || !slotAligned (geHandler e).toNat then .trap (badTarget u.gang)
  else s.withRooms u (gangSlices u.gang) (fun _ => false) (fun sl => sl.gateRoom w.rowB w.seed w.asid (geFsize e)) (fun s =>
    let w := s.warp u.core u.slot
    let w' := w.onGang u.gang (fun j sl => sl.enterGate w u.core u.slot j index pd e)
    let w' : Warp := { w' with asid := geAsid e, domain := geDomain e, bs := [], mteam := 0 }
    let s' := (s.setWarp u.core u.slot w').goTo u (fun _ => some (geEntry e))
    let s' := if geDomain e = w.domain then s' else s'.closeInterval u.core w.group
    let s' := s'.modGroup u.core w.group (fun x => { x with committed := true })
    let s' := s'.traceCall u.core u.slot u.gang false true
    .done (s'.traceSent u (gangSlices u.gang)) false)

/-- The index that GATE names (R124, Table 5.1). -/
def Warp.gateIndex (w : Warp) (g : Mask8) (o : FmtC) : Nat :=
  if o.subop = 0 then o.offset.toNat else (w.readS g (Operand.num o.srcB)).toNat

def execGate (h : Header) (o : FmtC) (s : State) : Host.Outcome State Fault Refusal :=
  s.issue (.gate h o) (fun s u =>
    let w := s.warp u.core u.slot
    let pd := Operand.num o.srcA
    let index := w.gateIndex u.gang o
    if w.live ≠ u.gang then .trap (trapH 0x0B 0 (gangMask u.gang))
    else if 4 ≤ (w.slice (gangLeader u.gang)).gates.length then .trap (trapH 0x0B 1 (gangMask u.gang))
    else if !w.takes u.gang h then .done (s.advance u) false
    else match s.readGate u index with
      | .refused r => gateRefuse r index pd s u
      | .poison line => .fault (uncorrTrap (5, line))
      | .entry e => gateEnter e index pd s u)

/-! GRET (R128) -/

/-- The service's results, f0 to f(NRES − 1) (R128). -/
def resultRows (sl : Slice) (B seed nres : Nat) : List W128 := (List.range nres).map (fun i => sl.readRow B seed i)

/-- One slice returns to its caller: results copied in every lane, the gate frame's rows and the registers quenched, the
save stack popped, the caller's frame current, pd set in the entry lanes (R128). -/
def Slice.leaveGate (sl : Slice) (B seed : Nat) : Slice :=
  match sl.gates with
  | [] => sl
  | e :: rest =>
    let hd := sl.hdr B
    let res := resultRows sl B seed e.nres
    let gone := (List.range (sl.top - e.first)).map (fun i => (e.first + i) % B)
    let closed := (sl.closeFrameOver B gone).quenchRegs e.scrub
    let back : Slice := { closed with gates := rest, spillTop := e.spillTop, bsBase := e.base, depth := e.depth }
    let back := back.fillRows B (back.fsz - e.narg) res
    (back.writeM seed 0 0 (hdEntry hd)).writeP seed 0 e.pd (hdEntry hd) 15

/-- GRET: the checks, then the return of every slice (R113, R128). -/
def gretEff (h : Header) (s : State) (u : Cur) : Eff :=
  let w := s.warp u.core u.slot
  let js := gangSlices u.gang
  let ld := w.slice (gangLeader u.gang)
  let ret := hdRet (ld.hdr w.rowB)
  if js.any (fun j => !hdGate ((w.slice j).hdr w.rowB)) then .trap (trapH 0x0B 2 (gangMask u.gang))
  else if w.live ≠ u.gang then .trap (trapH 0x0B 0 (gangMask u.gang))
  else if !w.takes u.gang h then .done (s.advance u) false
  else if js.any (fun j => !hdLegal ((w.slice j).hdr w.rowB) (w.slice j).fsz) then .trap (illegal u.gang)
  else match ld.gates with
    | [] => .trap (trapH 0x0B 2 (gangMask u.gang))
    | e :: _ =>
      if s.anyBad u e.asid [ret.toNat] then .trap (badTarget u.gang)
      else
        let w' := (w.onGang u.gang (fun _ sl => sl.leaveGate w.rowB w.seed)).dropResults e.born
        let w' : Warp := { w' with asid := e.asid, domain := e.domain, bs := [], mteam := 0 }
        let s' := (s.setWarp u.core u.slot w').goTo u (fun _ => some ret.toNat)
        .done (s'.traceCall u.core u.slot u.gang true true) false

def execGret (h : Header) (o : FmtC) (s : State) : Host.Outcome State Fault Refusal := s.issue (.gret h o) (gretEff h)

end Sys2Proof.Machine
end

