-- ==== Sys2Proof/Machine/Integer.lean ====
section
/-! DEFINITION. The integer, logic, move and compare instructions, opcodes 0x00 to 0x2A (R92–R106). The latencies are
those of Table 3.3. -/

namespace Sys2Proof.Machine

/-- A bit pattern of the type's width, extended under R93. -/
def bitsOut (t : BitVec 4) (x : Nat) : AluOut := .plain (extTo t (x % 2 ^ tyWidth t : Nat))

/-- An integer result that wraps (R94). -/
def intOut (t : BitVec 4) (x : Int) : AluOut := .plain (narrow t false x)

/-! Integer arithmetic (Table 4.2) -/

def execNop (h : Header) (o : FmtA) (s : State) : Host.Outcome State Fault Refusal :=
  s.issueReg (.nop h o) (fun w _ => w)

def execAdd (h : Header) (o : FmtA) (s : State) : Host.Outcome State Fault Refusal :=
  s.issueReg (.add h o) (fun w g =>
    w.aluA g h 4 o.pdst.toNat o (fun a b c => addOut o.type o.sat a b (o.subop = 1 && c = 1)))

def execAddi (h : Header) (o : FmtB) (s : State) : Host.Outcome State Fault Refusal :=
  s.issueReg (.addi h o) (fun w g =>
    w.aluB g h 4 o.pdst.toNat o (fun a => addOut o.type false a (immOf o.type o.imm) false))

def execSub (h : Header) (o : FmtA) (s : State) : Host.Outcome State Fault Refusal :=
  s.issueReg (.sub h o) (fun w g =>
    w.aluA g h 4 o.pdst.toNat o (fun a b c => subOut o.type o.sat a b (o.subop = 1 && c = 1)))

def execNeg (h : Header) (o : FmtA) (s : State) : Host.Outcome State Fault Refusal :=
  s.issueReg (.neg h o) (fun w g =>
    w.aluA g h 4 o.pdst.toNat o (fun a _ _ => rangeOut o.type o.sat (-(intOf o.type a))))

def execMul (h : Header) (o : FmtA) (s : State) : Host.Outcome State Fault Refusal :=
  s.issueReg (.mul h o) (fun w g =>
    w.aluA g h 6 o.pdst.toNat o (fun a b _ => rangeOut o.type o.sat (intOf o.type a * intOf o.type b)))

def execMuli (h : Header) (o : FmtB) (s : State) : Host.Outcome State Fault Refusal :=
  s.issueReg (.muli h o) (fun w g =>
    w.aluB g h 6 o.pdst.toNat o (fun a =>
      rangeOut o.type false (intOf o.type a * intOf o.type (immOf o.type o.imm))))

def execMulhi (h : Header) (o : FmtA) (s : State) : Host.Outcome State Fault Refusal :=
  s.issueReg (.mulhi h o) (fun w g =>
    w.aluA g h 6 7 o (fun a b _ => intOut o.type (intOf o.type a * intOf o.type b / (2 ^ tyWidth o.type : Nat))))

def execMad (h : Header) (o : FmtA) (s : State) : Host.Outcome State Fault Refusal :=
  s.issueReg (.mad h o) (fun w g =>
    w.aluA g h 6 o.pdst.toNat o (fun a b c =>
      rangeOut o.type o.sat (intOf o.type a * intOf o.type b + intOf o.type c)))

/-- MADW's result (R97): a and b under the 32-bit type, c as 64 bits. -/
def madwOut (t : BitVec 4) (a b c : W64) : AluOut := .plain (BitVec.ofInt 64 (intOf t a * intOf t b) + c)

def execMadw (h : Header) (o : FmtA) (s : State) : Host.Outcome State Fault Refusal :=
  s.issueReg (.madw h o) (fun w g =>
    w.alu g h 6 o.dst true 7
      (fun l => madwOut o.type (w.src1 g o.xmod o.type o.srcA l) (w.src g o.type o.srcB l) (w.src g 2 o.srcC l))
      (madwOut o.type (w.srcS g o.type o.srcA) (w.srcS g o.type o.srcB) (w.srcS g 2 o.srcC)))

def execMinI (h : Header) (o : FmtA) (s : State) : Host.Outcome State Fault Refusal :=
  s.issueReg (.minI h o) (fun w g =>
    w.aluA g h 4 7 o (fun a b _ => intOut o.type (min (intOf o.type a) (intOf o.type b))))

def execMaxI (h : Header) (o : FmtA) (s : State) : Host.Outcome State Fault Refusal :=
  s.issueReg (.maxI h o) (fun w g =>
    w.aluA g h 4 7 o (fun a b _ => intOut o.type (max (intOf o.type a) (intOf o.type b))))

def execAbsI (h : Header) (o : FmtA) (s : State) : Host.Outcome State Fault Refusal :=
  s.issueReg (.absI h o) (fun w g =>
    w.aluA g h 4 o.pdst.toNat o (fun a _ _ => rangeOut o.type o.sat ((intOf o.type a).natAbs : Int)))

def execClamp (h : Header) (o : FmtA) (s : State) : Host.Outcome State Fault Refusal :=
  s.issueReg (.clamp h o) (fun w g =>
    w.aluA g h 4 7 o (fun a b c => intOut o.type (min (max (intOf o.type a) (intOf o.type b)) (intOf o.type c))))

/-! Logic, shifts and bit fields (Table 4.3) -/

def execAndB (h : Header) (o : FmtA) (s : State) : Host.Outcome State Fault Refusal :=
  s.issueReg (.andB h o) (fun w g => w.aluA g h 4 7 o (fun a b _ => bitsOut o.type (a &&& b).toNat))

def execAndi (h : Header) (o : FmtB) (s : State) : Host.Outcome State Fault Refusal :=
  s.issueReg (.andi h o) (fun w g => w.aluB g h 4 7 o (fun a => bitsOut o.type (a &&& immOf o.type o.imm).toNat))

def execOrB (h : Header) (o : FmtA) (s : State) : Host.Outcome State Fault Refusal :=
  s.issueReg (.orB h o) (fun w g => w.aluA g h 4 7 o (fun a b _ => bitsOut o.type (a ||| b).toNat))

def execOri (h : Header) (o : FmtB) (s : State) : Host.Outcome State Fault Refusal :=
  s.issueReg (.ori h o) (fun w g => w.aluB g h 4 7 o (fun a => bitsOut o.type (a ||| immOf o.type o.imm).toNat))

def execXorB (h : Header) (o : FmtA) (s : State) : Host.Outcome State Fault Refusal :=
  s.issueReg (.xorB h o) (fun w g => w.aluA g h 4 7 o (fun a b _ => bitsOut o.type (a ^^^ b).toNat))

def execXori (h : Header) (o : FmtB) (s : State) : Host.Outcome State Fault Refusal :=
  s.issueReg (.xori h o) (fun w g => w.aluB g h 4 7 o (fun a => bitsOut o.type (a ^^^ immOf o.type o.imm).toNat))

def execNotB (h : Header) (o : FmtA) (s : State) : Host.Outcome State Fault Refusal :=
  s.issueReg (.notB h o) (fun w g => w.aluA g h 4 7 o (fun a _ _ => bitsOut o.type (~~~ a).toNat))

def execAndn (h : Header) (o : FmtA) (s : State) : Host.Outcome State Fault Refusal :=
  s.issueReg (.andn h o) (fun w g => w.aluA g h 4 7 o (fun a b _ => bitsOut o.type (a &&& ~~~ b).toNat))

/-- A shift left by `n` (SHL). -/
def shlOut (t : BitVec 4) (a : W64) (n : Nat) : AluOut := bitsOut t (if tyWidth t ≤ n then 0 else lowBits t a * 2 ^ n)

/-- A shift right by `n`, logical for .b and arithmetic for .s (SHR). -/
def shrOut (t : BitVec 4) (a : W64) (n : Nat) : AluOut := intOut t (intOf t a / (2 ^ n : Nat))

/-- A rotation left by `n` of the type's width. -/
def rolOut (t : BitVec 4) (a : W64) (n : Nat) : AluOut :=
  let k := n % tyWidth t
  bitsOut t (lowBits t a * 2 ^ k + lowBits t a / 2 ^ (tyWidth t - k))

/-- The shift amount b⟨7:0⟩. -/
def shiftAmount (b : W64) : Nat := b.toNat % 256

def execShl (h : Header) (o : FmtA) (s : State) : Host.Outcome State Fault Refusal :=
  s.issueReg (.shl h o) (fun w g => w.aluA g h 4 7 o (fun a b _ => shlOut o.type a (shiftAmount b)))

def execShr (h : Header) (o : FmtA) (s : State) : Host.Outcome State Fault Refusal :=
  s.issueReg (.shr h o) (fun w g => w.aluA g h 4 7 o (fun a b _ => shrOut o.type a (shiftAmount b)))

def execShi (h : Header) (o : FmtB) (s : State) : Host.Outcome State Fault Refusal :=
  s.issueReg (.shi h o) (fun w g =>
    w.aluB g h 4 7 o (fun a => if o.subop = 0 then shlOut o.type a o.imm.toNat else shrOut o.type a o.imm.toNat))

def execRol (h : Header) (o : FmtA) (s : State) : Host.Outcome State Fault Refusal :=
  s.issueReg (.rol h o) (fun w g => w.aluA g h 4 7 o (fun a b _ => rolOut o.type a (shiftAmount b)))

def execRor (h : Header) (o : FmtA) (s : State) : Host.Outcome State Fault Refusal :=
  s.issueReg (.ror h o) (fun w g =>
    w.aluA g h 4 7 o (fun a b _ => rolOut o.type a (tyWidth o.type - shiftAmount b % tyWidth o.type)))

/-- Position and length of a bit-field control word, in its bits 7:0 and 15:8 whatever the type (R99; log entry 13). -/
def bfPos (ctl : W64) : Nat := ctl.toNat % 256
def bfLen (t : BitVec 4) (ctl : W64) : Nat := min (tyWidth t) (ctl.toNat / 256 % 256)

/-- BFE (R99). -/
def bfeOut (t : BitVec 4) (a ctl : W64) : AluOut :=
  let n := bfLen t ctl
  let x := bitsAt (lowBits t a) (bfPos ctl) n
  intOut t (if tySigned t && decide (0 < n) && decide (2 ^ (n - 1) ≤ x) then (x : Int) - 2 ^ n else (x : Int))

/-- BFI (R99). -/
def bfiOut (t : BitVec 4) (a b ctl : W64) : AluOut :=
  let n := bfLen t ctl
  let q := bfPos ctl
  let field := (2 ^ n - 1) * 2 ^ q % 2 ^ tyWidth t
  bitsOut t ((lowBits t b &&& (2 ^ tyWidth t - 1 - field)) ||| (lowBits t a % 2 ^ n * 2 ^ q % 2 ^ tyWidth t))

def execBfe (h : Header) (o : FmtA) (s : State) : Host.Outcome State Fault Refusal :=
  s.issueReg (.bfe h o) (fun w g => w.aluA g h 4 7 o (fun a b _ => bfeOut o.type a b))

def execBfi (h : Header) (o : FmtA) (s : State) : Host.Outcome State Fault Refusal :=
  s.issueReg (.bfi h o) (fun w g => w.aluA g h 4 7 o (fun a b c => bfiOut o.type a b c))

/-- The set bits of a value of the type, ascending. -/
def onesOf (t : BitVec 4) (a : W64) : List Nat := (List.range (tyWidth t)).filter (fun i => a.getLsbD i)

def execPopc (h : Header) (o : FmtA) (s : State) : Host.Outcome State Fault Refusal :=
  s.issueReg (.popc h o) (fun w g => w.aluA g h 4 7 o (fun a _ _ => bitsOut o.type (onesOf o.type a).length))

/-- Leading zeros in the type's width. -/
def clzOf (t : BitVec 4) (a : W64) : Nat :=
  match (onesOf t a).getLast? with
  | none => tyWidth t
  | some i => tyWidth t - 1 - i

def execClz (h : Header) (o : FmtA) (s : State) : Host.Outcome State Fault Refusal :=
  s.issueReg (.clz h o) (fun w g => w.aluA g h 4 7 o (fun a _ _ => bitsOut o.type (clzOf o.type a)))

/-- The bits of a value of the type in reverse order. -/
def brevOf (t : BitVec 4) (a : W64) : Nat := (maskOf 64 ((onesOf t a).map (fun i => tyWidth t - 1 - i))).toNat

def execBrev (h : Header) (o : FmtA) (s : State) : Host.Outcome State Fault Refusal :=
  s.issueReg (.brev h o) (fun w g => w.aluA g h 4 7 o (fun a _ _ => bitsOut o.type (brevOf o.type a)))

/-! Moves and immediates -/

/-- One 64-bit half of a buffer record. -/
def halfRec (r : W128) (hi : Bool) : W64 := BitVec.ofNat 64 (bitsAt r.toNat (if hi then 64 else 0) 64)

/-- A buffer record with one half replaced. -/
def setHalfRec (r : W128) (hi : Bool) (v : W64) : W128 :=
  if hi then v ++ halfRec r false else halfRec r true ++ v

/-- MOV (R100). A half-move into a record leaves the other half of each slice's own copy (log entry 102). -/
def execMov (h : Header) (o : FmtA) (s : State) : Host.Outcome State Fault Refusal :=
  s.issueReg (.mov h o) (fun w g =>
    match o.dst, o.srcA with
    | .b i, .s k =>
      if w.gangActs g h then
        w.onGang g (fun _ sl => sl.writeB w.seed 4 i (setHalfRec (Tab.get 0 sl.b i) (o.subop = 1) (w.readS g k)))
      else w
    | .s i, .b k => if w.gangActs g h then w.writeS g 4 i (halfRec (w.readB g k) (o.subop = 1)) else w
    | _, _ => w.aluA g h 4 7 o (fun a _ _ => bitsOut o.type a.toNat))

def execMovi (h : Header) (o : FmtB) (s : State) : Host.Outcome State Fault Refusal :=
  s.issueReg (.movi h o) (fun w g =>
    let v := bitsOut o.type (immOf o.type o.imm).toNat
    w.alu g h 4 o.dst (tyPair o.type) 7 (fun _ => v) v)

/-- MOVIH (R101): each slice's own copy keeps its low half (log entry 102). -/
def execMovih (h : Header) (o : FmtB) (s : State) : Host.Outcome State Fault Refusal :=
  s.issueReg (.movih h o) (fun w g =>
    match o.dst with
    | .s i =>
      if w.gangActs g h then
        w.onGang g (fun _ sl => sl.writeS w.seed 4 i (o.imm ++ BitVec.truncate 32 (Tab.get 0 sl.s i)))
      else w
    | .f i => w.writeF 4 (i + 1) (w.execLanes g h) (fun _ => o.imm)
    | _ => w)

/-! Selects, compares and addresses -/

def execSel (h : Header) (o : FmtA) (s : State) : Host.Outcome State Fault Refusal :=
  s.issueReg (.sel h o) (fun w g =>
    w.aluA g h 4 7 o (fun a b c => bitsOut o.type (if c = 1 then a else b).toNat))

/-- The outcome of SETP in a lane (R103): a compare of scalars and constants alone is made once for the gang. -/
def Warp.setpAt (w : Warp) (g : Mask8) (o : FmtA) (l : Nat) : Bool :=
  let each := Operand.isF o.srcA || Operand.isF o.srcB
  let a := if each then w.src1 g o.xmod o.type o.srcA l else w.srcS g o.type o.srcA
  let b := if each then w.src g o.type o.srcB l else w.srcS g o.type o.srcB
  condInt (o.subop.toNat % 8) (intOf o.type a) (intOf o.type b) && (o.subop.toNat < 8 || w.src g o.type o.srcC l = 1)

/-- The outcome of SETPI in a lane (R103). -/
def Warp.setpiAt (w : Warp) (g : Mask8) (o : FmtB) (l : Nat) : Bool :=
  let a := if Operand.isF o.srcA then w.src g o.type o.srcA l else w.srcS g o.type o.srcA
  condInt (o.subop.toNat % 8) (intOf o.type a) (intOf o.type (immOf o.type o.imm))

def execSetp (h : Header) (o : FmtA) (s : State) : Host.Outcome State Fault Refusal :=
  s.issueReg (.setp h o) (fun w g =>
    w.alu g h 4 o.dst (tyPair o.type) 7 (fun l => { val := 0, flag := w.setpAt g o l }) (.plain 0))

def execSetpi (h : Header) (o : FmtB) (s : State) : Host.Outcome State Fault Refusal :=
  s.issueReg (.setpi h o) (fun w g =>
    w.alu g h 4 o.dst (tyPair o.type) 7 (fun l => { val := 0, flag := w.setpiAt g o l }) (.plain 0))

/-- LEA's result (R104). -/
def leaOut (t : BitVec 4) (sh : Nat) (a b : W64) : AluOut := .plain (a + BitVec.ofInt 64 (intOf t b * (2 ^ sh : Nat)))

def execLea (h : Header) (o : FmtA) (s : State) : Host.Outcome State Fault Refusal :=
  s.issueReg (.lea h o) (fun w g =>
    w.alu g h 4 o.dst true 7
      (fun l => leaOut o.type o.subop.toNat (w.src1 g o.xmod 2 o.srcA l) (w.src g o.type o.srcB l))
      (leaOut o.type o.subop.toNat (w.srcS g 2 o.srcA) (w.srcS g o.type o.srcB)))

/-- SEXT and ZEXT (R105): the value of the type as 64 bits, of which a 32-bit destination takes the low half. -/
def extOut (t : BitVec 4) (a : W64) : AluOut := .plain (BitVec.ofInt 64 (intOf t a))

def execSext (h : Header) (o : FmtA) (s : State) : Host.Outcome State Fault Refusal :=
  s.issueReg (.sext h o) (fun w g =>
    w.alu g h 4 o.dst (tyWidth o.type = 32) 7 (fun l => extOut o.type (w.src1 g o.xmod o.type o.srcA l))
      (extOut o.type (w.srcS g o.type o.srcA)))

def execZext (h : Header) (o : FmtA) (s : State) : Host.Outcome State Fault Refusal :=
  s.issueReg (.zext h o) (fun w g =>
    w.alu g h 4 o.dst (tyWidth o.type = 32) 7 (fun l => extOut o.type (w.src1 g o.xmod o.type o.srcA l))
      (extOut o.type (w.srcS g o.type o.srcA)))

/-! One lane (R106) -/

def execRdlane (h : Header) (o : FmtA) (s : State) : Host.Outcome State Fault Refusal :=
  s.issueReg (.rdlane h o) (fun w g =>
    let q := (w.srcS g 0 o.srcB).toNat % 32
    let v : W64 := if g.getLsbD (q / 4) then BitVec.zeroExtend 64 (w.readF q (Operand.num o.srcA)) else 0
    if w.gangActs g h then w.writeS g 4 (Operand.num o.dst) v else w)

def execWrlane (h : Header) (o : FmtA) (s : State) : Host.Outcome State Fault Refusal :=
  s.issueReg (.wrlane h o) (fun w g =>
    let q := (w.srcS g 0 o.srcB).toNat % 32
    let v := BitVec.truncate 32 (w.srcS g 0 o.srcA)
    w.writeF 4 (Operand.num o.dst) (w.execLanes g h &&& BitVec.ofNat 32 (2 ^ q)) (fun _ => v))

end Sys2Proof.Machine
end

