-- ==== Sys2Proof/Machine/Log.lean ====
section
/-! DEFINITION. The events of the log unit, of the homes and of the ebb engine: forced publication and waiting segments
(R180), fold notices and their acknowledgement (R262, R263, R266), folds (R266), routed records (R177, R380) and in-place
writes from outside the cores (R235, R266, R373). -/

namespace Sys2Proof.Machine

/-- FORCED_PUBLICATION: the log unit may force one at any time it has something to publish (R180). -/
def execForcedPublication (core : Nat) (s : State) : Host.Outcome State Fault Refusal :=
  let k := s.core core
  .next (if k.openLines.isEmpty && decide (k.openSeq ≤ k.goal + 1) then s else s.forcePublish core)

/-- SEGMENT_WRITE_DONE: the oldest segment that waits for room is written once there is room, and published where it has
been asked for (R180). -/
def execSegmentWriteDone (core : Nat) (s : State) : Host.Outcome State Fault Refusal :=
  .next ((s.placeSegment core).sendNotices core)

def execFoldNotice (core home : Nat) (s : State) : Host.Outcome State Fault Refusal := .next (s.foldNotice core home)

def execNoticeAck (core : Nat) (s : State) : Host.Outcome State Fault Refusal := .next (s.tidemark core)

def execEbbFold (home : Nat) (s : State) : Host.Outcome State Fault Refusal := .next (s.ebbFold home)

/-- Some REL.domain or FENCE of the core waits for records up to a segment (R380). -/
def Core.releaseWaits (k : Core) (seq : Nat) : Bool :=
  k.warps.any (fun w => w.2.pend.any (fun p => match p.op with
    | .rel scope (.sealedUpTo q) => decide (4 ≤ scope) && decide (seq ≤ q)
    | .fence scope _ _ (.sealedUpTo q) => decide (4 ≤ scope) && decide (seq ≤ q)
    | .atom _ _ _ scope (.sealedUpTo q) _ _ _ _ _ _ => decide (4 ≤ scope) && decide (seq ≤ q)
    | _ => false))

/-- Records routed to a lost package are discarded once no release waits to be told; a forced publication writes an error
record (R380). -/
def State.discardRouted (s : State) (c : Nat) : State :=
  let k := s.core c
  match k.segs.find? (fun g => g.routed && g.ntick.isSome) with
  | none => s
  | some g =>
    let recs := g.records.filter (fun r => isRemote (r.line * 64))
    let gone := recs.filter (fun r => s.lostAt (r.line * 64))
    match gone with
    | [] => s
    | r :: _ =>
      if k.releaseWaits g.seq then s
      else
        let s := (recs.filter (fun r => !s.lostAt (r.line * 64))).foldl (fun s r => s.applyRecord r) s
        let s := s.modCore c (fun k => k.setSeg { g with routed := false, lost := true })
        let s := if g.forced then s.errorRecord 1 6 c r.line none else s
        s.ebbAdvance c k.segs.length

/-- ROUTED_RECORD_ACK. -/
def execRoutedRecordAck (core : Nat) (s : State) : Host.Outcome State Fault Refusal :=
  .next ((s.routedAck core).discardRouted core)

/-- Asks for the shoot-down of every line: the state, and whether a write to them may be applied now (R313, R373). -/
def State.shootAll (s : State) (lines : List Nat) : State × Bool :=
  lines.foldl (fun (q : State × Bool) l =>
    let r := q.1.shootdown l
    (r.1, q.2 && r.2)) (s, true)

/-- An in-place write by an application core or a PCIe agent (R235, R266): it waits until the shoot-down of its lines is
complete (R373). -/
def State.outsideWrite (s : State) (pa : Nat) (bytes : List Byte) : State :=
  if bytes.isEmpty || !s.paOk pa then s
  else
    let q := s.shootAll (linesOf pa bytes.length)
    if q.2 then { q.1.homeWrite pa bytes with arriving := q.1.arriving.erase (pa, bytes) }
    else if q.1.arriving.contains (pa, bytes) then q.1
    else { q.1 with arriving := q.1.arriving ++ [(pa, bytes)] }

def execAppCoreWrite (pa : Nat) (bytes : List Byte) (s : State) : Host.Outcome State Fault Refusal :=
  .next (s.outsideWrite pa bytes)

end Sys2Proof.Machine
end

