-- ==== Sys2Proof/Machine/Reliability.lean ====
section
/-! DEFINITION. The scrubbers (R350, R351), the wear reports (R352), the stop of the clocks (R353), and the trace unit's own
events (R358, R359). -/

namespace Sys2Proof.Machine

/-! Scrubbing (R350, R351) -/

/-- Lines of the package's HBM. -/
def hbmLines : Nat := 2 ^ 34

/-- The first line of a stack from `n` upward; each aligned block of 256 lines has lines of every stack. -/
def stackSeek (stack : Nat) : Nat → Nat → Nat
  | 0, n => n
  | k + 1, n => if stackOf n = stack then n else stackSeek stack k (n + 1)

/-- What a scrub read finds in a line: what it meets there, or the worst error that stands in it. -/
def State.scrubMeets (s : State) (line : Nat) (found : ScrubFinding) : ScrubFinding :=
  let here := s.upsets.filter (fun u => match u.place with | .home _ l => l = line | _ => false)
  if found = .uncorrectable || here.any (·.fatal) then .uncorrectable
  else if found = .corrected || !here.isEmpty then .corrected
  else .clean

/-- A scrub read of a stack's next line: Fold, then what it finds there (R347, R348, R351). -/
def State.scrubLine (s : State) (stack : Nat) (finding : ScrubFinding) : State :=
  let q := Tab.get Scrubber.reset s.scrub stack
  let line := stackSeek stack 512 q.next
  let found := s.scrubMeets line finding
  let s := s.foldLine line
  let next := stackSeek stack 512 (line + 1)
  let wrapped := decide (hbmLines ≤ next)
  let q : Scrubber := { q with
    next := if wrapped then 0 else next, passes := if wrapped then q.passes + 1 else q.passes
    corrected := match found with | .corrected => q.corrected ++ [s.tick] | _ => q.corrected }
  let s := { s with scrub := Tab.put s.scrub stack q
                    upsets := s.upsets.filter (fun u => match u.place with | .home _ l => l ≠ line | _ => true) }
  match found with
  | .clean => s
  | .corrected => s.errorRecord 0 9 0 line none
  | .uncorrectable =>
    ({ s with poison := if s.poison.contains line then s.poison else s.poison ++ [line] }).errorRecord 1 9 0 line none

def execScrubRead (stack : Nat) (found : ScrubFinding) (s : State) : Host.Outcome State Fault Refusal :=
  .next (if stack < 16 then s.scrubLine stack found else s)

/-- Corrected errors of a stack in the last 60 s (R350). -/
def State.recentErrors (s : State) (stack : Nat) : Nat :=
  ((Tab.get Scrubber.reset s.scrub stack).corrected.filter (fun t => decide (s.tick < t + 60000000000))).length

/-- The scrubber's target rate in lines per second, for the stack's hottest reading in °C (R350). -/
def State.scrubRate (s : State) (stack temp : Nat) : Nat :=
  12428 * 2 ^ min 4 ((temp - 60) / 10) * (1 + min 15 (s.recentErrors stack / 8))

/-! Wear (R352) -/

/-- The word of Table 19.3 that a refresh leaves: ISLAND is the island's number, and WARN says that DAYS is below 90. -/
def wearWord (island : Nat) (word : W64) : W64 :=
  BitVec.ofNat 64 (bitsAt word.toNat 16 48 * 2 ^ 16 + island % 256 * 2 ^ 8 + (decide (bitsAt word.toNat 48 16 < 90)).toNat)

/-- WEAR_REFRESH: event 8 where WARN becomes set. -/
def State.refreshWear (s : State) (island : Nat) (word : W64) : State :=
  let old := Tab.get (Island.reset island) s.islands island
  let new := wearWord island word
  let s := { s with islands := Tab.put s.islands island { old with wear := new } }
  if new.getLsbD 0 && !old.wear.getLsbD 0 then s.event 0 8 0 0 0 0 else s

def execWearRefresh (island : Nat) (word : W64) (s : State) : Host.Outcome State Fault Refusal :=
  .next (if island < 28 then s.refreshWear island word else s)

/-! The stop (R353) -/

/-- STOPTICK: once the tick has reached the value written, every clock domain is gated. -/
def execStoptick (s : State) : Host.Outcome State Fault Refusal :=
  .next (if !s.gated && s.stopTick ≠ 0 && decide (s.stopTick.toNat ≤ s.tick) then { s with gated := true } else s)

/-- CLOCK_RESTART: the device goes on where it was stopped. -/
def execClockRestart (s : State) : Host.Outcome State Fault Refusal :=
  .next (if s.gated then { s with gated := false, stopTick := 0 } else s)

/-! Trace (R358, R359) -/

/-- Some traced warp slot holds a resident warp. -/
def Core.tracesWarp (k : Core) : Bool := k.warps.any (fun w => k.trace.covers w.1)

/-- TRACE_PERIODIC_SYNC: 65,536 ticks after the last SYNC; with no warp in a traced slot the next packet brings it. -/
def State.periodicSync (s : State) (c : Nat) : State :=
  let k := s.core c
  if k.trace.en && k.trace.dropped = 0 && !k.trace.owed && decide (k.trace.syncTick + 65536 ≤ s.tick) then
    if k.tracesWarp then s.putSync c else s.modCore c (fun k => { k with trace := { k.trace with owed := true } })
  else s

def execTracePeriodicSync (core : Nat) (s : State) : Host.Outcome State Fault Refusal := .next (s.periodicSync core)

/-- TRACE_LOSS (R359). -/
def execTraceLoss (core : Nat) (s : State) : Host.Outcome State Fault Refusal :=
  .next (if (s.core core).trace.en then s.traceLossOut core else s)

end Sys2Proof.Machine
end

