-- ==== Sys2Proof/Machine/Package.lean ====
section
/-! DEFINITION. The package in its system: PCIe requests (R378), device registers (R374–R377), Tsusin links (R379, R380),
power and temperature (R368, R369), and the security controller (R381–R384). -/

namespace Sys2Proof.Machine

/-! PCIe (R378) -/

/-- The interface that an ASID is granted to. -/
def State.viOfAsid (s : State) (asid : Nat) : Option Nat :=
  (List.range 64).find? (fun v => decide ((s.vi v).asidbase ≤ asid) && decide (asid < (s.vi v).asidbase + (s.vi v).asidcnt))

/-- The interface and the ASID that a requester is bound to. -/
def State.bound (s : State) (requester : Nat) : Option (Nat × Nat) :=
  (Tab.find requester s.requesters).bind (fun asid => (s.viOfAsid asid).map (fun v => (v, asid)))

/-- The physical address of a bound requester's address. -/
def State.pciePa (s : State) (requester va : Nat) (write : Bool) : Option Nat :=
  match s.bound requester with
  | none => none
  | some (v, asid) =>
    let x := s.vi v
    match s.walk { at_ := x.asidtab, base := x.asidbase, count := x.asidcnt } (BitVec.ofNat 16 asid) va with
    | .error _ => none
    | .ok e => match s.permit e va (!write) write false with
      | .ok pa => some pa
      | .error _ => none

/-- The page of a bound requester's address is written through (R268). -/
def State.pcieNote (s : State) (requester va : Nat) : State :=
  match s.bound requester with
  | none => s
  | some (v, asid) =>
    let x := s.vi v
    s.notePage { at_ := x.asidtab, base := x.asidbase, count := x.asidcnt } (BitVec.ofNat 16 asid) va

/-- The pieces of a request, page by page: physical address, offset in the request, bytes; `none` where a page does not translate.
`fuel` bounds the pages. -/
def State.pciePages (s : State) (requester va : Nat) (write : Bool) (off : Nat) : Nat → Nat → Option (List (Nat × Nat × Nat))
  | 0, _ => some []
  | _, 0 => some []
  | fuel + 1, n =>
    let k := min n (4096 - va % 4096)
    match s.pciePa requester va write with
    | none => none
    | some pa => (State.pciePages s requester (va + k) write (off + k) fuel (n - k)).map (fun r => (pa, off, k) :: r)

/-- PCIE_REQUEST: translated and served, or answered with a completer abort. A read that meets poison delivers it (R348);
transfers between ports are routed only between requesters bound to ASIDs of one interface. -/
def State.pcieServe (s : State) (requester va : Nat) (access : PcieAccess) : State :=
  let answer := fun (s : State) (a : PcieAnswer) => { s with pcie := s.pcie ++ [a] }
  match access with
  | .read n => (match s.pciePages requester va false 0 (n / 4096 + 2) n with
    | none => answer s .abort
    | some ps =>
      let lines := ps.flatMap (fun p => linesOf p.1 p.2.2)
      let s := lines.foldl (fun s l => s.readHome l) s
      if lines.any (fun l => s.isPoisoned l) then answer s .poison
      else answer s (.data (ps.flatMap (fun p => s.homeBytes p.1 p.2.2))))
  | .write bs => (match s.pciePages requester va true 0 (bs.length / 4096 + 2) bs.length with
    | none => answer s .abort
    | some ps => answer (ps.foldl (fun s p => (s.pcieNote requester (va + p.2.1)).outsideWrite p.1 ((bs.drop p.2.1).take p.2.2)) s) .written)
  | .peer target => (match s.bound requester, s.bound target with
    | some a, some b => answer s (if a.1 = b.1 then .routed else .abort)
    | _, _ => answer s .abort)

def execPcieRequest (requester va : Nat) (access : PcieAccess) (s : State) : Host.Outcome State Fault Refusal :=
  .next (s.pcieServe requester (va % 2 ^ 57) access)

/-! Interface registers (Table 21.6) -/

/-- OVF_CLEAR (R374). -/
def execOvfClear (vi : Nat) (s : State) : Host.Outcome State Fault Refusal :=
  .next (if vi < 64 then s.modVi vi (fun v => { v with ovf := false }) else s)

/-- An 8-byte write to an interface's configuration block (R375). -/
def VI.configure (v : VI) (offset : Nat) (value : W64) : VI :=
  match offset with
  | 0x00 => { v with dies := BitVec.truncate 8 value }
  | 0x08 => { v with regtab := BitVec.field value 51 0 }
  | 0x10 => { v with regcnt := BitVec.field value 15 0 }
  | 0x18 => { v with asidbase := BitVec.field value 15 0, asidcnt := BitVec.field value 31 16 }
  | 0x20 => { v with asidtab := BitVec.field value 51 0 }
  | _ => v

def execConfigBlockWrite (vi offset : Nat) (value : W64) (s : State) : Host.Outcome State Fault Refusal :=
  .next (if vi < 64 then s.modVi vi (fun v => v.configure offset value) else s)

/-- A register of an interface's page, or of its configuration block, as it reads (Table 21.6, R375). -/
def VI.register (v : VI) (offset : Nat) : W64 :=
  match offset with
  | 0x000 => BitVec.ofNat 64 (2 * 256 + v.dies.toNat)
  | 0x008 => BitVec.ofNat 64 v.regtab
  | 0x010 => BitVec.ofNat 64 v.regcnt
  | 0x018 => BitVec.ofNat 64 (v.asidcnt * 65536 + v.asidbase)
  | 0x020 => BitVec.ofNat 64 v.asidtab
  | 0x028 => v.msiaddr
  | 0x030 => BitVec.zeroExtend 64 v.msidata
  | 0x038 => BitVec.ofNat 64 v.evbase
  | 0x040 => BitVec.ofNat 64 (v.ovf.toNat * 2 ^ 63 + v.evtail.toNat * 2 ^ 32 + v.evhead.toNat * 2 ^ 16 + v.evsize.toNat)
  | 0x050 => BitVec.ofNat 64 (v.subseq.toNat * 256 + v.substat.toNat)
  | 0x058 => v.ctl
  | _ => 0

/-- A write to a register of an interface's page that only stores; the registers marked RW-0 and the read-only ones keep
their values (R375). -/
def VI.store (v : VI) (offset : Nat) (value : W64) : VI :=
  match offset with
  | 0x028 => { v with msiaddr := BitVec.ofNat 64 (BitVec.field value 51 0) }
  | 0x030 => { v with msidata := BitVec.truncate 32 value }
  | 0x038 => { v with evbase := BitVec.field value 51 0 }
  | 0x040 =>
    { v with ovf := v.ovf && !value.getLsbD 63, evhead := BitVec.ofNat 16 (BitVec.field value 31 16)
             evsize := BitVec.ofNat 16 (BitVec.field value 15 0) }
  | 0x058 => { v with ctl := value &&& 1 }
  | _ => v

/-! The debug block of a core (R376) -/

/-- TCTL as it reads (Table 19.6). -/
def Trace.ctl (t : Trace) : W64 := t.reserved ||| BitVec.ofNat 64 (t.en.toNat * 2 ^ 11 + t.count % 16 * 2 ^ 7 + t.first % 128)

/-- A write to a trace register; a SYNC is owed once EN becomes set (R358). -/
def Trace.store (t : Trace) (i : Nat) (value : W64) : Trace :=
  match i with
  | 0 =>
    { t with en := value.getLsbD 11, count := BitVec.field value 10 7, first := BitVec.field value 6 0
             reserved := 0, owed := t.owed || (value.getLsbD 11 && !t.en) }
  | 1 => { t with base := value }
  | 2 => { t with size := value }
  | 4 => { t with read := value }
  | _ => t

/-- A slice's program counter in the window of a halted warp, bits 127:71 of its 16 bytes (Table 16.3). -/
def State.storePc (s : State) (c slot j : Nat) (value : W64) : State :=
  let w := s.warp c slot
  if w.report.isNone then s
  else s.setWarp c slot (w.setSlice j { w.slice j with pc := BitVec.ofNat 57 (BitVec.field value 63 7) })

/-- A write to the window of a warp slot (R316, R317, R377): the command word, DACC, DDATA or a slice's PC. -/
def State.storeWindow (s : State) (c slot off : Nat) (value : W64) : State :=
  if off = 192 then
    (match value.toNat with
      | 1 => s.resumeWarp c slot false
      | 2 => s.resumeWarp c slot true
      | 3 => s.debugKill c slot
      | _ => s)
  else if off = 200 then
    let j := BitVec.field value 57 55
    let l := BitVec.field value 54 50
    let n := BitVec.field value 15 0
    if !value.getLsbD 63 then s.setDacc c slot (value &&& 0x6FFC00000000FFFF) none
    else if value.getLsbD 62 then s.daccPut c slot j l n
    else s.daccGet c slot j l n
  else if off = 208 then s.modCore c (fun k => { k with ddata := Tab.set 0 k.ddata slot value })
  else if decide (64 ≤ off) && decide (off < 192) && off % 16 = 8 then s.storePc c slot ((off - 64) / 16) value
  else s

/-- A write to a core's debug block through an interface: a slot's window through that of the workgroup which occupies it, the
rest through interface 0 alone (R376). -/
def State.storeDebug (s : State) (vi c off : Nat) (value : W64) : State :=
  if 512 ≤ c then s
  else if off < 0x8000 then (if s.windowOpen vi c (off / 256) then s.storeWindow c (off / 256) (off % 256) value else s)
  else if vi ≠ 0 then s
  else if off < 0x8030 then s.modCore c (fun k => { k with trace := k.trace.store ((off - 0x8000) / 8) value })
  else if 0x8100 ≤ off && off < 0x8140 then
    let i := (off - 0x8100) / 16
    s.modCore c (fun k =>
      let e : WatchEntry := Tab.get { va := 0, ctl := 0 } k.watch i
      { k with watch := Tab.put k.watch i (if off % 16 = 0 then { e with va := value } else { e with ctl := value }) })
  else if off = 0x8200 then s.freeze c (value.getLsbD 0)
  else s

/-- A trace register as it reads (Table 19.6). -/
def Trace.word (t : Trace) (i : Nat) : W64 :=
  match i with
  | 0 => t.ctl
  | 1 => t.base
  | 2 => t.size
  | 3 => t.write
  | 4 => t.read
  | 5 => t.sync
  | _ => 0

/-- The 8 bytes at an offset in the window of a warp slot (R316, R377); with no halt to describe the report and the slices' state
read zero (log entry 123). -/
def State.windowWord (s : State) (c slot off : Nat) : W64 :=
  if off = 200 then Tab.get 0 (s.core c).dacc slot
  else if off = 208 then Tab.get 0 (s.core c).ddata slot
  else match (s.warp c slot).report with
    | none => 0
    | some r =>
      if off < 64 then BitVec.ofNat 64 (bitsAt r.word (8 * off) 64)
      else if off < 192 then BitVec.ofNat 64 (bitsAt (s.sliceWord c slot ((off - 64) / 16)) (8 * (off % 16)) 64)
      else 0

/-- The 8 bytes at an offset in a core's debug block as an interface reads them: a slot's window only for the interface whose
workgroup occupies it, the rest only for interface 0; any other reads zeros (R376). -/
def State.debugWord (s : State) (vi c off : Nat) : W64 :=
  let k := s.core c
  let off := off / 8 * 8
  if 512 ≤ c then 0
  else if off < 0x8000 then (if s.windowOpen vi c (off / 256) then s.windowWord c (off / 256) (off % 256) else 0)
  else if vi ≠ 0 then 0
  else if off < 0x8030 then k.trace.word ((off - 0x8000) / 8)
  else if 0x8100 ≤ off && off < 0x8140 then
    let e : WatchEntry := Tab.get { va := 0, ctl := 0 } k.watch ((off - 0x8100) / 16)
    if off % 16 = 0 then e.va else e.ctl
  else if off = 0x8200 then BitVec.ofNat 64 k.frozen.toNat
  else 0

/-- What a read of a device register returns; it changes nothing (R375, R376). -/
def State.readRegister (s : State) (t : RegTarget) : W64 :=
  match t with
  | .vi v off => if v < 64 then (s.vi v).register off else 0
  | .debug vi c off => s.debugWord vi c off
  | .stopTick => s.stopTick
  | .requester vi id => if vi = 0 then BitVec.ofNat 64 ((Tab.find id s.requesters).getD 0) else 0

/-- REGISTER_WRITE: an application core writes a device register. Registers with a behaviour of their own do what their
own event does. -/
def State.storeRegister (s : State) (t : RegTarget) (value : W64) : State :=
  match t with
  | .vi v off =>
    if 64 ≤ v then s
    else if off = 0x048 then (if s.security.started then s.doSubmit v (value.toNat % 2 ^ 57) else s)
    else if off = 0x060 then
      (if BitVec.field value 63 12 = 0 then s.modVi v (fun x => { x with holds := x.holds.filter (fun f => f ≠ value.toNat) }) else s)
    else s.modVi v (fun x => x.store off value)
  | .debug vi c off => s.storeDebug vi c off value
  | .stopTick => { s with stopTick := value }
  | .requester vi id => if vi = 0 then { s with requesters := Tab.put s.requesters id (value.toNat % 65536) } else s

def execRegisterWrite (target : RegTarget) (value : W64) (s : State) : Host.Outcome State Fault Refusal :=
  .next (s.storeRegister target value)

/-! Tsusin links (R379, R380) -/

def State.port (s : State) (p : Nat) : Port := Tab.get Port.reset s.ports p
def State.setPort (s : State) (p : Nat) (x : Port) : State := { s with ports := Tab.put s.ports p x }

/-- DOMAIN_WORD_WRITE: only while every port is down; every bit but p and VALID is zero. -/
def execDomainWordWrite (value : W64) (s : State) : Host.Outcome State Fault Refusal :=
  .next (if s.ports.any (fun e => e.2.up) then s else { s with domainWord := value &&& 0x800000000000003F })

/-- LINK_TRAINING: a port stays down until VALID is set, and where the peer has this package's own number. -/
def State.trainLink (s : State) (port peer : Nat) : State :=
  if !s.domainWord.getLsbD 63 then s
  else if peer % 64 = s.package then s.setPort port { s.port port with up := false, peer := peer % 64, clash := true }
  else s.setPort port { s.port port with up := true, peer := peer % 64, clash := false, expect := 0, lastAck := s.tick }

def execLinkTraining (port peer : Nat) (s : State) : Host.Outcome State Fault Refusal :=
  .next (if port < 24 then s.trainLink port peer else s)

/-- What a flit brings to this package's homes: a routed record enters its home's fold queue, with the die caches' copies dropped,
and is thereby acknowledged (R259, R266, R380); an atomic waits at its home (R267). Folds of another package's records are
numbered from 1024 + package. -/
def State.takeBody (s : State) (port source : Nat) (b : FlitBody) : State :=
  match b with
  | .other => s
  | .record line mask data =>
    if bitsAt (line * 64) 50 2 ≠ 0 then s
    else
      let r : Record := { line := line, mask := mask, data := data, slot := 0, void := false, order := s.arrivals + 1, owner := (0, 0) }
      { s with arrivals := s.arrivals + 1, foldq := s.foldq ++ [({ home := homeOf (line * 64), core := 1024 + source, seq := 0, record := r } : FoldRec)] }.dropCopies line
  | .atomic _ _ _ _ _ _ => { s with inbound := s.inbound ++ [({ port := port, source := source, body := b } : Inbound)] }

/-- FLIT_RECEIVE: a flit whose CRC fails, or out of its turn, is asked for again. -/
def State.takeFlit (s : State) (port seq : Nat) (crcOk : Bool) (b : FlitBody) : State :=
  let p := s.port port
  if !p.up then s
  else if crcOk && seq = p.expect then (s.setPort port { p with expect := p.expect + 1, lastAck := s.tick }).takeBody port p.peer b
  else s.setPort port { p with retries := p.retries + 1 }

def execFlitReceive (port : Nat) (seq : Flit) (crcOk : Bool) (s : State) : Host.Outcome State Fault Refusal :=
  .next (s.takeFlit port seq.seq crcOk seq.body)

/-- PEER_LOST: no port towards the package has heard from it for 200 µs. -/
def State.losePeer (s : State) (peer : Nat) : State :=
  let mine := s.ports.filter (fun e => e.2.up && e.2.peer = peer)
  if mine.isEmpty || s.lost.contains peer || mine.any (fun e => decide (s.tick < e.2.lastAck + 200000)) then s
  else
    let s := { s with lost := s.lost ++ [peer]
                      ports := s.ports.map (fun (e : Nat × Port) => (e.1, if e.2.peer = peer then { e.2 with up := false } else e.2)) }
    s.event 0 7 0 0 0 0

def execPeerLost (peer : Nat) (s : State) : Host.Outcome State Fault Refusal := .next (s.losePeer peer)

/-! Power and temperature (R368, R369) -/

def State.island (s : State) (i : Nat) : Island := Tab.get (Island.reset i) s.islands i

/-- Islands of a kind: 0 matrix, 1 core, 2 fabric (Table 21.2). -/
def islandsOf (kind : Nat) : List Nat :=
  match kind with
  | 0 => (List.range 8).map (fun d => 3 * d + 1)
  | 1 => (List.range 8).map (fun d => 3 * d)
  | _ => (List.range 8).map (fun d => 3 * d + 2) ++ [25, 27]

/-- The clock steps by which a kind of islands is lowered. -/
def State.kindSteps (s : State) (kind : Nat) : Nat := (s.island ((islandsOf kind).headD 0)).steps

/-- The islands of a kind are set to a number of 100 MHz steps below their clock. -/
def State.setSteps (s : State) (kind n : Nat) : State :=
  (islandsOf kind).foldl (fun s i => { s with islands := Tab.put s.islands i { s.island i with steps := n } }) s

/-- POWER_WINDOW: over the limit the next kind goes down a step, matrix, then core, then fabric; under it the last one
lowered comes up a step. -/
def State.powerStep (s : State) (draw : Nat) : State :=
  let s := { s with draw := draw }
  let m := s.kindSteps 0
  let c := s.kindSteps 1
  let f := s.kindSteps 2
  if s.limit < draw then
    if m = f then s.setSteps 0 (m + 1) else if c = f then s.setSteps 1 (c + 1) else s.setSteps 2 (f + 1)
  else if m = 0 then s
  else if f = m then s.setSteps 2 (f - 1) else if c = m then s.setSteps 1 (c - 1) else s.setSteps 0 (m - 1)

def execPowerWindow (draw : Nat) (s : State) : Host.Outcome State Fault Refusal := .next (s.powerStep draw)

/-- THERMAL_STEP: an island at 95 °C or above steps its own clock down. -/
def execThermalStep (island celsius : Nat) (s : State) : Host.Outcome State Fault Refusal :=
  .next (if decide (95 ≤ celsius) && decide (island < 28) then
      { s with islands := Tab.put s.islands island { s.island island with hot := (s.island island).hot + 1 } }
    else s)

/-- The package without power: everything is lost but the fuses; what is still to come from outside stays. -/
def State.unpowered (s : State) (p : Power) : State :=
  { State.reset with power := p, agenda := s.agenda, draws := s.draws, upsets := s.upsets, slips := s.slips
                     security := { Security.reset with fuse := s.security.fuse } }

/-- THERMAL_SHUTDOWN at 110 °C. -/
def execThermalShutdown (island celsius : Nat) (s : State) : Host.Outcome State Fault Refusal :=
  .next (if 110 ≤ celsius then s.unpowered (.shutdown island) else s)

/-- STANDBY: the board's management controller removes power. -/
def execStandby (s : State) : Host.Outcome State Fault Refusal := .next (s.unpowered .standby)

/-! The security controller (R381–R384) -/

/-- Bytes of a number, highest first. -/
def bytesBig (n x : Nat) : List Byte := (toBytes n x).reverse

end Sys2Proof.Machine

namespace Sys2Proof

open Sys2Proof.Machine

/-- Bytes 0 to 1,023 of an image (Table 21.8). -/
def Image.head (i : Image) : List Byte :=
  toBytes 4 i.magic.toNat ++ [i.kind, i.svn] ++ toBytes 2 i.reserved6.toNat ++ toBytes 8 i.length.toNat ++ i.digest
    ++ i.rsaModulus ++ toBytes 4 i.rsaExponent.toNat ++ i.slhKey ++ i.reserved500

/-- The six checks of R382, against a fuse count. -/
def Image.passes (i : Image) (fuse : Nat) : Bool :=
  i.magic = 0x3146474E && decide (1 ≤ i.kind.toNat) && decide (i.kind.toNat ≤ 4) && i.reserved6 = 0
  && i.reserved500 = List.replicate 524 0 && i.digest.length = 48 && i.rsaModulus.length = 384 && i.slhKey.length = 48
  && Config.sha384 (i.payload.take i.length.toNat) = i.digest
  && Config.sha384 (i.rsaModulus ++ toBytes 4 i.rsaExponent.toNat) = Config.rsaRoot
  && Config.sha384 i.slhKey = Config.slhRoot
  && Config.rsaVerify i.rsaModulus i.rsaExponent i.head i.rsaSignature
  && Config.slhVerify i.slhKey i.head i.slhSignature
  && decide (i.svn.toNat ≤ 128) && decide (fuse ≤ i.svn.toNat)

/-- The copy of a boot image that is loaded: the main one, or its alternate. -/
def BootImage.chosen (b : BootImage) (fuse : Nat) : Option Image :=
  if b.main.passes fuse then some b.main else if b.alternate.passes fuse then some b.alternate else none

end Sys2Proof

namespace Sys2Proof.Machine

/-- POWER_ON_BOOT: where some boot image fails in both copies, the management cores stay in reset and no compute die
starts; the cause of a removal of power is reported. `board` is the power limit that the board of an FJ9-P declares (R369). -/
def State.boot (s : State) (images : List BootImage) (board : Option Nat) : State :=
  let fuse := s.security.fuse
  let ok := !images.isEmpty && images.all (fun b => (b.chosen fuse).isSome)
  let cause := match s.power with | .shutdown i => some i | _ => none
  { s with power := .running, limit := board.getD 3200
           security := { s.security with loaded := images.filterMap (fun b => b.chosen fuse), management := ok, started := ok
                                         lastCause := cause } }

def execPowerOnBoot (images : BootLoad) (s : State) : Host.Outcome State Fault Refusal :=
  .next (if s.security.started then s else s.boot images.images images.board)

/-- IMAGE_LOAD (R382): an image that passes is loaded; a service image makes its service ASID executable once it passes, and not
before (log entry 117). -/
def State.loadImage (s : State) (i : Image) (asid : BitVec 16) : State :=
  let q := s.security
  let service := i.kind = 4
  if i.passes q.fuse then
    { s with security := { q with
      loaded := q.loaded ++ [i], services := if service then (q.services ++ [asid]).dedup else q.services
      barred := if service then q.barred.filter (· ≠ asid) else q.barred } }
  else if service then s.barService asid
  else s

def execImageLoad (image : AsidImage) (s : State) : Host.Outcome State Fault Refusal := .next (s.loadImage image.image image.asid)

/-- FUSE_COMMIT (R383): from interface 0, naming a loaded image; `upTo` is the count at which a loss of power cuts it
short. -/
def State.commitFuses (s : State) (vi index upTo : Nat) : State :=
  match s.security.loaded[index]? with
  | none => s
  | some i =>
    if vi ≠ 0 then s
    else { s with security := { s.security with fuse := max s.security.fuse (min i.svn.toNat upTo) } }

def execFuseCommit (vi index : Nat) (upTo : Nat) (s : State) : Host.Outcome State Fault Refusal := .next (s.commitFuses vi index upTo)

/-- An interface's configuration block of 64 bytes (R375). -/
def VI.configBlock (v : VI) : List Byte :=
  toBytes 8 v.dies.toNat ++ toBytes 8 v.regtab ++ toBytes 8 v.regcnt ++ toBytes 8 (v.asidcnt * 65536 + v.asidbase)
    ++ toBytes 8 v.asidtab ++ toBytes 24 0

/-- ATTESTATION_REPORT (R384), for a nonce of 48 bytes. -/
def State.attest (s : State) (nonce : List Byte) : State :=
  let images := s.security.loaded.map (fun i => (i.kind, i.svn, i.digest))
  let configs := (List.range 64).map (fun v => Config.sha384 (s.vi v).configBlock)
  let body := nonce ++ Config.serial ++ toBytes 4 s.security.fuse
    ++ images.flatMap (fun i => i.1 :: i.2.1 :: i.2.2) ++ configs.flatMap id ++ toBytes 8 s.security.refused
  let r : Attestation :=
    { nonce := nonce, serial := Config.serial, fuse := s.security.fuse, images := images, configs := configs
      refused := s.security.refused, rsa := Config.rsaSign body, slh := Config.slhSign body }
  { s with security := { s.security with reports := s.security.reports ++ [r] } }

def execAttestationReport (nonce : List Byte) (s : State) : Host.Outcome State Fault Refusal :=
  .next (if nonce.length = 48 then s.attest nonce else s)

/-- The filter admits device registers and the firmware's own region (R381). -/
def filterAdmits (pa : Nat) : Bool :=
  bitsAt pa 50 2 = 3
  || (decide (Config.firmwareRegion.1 ≤ pa) && decide (pa < Config.firmwareRegion.1 + Config.firmwareRegion.2))

/-- FILTER_REFUSAL (R381): a management-core access outside the admitted space has no effect and is counted. -/
def execFilterRefusal (pa : Nat) (s : State) : Host.Outcome State Fault Refusal :=
  .next (if filterAdmits pa then s
    else { s with security := { s.security with refused := s.security.refused + 1 } })

end Sys2Proof.Machine
end

