-- ==== Sys2Proof/Machine/Dispatch.lean ====
section
/-! DEFINITION. The one dispatch of the machine: each instruction and each event to its meaning. -/

namespace Sys2Proof.Machine

/-- Performs one instruction for the gang that `cur` names, or one event. -/
def exec (i : Instr) (s : State) : Host.Outcome State Fault Refusal :=
  match i with
  | .nop h o => Sys2Proof.Machine.execNop h o s
  | .mov h o => Sys2Proof.Machine.execMov h o s
  | .movi h o => Sys2Proof.Machine.execMovi h o s
  | .movih h o => Sys2Proof.Machine.execMovih h o s
  | .add h o => Sys2Proof.Machine.execAdd h o s
  | .addi h o => Sys2Proof.Machine.execAddi h o s
  | .sub h o => Sys2Proof.Machine.execSub h o s
  | .neg h o => Sys2Proof.Machine.execNeg h o s
  | .mul h o => Sys2Proof.Machine.execMul h o s
  | .muli h o => Sys2Proof.Machine.execMuli h o s
  | .mulhi h o => Sys2Proof.Machine.execMulhi h o s
  | .mad h o => Sys2Proof.Machine.execMad h o s
  | .madw h o => Sys2Proof.Machine.execMadw h o s
  | .minI h o => Sys2Proof.Machine.execMinI h o s
  | .maxI h o => Sys2Proof.Machine.execMaxI h o s
  | .absI h o => Sys2Proof.Machine.execAbsI h o s
  | .clamp h o => Sys2Proof.Machine.execClamp h o s
  | .andB h o => Sys2Proof.Machine.execAndB h o s
  | .andi h o => Sys2Proof.Machine.execAndi h o s
  | .orB h o => Sys2Proof.Machine.execOrB h o s
  | .ori h o => Sys2Proof.Machine.execOri h o s
  | .xorB h o => Sys2Proof.Machine.execXorB h o s
  | .xori h o => Sys2Proof.Machine.execXori h o s
  | .notB h o => Sys2Proof.Machine.execNotB h o s
  | .andn h o => Sys2Proof.Machine.execAndn h o s
  | .shl h o => Sys2Proof.Machine.execShl h o s
  | .shr h o => Sys2Proof.Machine.execShr h o s
  | .shi h o => Sys2Proof.Machine.execShi h o s
  | .rol h o => Sys2Proof.Machine.execRol h o s
  | .ror h o => Sys2Proof.Machine.execRor h o s
  | .bfe h o => Sys2Proof.Machine.execBfe h o s
  | .bfi h o => Sys2Proof.Machine.execBfi h o s
  | .popc h o => Sys2Proof.Machine.execPopc h o s
  | .clz h o => Sys2Proof.Machine.execClz h o s
  | .brev h o => Sys2Proof.Machine.execBrev h o s
  | .sel h o => Sys2Proof.Machine.execSel h o s
  | .setp h o => Sys2Proof.Machine.execSetp h o s
  | .setpi h o => Sys2Proof.Machine.execSetpi h o s
  | .lea h o => Sys2Proof.Machine.execLea h o s
  | .rdlane h o => Sys2Proof.Machine.execRdlane h o s
  | .wrlane h o => Sys2Proof.Machine.execWrlane h o s
  | .sext h o => Sys2Proof.Machine.execSext h o s
  | .zext h o => Sys2Proof.Machine.execZext h o s
  | .plop h o => Sys2Proof.Machine.execPlop h o s
  | .pmov h o => Sys2Proof.Machine.execPmov h o s
  | .mlop h o => Sys2Proof.Machine.execMlop h o s
  | .mmov h o => Sys2Proof.Machine.execMmov h o s
  | .ballot h o => Sys2Proof.Machine.execBallot h o s
  | .anyP h o => Sys2Proof.Machine.execAnyP h o s
  | .allP h o => Sys2Proof.Machine.execAllP h o s
  | .mfirst h o => Sys2Proof.Machine.execMfirst h o s
  | .mcount h o => Sys2Proof.Machine.execMcount h o s
  | .mtop h o => Sys2Proof.Machine.execMtop h o s
  | .mseti h o => Sys2Proof.Machine.execMseti h o s
  | .pseti h o => Sys2Proof.Machine.execPseti h o s
  | .br h o => Sys2Proof.Machine.execBr h o s
  | .brx h o => Sys2Proof.Machine.execBrx h o s
  | .call h o => Sys2Proof.Machine.execCall h o s
  | .calli h o => Sys2Proof.Machine.execCalli h o s
  | .tcall h o => Sys2Proof.Machine.execTcall h o s
  | .tcallIndirect h o => Sys2Proof.Machine.execTcallIndirect h o s
  | .ret h o => Sys2Proof.Machine.execRet h o s
  | .frame h o => Sys2Proof.Machine.execFrame h o s
  | .regang h o => Sys2Proof.Machine.execRegang h o s
  | .regangPoint core slot => Sys2Proof.Machine.execRegangPoint core slot s
  | .gate h o => Sys2Proof.Machine.execGate h o s
  | .gret h o => Sys2Proof.Machine.execGret h o s
  | .yield h o => Sys2Proof.Machine.execYield h o s
  | .exit h o => Sys2Proof.Machine.execExit h o s
  | .trap h o => Sys2Proof.Machine.execTrap h o s
  | .bkpt h o => Sys2Proof.Machine.execBkpt h o s
  | .waitk h o => Sys2Proof.Machine.execWaitk h o s
  | .supret h o => Sys2Proof.Machine.execSupret h o s
  | .fadd h o => Sys2Proof.Machine.execFadd h o s
  | .fsub h o => Sys2Proof.Machine.execFsub h o s
  | .fmul h o => Sys2Proof.Machine.execFmul h o s
  | .ffma h o => Sys2Proof.Machine.execFfma h o s
  | .fmin h o => Sys2Proof.Machine.execFmin h o s
  | .fmax h o => Sys2Proof.Machine.execFmax h o s
  | .fabs h o => Sys2Proof.Machine.execFabs h o s
  | .fneg h o => Sys2Proof.Machine.execFneg h o s
  | .fsetp h o => Sys2Proof.Machine.execFsetp h o s
  | .fclass h o => Sys2Proof.Machine.execFclass h o s
  | .frcp h o => Sys2Proof.Machine.execFrcp h o s
  | .fsqrt h o => Sys2Proof.Machine.execFsqrt h o s
  | .frsq h o => Sys2Proof.Machine.execFrsq h o s
  | .fexp2 h o => Sys2Proof.Machine.execFexp2 h o s
  | .flog2 h o => Sys2Proof.Machine.execFlog2 h o s
  | .faddi h o => Sys2Proof.Machine.execFaddi h o s
  | .fmuli h o => Sys2Proof.Machine.execFmuli h o s
  | .fdot2 h o => Sys2Proof.Machine.execFdot2 h o s
  | .frnd h o => Sys2Proof.Machine.execFrnd h o s
  | .dadd h o => Sys2Proof.Machine.execDadd h o s
  | .dsub h o => Sys2Proof.Machine.execDsub h o s
  | .dmul h o => Sys2Proof.Machine.execDmul h o s
  | .dfma h o => Sys2Proof.Machine.execDfma h o s
  | .dmin h o => Sys2Proof.Machine.execDmin h o s
  | .dmax h o => Sys2Proof.Machine.execDmax h o s
  | .dsetp h o => Sys2Proof.Machine.execDsetp h o s
  | .dsqrt h o => Sys2Proof.Machine.execDsqrt h o s
  | .cvt h o => Sys2Proof.Machine.execCvt h o s
  | .pcvt h o => Sys2Proof.Machine.execPcvt h o s
  | .qblk h o => Sys2Proof.Machine.execQblk h o s
  | .xshf h o => Sys2Proof.Machine.execXshf h o s
  | .xbcast h o => Sys2Proof.Machine.execXbcast h o s
  | .xred h o => Sys2Proof.Machine.execXred h o s
  | .xscan h o => Sys2Proof.Machine.execXscan h o s
  | .ld h o => Sys2Proof.Machine.execLd h o s
  | .ldH h o => Sys2Proof.Machine.execLdH h o s
  | .st h o => Sys2Proof.Machine.execSt h o s
  | .lds h o => Sys2Proof.Machine.execLds h o s
  | .sts h o => Sys2Proof.Machine.execSts h o s
  | .ldl h o => Sys2Proof.Machine.execLdl h o s
  | .atom h o => Sys2Proof.Machine.execAtom h o s
  | .atoms h o => Sys2Proof.Machine.execAtoms h o s
  | .acq h o => Sys2Proof.Machine.execAcq h o s
  | .rel h o => Sys2Proof.Machine.execRel h o s
  | .fence h o => Sys2Proof.Machine.execFence h o s
  | .seal h o => Sys2Proof.Machine.execSeal h o s
  | .xkick h o => Sys2Proof.Machine.execXkick h o s
  | .lbinit h o => Sys2Proof.Machine.execLbinit h o s
  | .lbarrive h o => Sys2Proof.Machine.execLbarrive h o s
  | .lbwait h o => Sys2Proof.Machine.execLbwait h o s
  | .landingRelease core slot low => Sys2Proof.Machine.execLandingRelease core slot low s
  | .ringget h o => Sys2Proof.Machine.execRingget h o s
  | .ringgetFree h o => Sys2Proof.Machine.execRinggetFree h o s
  | .ringSlotTaken core slot low => Sys2Proof.Machine.execRingSlotTaken core slot low s
  | .ringput h o => Sys2Proof.Machine.execRingput h o s
  | .ringputFill h o => Sys2Proof.Machine.execRingputFill h o s
  | .barr h o => Sys2Proof.Machine.execBarr h o s
  | .barrierRelease core group k => Sys2Proof.Machine.execBarrierRelease core group k s
  | .launch h o => Sys2Proof.Machine.execLaunch h o s
  | .rdctr h o => Sys2Proof.Machine.execRdctr h o s
  | .rdtick h o => Sys2Proof.Machine.execRdtick h o s
  | .mfs h o => Sys2Proof.Machine.execMfs h o s
  | .mts h o => Sys2Proof.Machine.execMts h o s
  | .mshape h o => Sys2Proof.Machine.execMshape h o s
  | .mteam h o => Sys2Proof.Machine.execMteam h o s
  | .mteamRd h o => Sys2Proof.Machine.execMteamRd h o s
  | .mstride h o => Sys2Proof.Machine.execMstride h o s
  | .mfence h o => Sys2Proof.Machine.execMfence h o s
  | .bfly h o => Sys2Proof.Machine.execBfly h o s
  | .bchain h o => Sys2Proof.Machine.execBchain h o s
  | .latchOpen core slot => Sys2Proof.Machine.execLatchOpen core slot s
  | .mscale h o => Sys2Proof.Machine.execMscale h o s
  | .mscaleOut h o => Sys2Proof.Machine.execMscaleOut h o s
  | .mwait h o => Sys2Proof.Machine.execMwait h o s
  | .mload h o => Sys2Proof.Machine.execMload h o s
  | .mstore h o => Sys2Proof.Machine.execMstore h o s
  | .mzero h o => Sys2Proof.Machine.execMzero h o s
  | .stageChunk core pairs => Sys2Proof.Machine.execStageChunk core pairs s
  | .stageComplete core => Sys2Proof.Machine.execStageComplete core s
  | .resultComplete core slot id => Sys2Proof.Machine.execResultComplete core slot id s
  | .copyChunkStart core req => Sys2Proof.Machine.execCopyChunkStart core req s
  | .copyChunkLand core chunk => Sys2Proof.Machine.execCopyChunkLand core chunk s
  | .spillLanded core slot slice => Sys2Proof.Machine.execSpillLanded core slot slice s
  | .undertowRefill core slot slice => Sys2Proof.Machine.execUndertowRefill core slot slice s
  | .pendingFaultDelivery core slot low => Sys2Proof.Machine.execPendingFaultDelivery core slot low s
  | .issueCycle core pipe => Sys2Proof.Machine.execIssueCycle core pipe s
  | .pendingStarvation core pipe => Sys2Proof.Machine.execPendingStarvation core pipe s
  | .fetchLineFill core slot low => Sys2Proof.Machine.execFetchLineFill core slot low s
  | .forcedPublication core => Sys2Proof.Machine.execForcedPublication core s
  | .segmentWriteDone core => Sys2Proof.Machine.execSegmentWriteDone core s
  | .foldNotice core home => Sys2Proof.Machine.execFoldNotice core home s
  | .noticeAck core => Sys2Proof.Machine.execNoticeAck core s
  | .ebbFold home => Sys2Proof.Machine.execEbbFold home s
  | .homeAtomic core slot id lane => Sys2Proof.Machine.execHomeAtomic core slot id lane s
  | .shootdownAck core => Sys2Proof.Machine.execShootdownAck core s
  | .replayEntryExpiry index => Sys2Proof.Machine.execReplayEntryExpiry index s
  | .atomunkWindowClose core slot id lane => Sys2Proof.Machine.execAtomunkWindowClose core slot id lane s
  | .routedRecordAck core => Sys2Proof.Machine.execRoutedRecordAck core s
  | .appCoreWrite pa bytes => Sys2Proof.Machine.execAppCoreWrite pa bytes s
  | .pcieRequest requester va access => Sys2Proof.Machine.execPcieRequest requester va access s
  | .dispatchTurn cls => Sys2Proof.Machine.execDispatchTurn cls s
  | .classHold vi region => Sys2Proof.Machine.execClassHold vi region s
  | .dependenceMet launch linear dep => Sys2Proof.Machine.execDependenceMet launch linear dep s
  | .workgroupEnd core group => Sys2Proof.Machine.execWorkgroupEnd core group s
  | .preemptRequest core group => Sys2Proof.Machine.execPreemptRequest core group s
  | .yieldSave core group => Sys2Proof.Machine.execYieldSave core group s
  | .forcedSave core group => Sys2Proof.Machine.execForcedSave core group s
  | .watchdog core slot low => Sys2Proof.Machine.execWatchdog core slot low s
  | .debugResume core slot => Sys2Proof.Machine.execDebugResume core slot s
  | .debugStep core slot => Sys2Proof.Machine.execDebugStep core slot s
  | .debugKill core slot => Sys2Proof.Machine.execDebugKill core slot s
  | .daccRead core slot slice lane reg => Sys2Proof.Machine.execDaccRead core slot slice lane reg s
  | .daccWrite core slot slice lane reg => Sys2Proof.Machine.execDaccWrite core slot slice lane reg s
  | .counterFreeze core hold => Sys2Proof.Machine.execCounterFreeze core hold s
  | .tracePeriodicSync core => Sys2Proof.Machine.execTracePeriodicSync core s
  | .traceLoss core => Sys2Proof.Machine.execTraceLoss core s
  | .scrubRead stack found => Sys2Proof.Machine.execScrubRead stack found s
  | .wearRefresh island word => Sys2Proof.Machine.execWearRefresh island word s
  | .stoptick => Sys2Proof.Machine.execStoptick s
  | .clockRestart => Sys2Proof.Machine.execClockRestart s
  | .submit vi va => Sys2Proof.Machine.execSubmit vi va s
  | .fdrelease vi value => Sys2Proof.Machine.execFdrelease vi value s
  | .ovfClear vi => Sys2Proof.Machine.execOvfClear vi s
  | .configBlockWrite vi offset value => Sys2Proof.Machine.execConfigBlockWrite vi offset value s
  | .domainWordWrite value => Sys2Proof.Machine.execDomainWordWrite value s
  | .registerWrite target value => Sys2Proof.Machine.execRegisterWrite target value s
  | .linkTraining port peer => Sys2Proof.Machine.execLinkTraining port peer s
  | .flitReceive port seq crcOk => Sys2Proof.Machine.execFlitReceive port seq crcOk s
  | .peerLost peer => Sys2Proof.Machine.execPeerLost peer s
  | .powerWindow draw => Sys2Proof.Machine.execPowerWindow draw s
  | .thermalStep island celsius => Sys2Proof.Machine.execThermalStep island celsius s
  | .thermalShutdown island celsius => Sys2Proof.Machine.execThermalShutdown island celsius s
  | .powerOnBoot images => Sys2Proof.Machine.execPowerOnBoot images s
  | .imageLoad image => Sys2Proof.Machine.execImageLoad image s
  | .fuseCommit vi index upTo => Sys2Proof.Machine.execFuseCommit vi index upTo s
  | .attestationReport nonce => Sys2Proof.Machine.execAttestationReport nonce s
  | .filterRefusal pa => Sys2Proof.Machine.execFilterRefusal pa s
  | .translationWalkDone core slot => Sys2Proof.Machine.execTranslationWalkDone core slot s
  | .faultServed saved => Sys2Proof.Machine.execFaultServed saved s
  | .watchdogRelease saved => Sys2Proof.Machine.execWatchdogRelease saved s
  | .standby => Sys2Proof.Machine.execStandby s

end Sys2Proof.Machine
end

