-- ==== Sys2Proof/Machine/Schedule.lean ====
section
/-! DEFINITION. Which unit moves next (log entry 2): events to come in the order of the agenda, then the pipes in turn, and
once they have all had their slot the end of the cycle, in which every unit that has work does some of it. With it the
issue latch (R69, R70), and how one instruction comes to stand where the next fetch finds it. -/

namespace Sys2Proof.Machine

/-! The issue latch -/

/-- The gang of a latched instruction still stands at it, in or out of its handler as before. -/
def State.standsAt (s pre : State) (f : Fetched) : Bool :=
  let w := s.warp f.cur.core f.cur.slot
  let j := gangLeader f.cur.gang
  s.standing f.cur && w.report.isNone && (w.slice j).pc = f.pc
    && (w.slice j).handler.isSome = ((pre.warp f.cur.core f.cur.slot).slice j).handler.isSome

/-- No gang is being executed any more: the latch is empty, the error records of what has been found are written (R347), and what
has been consumed is charged (R345). -/
def State.atRest (s : State) : State := { s.reportFound.chargeFound with cur := none, ir := [], probe := none }

/-- What follows an instruction's execution. -/
def restIssue : Host.Outcome State Fault Refusal → Host.Outcome State Fault Refusal
  | .next s => .next s.atRest
  | o => o

/-- Runs one latched instruction. -/
def State.runOne (s : State) (f : Fetched) : Host.Outcome State Fault Refusal :=
  restIssue (exec f.instr { s with ir := [], cur := some f.cur })

/-- The drains of both slots of a pair are satisfied as it issues: those to level 0 show results complete (R69, R74). -/
def State.pairDrains (s : State) (a b : Fetched) : State :=
  s.modWarp a.cur.core a.cur.slot (fun w => [a, b].foldl (fun (w : Warp) f =>
    let h := Instr.header f.instr
    if h.lvl = 0 then (setBits 6 h.drain).foldl Warp.clearToken w else w) w)

/-- A slot of a pair as the checks of R70 see it: its gang there, nothing of either slot done. -/
def State.probing (s : State) (f : Fetched) : State :=
  let s := s.modWarp f.cur.core f.cur.slot (fun w => w.onGang f.cur.gang (fun _ sl => { sl with pc := f.pc }))
  { s with ir := [], probe := none, cur := some { f.cur with pos := .probe } }

/-- Runs slot j of a pair and then slot j+1, unless the checks of either have failed. -/
def State.runBoth (s : State) (pa pb : Option (Nat × Trap)) (run : Host.Outcome State Fault Refusal) (a : Fetched) :
    Host.Outcome State Fault Refusal :=
  match firstFault pa pb with
  | some t => .next (s.deliver s a.cur.core a.cur.slot a.cur.gang t).atRest
  | none => run

/-- Slot j+1 after slot j (R69): in the pair's turn, but not before what slot j does where the order between them is kept (R243,
R244; log entry 118). -/
def State.runSecond (s pre : State) (a b : Fetched) : Host.Outcome State Fault Refusal :=
  let u : Cur := { b.cur with pos := .second, floor := (Instr.header a.instr).stall.toNat }
  if s.standsAt pre b then
    match s.secondHold u.core u.slot u.gang b.instr with
    | some n => .next (s.holdSecond u b.instr n).atRest
    | none => restIssue (exec b.instr { s with cur := some u })
  else .next s.atRest

/-- Runs a latched pair: where a slot fails a check, neither takes effect and the cause is taken at slot j (R70; log entry 108). -/
def State.runPair (s : State) (a b : Fetched) : Host.Outcome State Fault Refusal :=
  let t := s.pairDrains a b
  match exec a.instr (t.probing a), exec b.instr (t.probing b) with
  | .next p, .next q =>
    s.runBoth p.probe q.probe
      (match exec a.instr { t with ir := [], cur := some { a.cur with pos := .first } } with
        | .next t' => t'.runSecond s a b
        | o => o) a
  | .next _, o => o
  | o, _ => o

/-- Runs what an issue cycle has latched. -/
def State.runLatch (s : State) : Host.Outcome State Fault Refusal :=
  match s.ir with
  | [] => .next s.atRest
  | [f] => s.runOne f
  | a :: b :: _ => s.runPair a b

/-- The events that latch instructions: the issue choice, and the completion that lets slot j+1 of a pair go on. -/
def latches : Instr → Bool
  | .issueCycle _ _ => true
  | .resultComplete _ _ _ => true
  | _ => false

/-- Performs an event, and what an issue cycle has latched. -/
def State.perform (s : State) (e : Instr) : Host.Outcome State Fault Refusal :=
  match exec e { s with ir := [], cur := none } with
  | .next t => if latches e then t.runLatch else .next t.atRest
  | o => o

/-! The end of a cycle -/

/-- Some store of a core, issued or held back, waits for an overlay line with no segment waiting for room, or its log area is more
than three quarters full with no publication asked for under way (R180). -/
def State.pressed (s : State) (c : Nat) : Bool :=
  let k := s.core c
  let waits := k.warps.any (fun e => e.2.gangs.any (fun g => s.front c e.1 g = .held 0x27)
    || e.2.pend.any (fun p => p.op.isStore && k.logFull e.2.group p.op.lines))
  (waits && !k.segs.any (·.at_.isNone))
    || (decide (3 * (k.logSize / 64) < 4 * k.logUsed) && k.segs.all (fun g => g.published || decide (k.goal < g.seq))
      && (!k.openLines.isEmpty || k.segs.any (!·.published)))

/-- Lanes of an atomic that wait for their homes. -/
def atomEvents (c i : Nat) (p : Pend) : List Instr :=
  match p.op with
  | .atom _ _ _ _ _ _ _ _ ls _ _ => ls.map (fun l => .homeAtomic c i p.id l.lane) ++ ls.map (fun l => .atomunkWindowClose c i p.id l.lane)
  | _ => []

/-- The core whose scratchpad port an instruction in flight asks first. -/
def Pend.port (p : Pend) : Option Nat := p.op.pads.head?.map (·.1)

/-- Instructions of a core's warps that ask the scratchpad port of core `c`. -/
def Core.asksPort (k : Core) (d c : Nat) : List Instr :=
  k.warps.flatMap (fun e => (e.2.pend.filter (fun p => p.port = some c)).map (fun p => .resultComplete d e.1 p.id))

/-- One event of each agent in turn, as long as some agent has one. -/
def inTurn : Nat → List (List Instr) → List Instr
  | 0, _ => []
  | n + 1, ls => ls.filterMap List.head? ++ inTurn n (ls.map List.tail)

/-- What the scratchpad port of a core serves, in the rotation of R269 after the agent served last: own warps, the copy engine, the
matrix engine, peers, one access of each at a turn. A chunk of the matrix engine is as long as it can be (R203; log entry 2). -/
def State.portEvents (s : State) (c : Nat) (k : Core) : List Instr :=
  let peers := ((List.range 4).map (· + c / 4 * 4)).filter (· ≠ c)
  let agents : List (List Instr) :=
    [k.asksPort c c, k.chunks.map (fun q => .copyChunkLand c q.id), [.stageChunk c 65536], peers.flatMap (fun d => (s.core d).asksPort d c)]
  let n := (k.portLast + 1) % 4
  inTurn ((agents.map List.length).foldl max 0) (agents.drop n ++ agents.take n)

/-- The slice has work for the undertow: a spill to write, a refill to ask for or to bring back. -/
def Slice.needsUndertow (sl : Slice) (B : Nat) : Bool := !sl.held.isEmpty || !sl.coming.isEmpty || sl.wantsRefill B

/-- The slices of a core with work for the undertow, in the order in which their needs arose (R273). -/
def Core.needs (k : Core) : List (Nat × Nat) :=
  let now := k.warps.flatMap (fun e => (e.2.slices.filter (fun q => q.2.needsUndertow e.2.rowB)).map (fun q => (e.1, q.1)))
  k.undertow.filter now.contains ++ now.filter (fun x => !k.undertow.contains x)

/-- The undertow serves its slices in that order, refills that a RET stalls on before any spill (R273). -/
def State.undertowEvents (s : State) (c : Nat) (k : Core) : List Instr :=
  (k.needs.filter (fun e => ((s.warp c e.1).slice e.2).returning)).map (fun e => .undertowRefill c e.1 e.2)
    ++ k.needs.flatMap (fun e => [.spillLanded c e.1 e.2, .undertowRefill c e.1 e.2])

/-- What may happen to a resident warp at the end of a cycle. -/
def warpEvents (c i : Nat) (w : Warp) : List Instr :=
  let lows := w.gangs.map gangLeader
  [.translationWalkDone c i] ++ lows.map (fun j => .fetchLineFill c i j)
    ++ [.regangPoint c i, .latchOpen c i]
    ++ lows.flatMap (fun j => [.landingRelease c i j, .ringSlotTaken c i j])
    ++ w.pend.flatMap (atomEvents c i) ++ (w.pend.filter (fun p => p.port.isNone)).map (fun p => .resultComplete c i p.id)
    ++ lows.map (fun j => .watchdog c i j)

/-- What may happen to a resident workgroup. -/
def groupEvents (c g : Nat) (x : Group) : List Instr :=
  x.bars.map (fun b => .barrierRelease c g b.1) ++ [.yieldSave c g, .forcedSave c g, .workgroupEnd c g]

/-- What may happen in a core: its warps and workgroups, the undertow, the engines, the log unit and the translation unit. -/
def State.coreEvents (s : State) (c : Nat) (k : Core) : List Instr :=
  k.warps.flatMap (fun e => warpEvents c e.1 e.2)
    ++ s.undertowEvents c k ++ k.copyq.map (fun r => .copyChunkStart c r.id) ++ s.portEvents c k ++ [.stageComplete c]
    ++ (if s.pressed c then [.forcedPublication c] else [])
    ++ [.segmentWriteDone c] ++ k.segs.flatMap (fun g => g.waiting.map (fun h => .foldNotice c h))
    ++ [.noticeAck c, .routedRecordAck c, .shootdownAck c, .traceLoss c, .tracePeriodicSync c]
    ++ (List.range 4).map (fun p => .pendingStarvation c p)
    ++ k.groups.flatMap (fun e => groupEvents c e.1 e.2)

/-- The workgroups of a launch whose conditions the distributor looks at. -/
def State.linears (s : State) (l : Launch) : List Nat :=
  let here := s.cores.flatMap (fun k => (k.2.groups.filter (fun g => g.2.launch = l.handle && g.2.waiting)).map (fun g => g.2.linear))
  ((l.block.total - 1) :: here ++ (s.saved.filter (fun x => x.launch = l.handle)).map (fun x => x.group.linear)).dedup

/-- What may happen outside the cores: the stop, folds, waiting writes, lost peers, and the distributor, class 0 first. -/
def State.packageEvents (s : State) : List Instr :=
  ((s.foldq.map (·.home)).dedup).map (fun h => .ebbFold h)
    ++ s.arriving.map (fun w => .appCoreWrite w.1 w.2)
    ++ (List.range s.inbound.length).reverse.map (fun i => .homeAtomic 512 0 i 0)
    ++ (if s.replay.isEmpty then [] else [.replayEntryExpiry 0])
    ++ ((s.ports.filter (fun e => e.2.up)).map (fun e => e.2.peer)).dedup.map (fun p => .peerLost p)
    ++ s.launches.flatMap (fun l => (List.range l.block.deps.length).flatMap (fun i =>
        (s.linears l).map (fun n => .dependenceMet l.handle n i)))
    ++ s.queueKeys.map (fun k => .classHold (k / 65536) (k % 65536))
    ++ (if s.launches.isEmpty then [] else (List.range 4).map (fun n => .dispatchTurn n))

/-- Everything that may happen at the end of a cycle. -/
def State.duties (s : State) : List Instr :=
  .stoptick :: s.cores.flatMap (fun e => s.coreEvents e.1 e.2) ++ s.packageEvents

/-- Performs events one after the other, as far as no clock is gated; it stops where one of them stops. -/
def State.performAll (s : State) : List Instr → Host.Outcome State Fault Refusal
  | [] => .next s
  | e :: es =>
    if s.gated then .next s
    else match s.perform e with
      | .next t => t.performAll es
      | o => o

/-- The undertow of every core takes note of the needs that have arisen (R273). -/
def State.noteNeeds (s : State) : State :=
  { s with cores := s.cores.map (fun e => (e.1, { e.2 with undertow := e.2.needs })) }

/-- A cycle of the arithmetic clock has passed: 10 of 33 parts of a tick (log entry 2). -/
def State.nextCycle (s : State) : State := { s.passTime.noteNeeds with cycle := s.cycle + 1, turn := 0 }

/-- Every unit that has work does some of it, and EBBMARKs advance over what has been folded (R266). -/
def State.endCycle (s : State) : Host.Outcome State Fault Refusal :=
  let s := s.nextCycle
  match s.performAll s.duties with
  | .next t => .next t.ebbAll
  | o => o

/-! The next move -/

/-- Steps that are events, not instructions. -/
def isEvent (i : Instr) : Bool := Instr.opcode i = 256

/-- Events that come to pass while every clock is gated (R353, R369). -/
def whileGated : Instr → Bool
  | .clockRestart | .standby | .thermalShutdown _ _ => true
  | _ => false

/-- Events that come to pass without power (R369). -/
def whileOff : Instr → Bool
  | .powerOnBoot _ => true
  | _ => false

/-- The first event to come that may come to pass now: with power and clocks the first of all; while the clocks are gated
the others wait; without power they are lost. -/
def State.nextEvent (s : State) : Option (Instr × List Instr) :=
  match s.power with
  | .running =>
    if s.gated then
      (match s.agenda.find? whileGated with
        | some e => some (e, s.agenda.erase e)
        | none => none)
    else (match s.agenda with
      | [] => none
      | e :: r => some (e, r))
  | _ =>
    match s.agenda.dropWhile (fun e => !whileOff e) with
      | [] => none
      | e :: r => some (e, r)

/-- Pipes with a resident warp: core·4 + pipe, in order. -/
def State.busyPipes (s : State) : List Nat :=
  s.cores.flatMap (fun e => ((List.range 4).filter (fun p => e.2.warps.any (fun w => w.2.pipe = p))).map (fun p => e.1 * 4 + p))

/-- The next move of the package. -/
def State.move (s : State) : Host.Outcome State Fault Refusal :=
  match s.nextEvent with
  | some (e, r) => if isEvent e then ({ s with agenda := r } : State).perform e else .next ({ s with agenda := r } : State).atRest
  | none =>
    if s.gated || s.power ≠ .running then .next s.passTime.atRest
    else match s.busyPipes.find? (fun n => decide (s.turn ≤ n)) with
      | some n => ({ s with turn := n + 1 } : State).perform (.issueCycle (n / 4) (n % 4))
      | none => s.atRest.endCycle

/-! Placing one instruction (log entry 18) -/

/-- One when the number of ones among the low `n` bits is odd. -/
def oddOnes (x n : Nat) : Nat := if evenOnes x n then 0 else 1

/-- A line whose slot 0 holds a word, marked as a target, with its parity; the other slots hold NOPs. -/
def placeLine (x : Nat) : LineBits :=
  let slotpar := oddOnes x 96
  BitVec.ofNat 512 (x + 2 ^ 480 * (1 + 2 ^ 24 * slotpar + 2 ^ 29 * 1))

/-- The registers of a warp that stands at address 0: every slice and lane live, 64 ring rows. -/
def placeWarp (s : State) : Warp :=
  { Warp.empty with
    rowB := 64, active := true, started := true, start := 0xFFFFFFFF, age := s.tick
    slices := (List.range 8).map (fun j => (j, { Slice.empty with num := j, live := true, gang := 0xFF, fsz := 48, top := 49, m := [(0, 0xF)] })) }

/-- A workgroup with that one warp: 8 granules each of registers, scratchpad and accumulators. -/
def placeGroup : Group :=
  { Group.empty with partition := BitVec.ofNat 32 (8 + 8 * 2 ^ 7 + 8 * 2 ^ 14), grans := List.range 24, slots := [0] }

/-- Core 0 with that workgroup alone, and the word at the address where its warp stands, in the fetch unit's line. -/
def placeWord (s : State) (nbits w : Nat) : State :=
  let k := s.core 0
  let k := { k with
    warps := [(0, placeWarp s)], groups := [(0, placeGroup)], icache := Tab.put k.icache (icKey 0 0) (placeLine (w % 2 ^ min nbits 96))
    icOrder := k.icOrder.filter (· ≠ icKey 0 0) ++ [icKey 0 0], icBad := k.icBad.filter (· ≠ icKey 0 0)
    seen := Tab.set 0 k.seen 0 s.cycle }
  { s with cores := Tab.put s.cores 0 k, cur := none, ir := [], agenda := [], turn := 0, power := .running, gated := false }

end Sys2Proof.Machine
end

