-- ==== Sys2Proof/Machine/Step.lean ====
section
/-! DEFINITION. One step of the package. -/

namespace Sys2Proof.Machine

/-- One step: the next event to come, or the issue slot of the next pipe with what it issues, or the end of a cycle. -/
def step (s : State) : Host.Outcome State Fault Refusal := s.move

/-- The instruction `w` stands where the next step fetches: at the program counter of the one warp of core 0. -/
def State.withFetchWord (s : State) (nbits w : Nat) : State := placeWord s nbits w

end Sys2Proof.Machine
end

