-- ==== Sys2Proof/Safety.lean ====
section
/-! DEFINITION. What statements about the machine are made of: when an instruction of a gang issues, what an observer of
the state reads in registers, in the frame ring and in memory, and which instructions only change registers. -/

namespace Sys2Proof.Machine

/-! When an instruction issues -/

/-- The instruction `i` of the gang that `u` names issues in this state, and its own entry decides what happens: the gang
stands and is held for no reason of Table 19.4 (R13), no fault is pending against it (R308), steps 4 to 6 of R86 find
nothing, nothing holds this instruction back (R72, R31, R32, R180, R213, R236), and the checking scoreboard finds no early
read (R73, R74), and no error stands in the rows that it reads (R345). -/
structure State.Issues (s : State) (u : Cur) (i : Instr) : Prop where
  cur : s.cur = some u
  stands : s.standing u = true
  place : u.pos ≠ .probe
  free : s.heldNow u = false
  calm : s.deliverPending u.core u.slot u.gang = none
  legal : s.precheck u i = none
  ready : s.instrHold u.core u.slot u.gang i = none
  steady : s.stallchk u i = false
  sound : s.meetRows u i = (s, none)

/-- The warp is not stepped from outside (R317). -/
def State.Unstepped (s : State) (u : Cur) : Prop := (s.warp u.core u.slot).stepping = none

/-- Nothing looks on while the warp issues: it is not stepped (R317), the trace unit does not follow it (R356), its
workgroup's rollback interval is closed (R256), no stage of its core is under way or in its undefined window (R198), and no word
holds an error that a write could replace (Table 19.1). -/
structure State.Unobserved (s : State) (u : Cur) : Prop where
  unstepped : s.Unstepped u
  untraced : (s.core u.core).trace.covers u.slot = false
  closed : (s.group u.core (s.warp u.core u.slot).group).snapshot = none
  noStage : (s.core u.core).mq = [] ∧ (s.core u.core).windows = []
  sure : s.upsets = []

/-- The warp as the instruction sees it: its free values drawn, the stall counts passed counted off its hazards. -/
def State.seen (s : State) (u : Cur) (i : Instr) : Warp := (s.enter u (Instr.header i)).warp u.core u.slot

/-- The lanes that execute it (R75). -/
def State.lanes (s : State) (u : Cur) (i : Instr) : Mask32 := (s.seen u i).execLanes u.gang (Instr.header i)

/-- The gang's effect happens (R75). -/
def State.acts (s : State) (u : Cur) (i : Instr) : Bool := (s.seen u i).gangActs u.gang (Instr.header i)

/-- The slices in which a control instruction takes effect (R111). -/
def State.slicesActing (s : State) (u : Cur) (i : Instr) : List Nat := (s.seen u i).actSlices u.gang (Instr.header i)

/-! Registers as they stand -/

/-- What stands in a place: a lane of a ring row or a handler row, or a scalar register. -/
def Warp.placeNow (w : Warp) : Place → W64
  | .row j r l => BitVec.zeroExtend 64 (rowLane (Tab.get 0 (w.slice j).rows r) l)
  | .hrow j i l => BitVec.zeroExtend 64 (rowLane (Tab.get 0 (w.slice j).hrows i) l)
  | .sreg j i => Tab.get 0 (w.slice j).s i

/-- Slice `j` of the warp that `u` names. -/
def State.sliceOf (s : State) (u : Cur) (j : Nat) : Slice := (s.warp u.core u.slot).slice j

/-- The slice without what only times its next reads and issues (R73, R74), without the old contents that stages may read
(R199), and without the list of rows that its shadow has still to look at (R256). -/
def Slice.still (sl : Slice) : Slice :=
  { sl with hazards := [], stall := 0, owed := 0, unfenced := [], hunfenced := [], touched := [], logStalled := false }

/-- Predicate `k` of lane `l` of a slice as it stands. -/
def Slice.predNow (sl : Slice) (k l : Nat) : Bool := (Tab.get 0 sl.p l).getLsbD k

/-- The instruction completes: the machine goes on in state `t`, and every slice of the gang stands at the next slot. -/
def State.Completes (s : State) (u : Cur) (i : Instr) (t : State) : Prop :=
  exec i s = .next t ∧ ∀ j ∈ gangSlices u.gang, (t.sliceOf u j).pc = nextSlot (s.sliceOf u j).pc

/-- Frame register `d` holds `v l` in every executing lane `l`, and what it held before in every other lane. -/
def State.LanesBecome (s t : State) (u : Cur) (i : Instr) (d : Nat) (v : Nat → W32) : Prop :=
  ∀ l, l < 32 →
    (t.warp u.core u.slot).placeNow ((s.seen u i).placeF l d)
      = if (s.lanes u i).getLsbD l then BitVec.zeroExtend 64 (v l) else (s.warp u.core u.slot).placeNow ((s.seen u i).placeF l d)

/-- Scalar register `d` holds `v` in every slice of the gang where the gang's effect happens, and what it held before
where it does not. -/
def State.ScalarBecomes (s t : State) (u : Cur) (i : Instr) (d : Nat) (v : W64) : Prop :=
  ∀ j ∈ gangSlices u.gang, Tab.get 0 (t.sliceOf u j).s d = if s.acts u i then v else Tab.get 0 (s.sliceOf u j).s d

/-- Predicate `k` holds `v l` in every executing lane `l`, and what it held before in every other lane; a write of p7 has no
effect (Table 1.1). -/
def State.PredsBecome (s t : State) (u : Cur) (i : Instr) (k : Nat) (v : Nat → Bool) : Prop :=
  ∀ l, l < 32 →
    (t.sliceOf u (l / 4)).predNow k (l % 4)
      = if (s.lanes u i).getLsbD l = true ∧ k ≠ 7 then v l else (s.sliceOf u (l / 4)).predNow k (l % 4)

/-- Mask register `k` holds the gang's bits of `v` where the gang's effect happens, and what it held before where it does
not. -/
def State.MaskBecomes (s t : State) (u : Cur) (i : Instr) (k : Nat) (v : Mask32) : Prop :=
  ∀ j ∈ gangSlices u.gang, Tab.get 0 (t.sliceOf u j).m k = if s.acts u i then sliceBits v j else Tab.get 0 (s.sliceOf u j).m k

/-- Frame register `d`, or the pair from `d` where `wide` holds, takes `v l` in every executing lane `l` (R16, R93). -/
def State.LanesTake (s t : State) (u : Cur) (i : Instr) (wide : Prop) (d : Nat) (v : Nat → W64) : Prop :=
  s.LanesBecome t u i d (fun l => BitVec.truncate 32 (v l))
  ∧ (wide → s.LanesBecome t u i (d + 1) (fun l => BitVec.truncate 32 (v l >>> 32)))

/-- The result of an instruction in the form its destination chooses (R92): `f (some l)` in each executing lane of a frame
register or pair, or `f none` in the gang's scalar. -/
def State.ResultIs (s t : State) (u : Cur) (i : Instr) (dst : Operand) (wide : Prop) (f : Option Nat → W64) : Prop :=
  (∀ d, dst = .f d → s.LanesTake t u i wide d (fun l => f (some l))) ∧ (∀ d, dst = .s d → s.ScalarBecomes t u i d (f none))

/-- Source one of format A in lane `l` (`some l`), under the cross-lane modifier, or in the scalar form (`none`). -/
def Warp.operand1 (w : Warp) (u : Cur) (o : FmtA) : Option Nat → W64
  | some l => w.src1 u.gang o.xmod o.type o.srcA l
  | none => w.srcS u.gang o.type o.srcA

/-- Another source, under a type, in lane `l` or in the scalar form. -/
def Warp.operand (w : Warp) (u : Cur) (type : BitVec 4) (x : Operand) : Option Nat → W64
  | some l => w.src u.gang type x l
  | none => w.srcS u.gang type x

/-- Nothing else has moved: the gang's slices stand at the next slot with every register as it was, the other slices of the warp
are as they were, and memory reads as before, in the homes and from this core; sealing alone may write the core's log area. -/
def State.NothingElse (s t : State) (u : Cur) (seals : Prop) : Prop :=
  (∀ j, (t.sliceOf u j).still =
    if j ∈ gangSlices u.gang then { (s.sliceOf u j).still with pc := nextSlot (s.sliceOf u j).pc } else (s.sliceOf u j).still)
  ∧ (¬ seals → t.mem = s.mem ∧ ∀ a, t.homeByte a = s.homeByte a ∧ t.ldByte u.core a = s.ldByte u.core a)

/-- The instruction's work is put in flight on its token (R72, R74), and where nothing looks on that is all that registers and
memory show. -/
def State.Posts (s t : State) (u : Cur) (tok : Nat) (op : PendOp) : Prop :=
  let w := s.warp u.core u.slot
  (t.warp u.core u.slot).pend = w.pend ++
    [{ id := w.nextId, tok := tok, gang := u.gang, pc := (s.sliceOf u (gangLeader u.gang)).pc, born := s.draws + 1, op := op }]
  ∧ (tok ≠ 0 → Tab.get 0 (t.warp u.core u.slot).tok (tok - 1) = Tab.get 0 w.tok (tok - 1) + 1)
  ∧ (s.Unobserved u → s.NothingElse t u (∃ x, op = .sealUpTo x))

/-- What a control instruction keeps, where nothing looks on: memory, the handler rows, the scalars, buffer records, predicates
and FSTATUS; where `rows` holds the ring rows, and where `m` holds the mask registers. -/
def State.Keeps (s t : State) (u : Cur) (rows m : Prop) : Prop :=
  s.Unobserved u →
    t.mem = s.mem ∧ (∀ a, t.homeByte a = s.homeByte a ∧ t.ldByte u.core a = s.ldByte u.core a)
    ∧ ∀ j, let a := s.sliceOf u j
      let b := t.sliceOf u j
      b.hrows = a.hrows ∧ b.s = a.s ∧ b.b = a.b ∧ b.p = a.p ∧ b.fstatus = a.fstatus ∧ (rows → b.rows = a.rows) ∧ (m → b.m = a.m)

/-- The gang takes the cause `t` at the instruction, with none of the instruction's effects. -/
def State.Stops (s : State) (u : Cur) (i : Instr) (t : Trap) : Prop :=
  exec i s = .next (s.deliver s u.core u.slot u.gang t)

/-- The gang takes the cause `t` as the instruction executes: the instruction has issued, and counts as one that did (R86, R354). -/
def State.Faults (s : State) (u : Cur) (i : Instr) (t : Trap) : Prop :=
  exec i s = .next ((s.countInstr u).deliver s u.core u.slot u.gang t)

/-! Frames -/

/-- Everything outside the core of `u` is as it was, and in that core everything but its warps and its counters. -/
def State.OnlyWarps (s t : State) (u : Cur) : Prop :=
  t = { s with draws := t.draws, cores := t.cores }
  ∧ (∀ c, c ≠ u.core → t.core c = s.core c)
  ∧ t.core u.core = { s.core u.core with warps := (t.core u.core).warps, ctr := (t.core u.core).ctr }

/-- The other warps of the core are as they were, and in the warp of `u` everything but its slices, its tokens with their
results in flight, what it has waited on, and what orders its turns. -/
def State.OnlySlices (s t : State) (u : Cur) : Prop :=
  (∀ v, v ≠ u.slot → t.warp u.core v = s.warp u.core v)
  ∧ t.warp u.core u.slot = { s.warp u.core u.slot with
      slices := (t.warp u.core u.slot).slices, hint := (t.warp u.core u.slot).hint, last := (t.warp u.core u.slot).last
      seed := (t.warp u.core u.slot).seed, tok := (t.warp u.core u.slot).tok, pend := (t.warp u.core u.slot).pend
      nextId := (t.warp u.core u.slot).nextId, waited := (t.warp u.core u.slot).waited }

/-- The slice `b` differs from `a` in nothing but its program counter and the registers of the list `ds`, `B` being the
row budget: frame registers stand in handler rows while a handler runs (R35) and in the ring otherwise (R25). -/
def Slice.OnlyWrites (a b : Slice) (B : Nat) (ds : List RegRef) : Prop :=
  b.still = { a.still with pc := b.pc, rows := b.rows, hrows := b.hrows, s := b.s, b := b.b, p := b.p, m := b.m, fstatus := b.fstatus }
  ∧ (∀ r, (a.handler.isSome ∨ ∀ q ∈ ds, q.1 = .row → a.ringRow B q.2 ≠ r) → Tab.get 0 b.rows r = Tab.get 0 a.rows r)
  ∧ (∀ r, (a.handler.isNone ∨ ∀ q ∈ ds, q.1 = .row → q.2 ≠ r) → Tab.get 0 b.hrows r = Tab.get 0 a.hrows r)
  ∧ (∀ n, (RegKind.s, n) ∉ ds → Tab.get 0 b.s n = Tab.get 0 a.s n)
  ∧ (∀ n, (RegKind.b, n) ∉ ds → Tab.get 0 b.b n = Tab.get 0 a.b n)
  ∧ (∀ n, (RegKind.p, n) ∉ ds → ∀ l, b.predNow n l = a.predNow n l)
  ∧ (∀ n, (RegKind.m, n) ∉ ds → Tab.get 0 b.m n = Tab.get 0 a.m n)
  ∧ ((RegKind.fs, 0) ∉ ds → b.fstatus = a.fstatus)

/-- The frames of the gang and their header rows fit in the ring (R24, R31). -/
def State.FramesFit (s : State) (u : Cur) : Prop :=
  ∀ j ∈ gangSlices u.gang, (s.sliceOf u j).fsz + 2 ≤ (s.warp u.core u.slot).rowB

/-! Instructions that only change registers of their warp, at issue -/

/-- The instructions whose whole effect is on registers of the gang's slices, and which go on to the next slot: opcodes
0x00 to 0x3B but for ANY and ALL, WAITK, the float chapter and its conversions but for QBLK, XSHF and XBCAST. -/
def regOnly (i : Instr) : Bool :=
  let op := Instr.opcode i
  decide (op < 0x3C) && op ≠ 0x35 && op ≠ 0x36 || op = 0x4E || decide (0x60 ≤ op) && decide (op < 0x92) || op = 0xA0 || op = 0xA1

/-! Results of integer instructions on words of `n` bits, from the arithmetic of words alone (Tables 4.1 to 4.3) -/

/-- A type suffix of the integer chapter: its code, its signedness and its width. -/
structure IntegerType where
  code : BitVec 4
  signed : Bool
  bits : Nat
  deriving DecidableEq, Repr

/-- The eight types of Table 4.1. -/
def integerTypes : List IntegerType :=
  [⟨0, false, 32⟩, ⟨1, true, 32⟩, ⟨2, false, 64⟩, ⟨3, true, 64⟩, ⟨8, false, 16⟩, ⟨9, true, 16⟩, ⟨10, false, 8⟩, ⟨11, true, 8⟩]

/-- A result extended to 64 bits, of which a frame register takes the low 32 (R93). -/
def widened (signed : Bool) {n : Nat} (x : BitVec n) : W64 := if signed then BitVec.signExtend 64 x else BitVec.zeroExtend 64 x

/-- The number a word stands for under a type (R96). -/
def wordNum (signed : Bool) {n : Nat} (x : BitVec n) : Int := if signed then x.toInt else x.toNat

/-- The least and the greatest value of a type (R94). -/
def wordLeast (signed : Bool) (n : Nat) : Int := if signed then -2 ^ (n - 1) else 0
def wordGreatest (signed : Bool) (n : Nat) : Int := if signed then 2 ^ (n - 1) - 1 else 2 ^ n - 1

/-- SAT 0: each instruction and what it makes of its sources a, b and c. -/
def wordOps (signed : Bool) (n : Nat) : List ((Header → FmtA → Instr) × (BitVec n → BitVec n → BitVec n → BitVec n)) :=
  let le := fun (a b : BitVec n) => if signed then a.sle b else a.ule b
  [(.add, fun a b _ => a + b), (.sub, fun a b _ => a - b), (.neg, fun a _ _ => -a), (.mul, fun a b _ => a * b)
  , (.mulhi, fun a b _ =>
      if signed then ((a.signExtend (n + n) * b.signExtend (n + n)) >>> n).truncate n
      else ((a.zeroExtend (n + n) * b.zeroExtend (n + n)) >>> n).truncate n)
  , (.mad, fun a b c => a * b + c), (.minI, fun a b _ => if le a b then a else b), (.maxI, fun a b _ => if le a b then b else a)
  , (.absI, fun a _ _ => if a.slt 0 then -a else a)
  , (.clamp, fun a b c => let x := if le a b then b else a; if le x c then x else c)
  , (.andB, fun a b _ => a &&& b), (.orB, fun a b _ => a ||| b), (.xorB, fun a b _ => a ^^^ b), (.notB, fun a _ _ => ~~~ a)
  , (.andn, fun a b _ => a &&& ~~~ b), (.shl, fun a b _ => a <<< (b.toNat % 256))
  , (.shr, fun a b _ => if signed then a.sshiftRight (b.toNat % 256) else a >>> (b.toNat % 256))
  , (.rol, fun a b _ => a.rotateLeft (b.toNat % 256)), (.ror, fun a b _ => a.rotateRight (b.toNat % 256)), (.mov, fun a _ _ => a)]

/-- The instructions that take SAT or write a carry or range predicate: the exact result of a, b and c, c being the carry-in of
SUBOP 1, and the carry or borrow of the unsigned sources and the carry-in for those that write it (R94 to R96). -/
def exactOps : List ((Header → FmtA → Instr) × (Int → Int → Int → Int) × Option (Nat → Nat → Nat → Nat → Bool)) :=
  [(.add, fun a b c => a + b + c, some (fun n a b c => decide (2 ^ n ≤ a + b + c)))
  , (.sub, fun a b c => a - b - c, some (fun _ a b c => decide (a < b + c)))
  , (.neg, fun a _ _ => -a, none), (.mul, fun a b _ => a * b, none), (.mad, fun a b c => a * b + c, none)
  , (.absI, fun a _ _ => |a|, none)]

/-- Format B: each instruction and what it makes of its source and its immediate, taken to the width of the type. -/
def immediateOps (signed : Bool) (n : Nat) : List ((Header → FmtB → Instr) × (BitVec 4 → BitVec n → BitVec n → BitVec n)) :=
  [(.addi, fun _ a b => a + b), (.muli, fun _ a b => a * b), (.andi, fun _ a b => a &&& b), (.ori, fun _ a b => a ||| b)
  , (.xori, fun _ a b => a ^^^ b), (.movi, fun _ _ b => b)
  , (.shi, fun subop a b => if subop = 0 then a <<< b.toNat else if signed then a.sshiftRight b.toNat else a >>> b.toNat)]

/-- The conditions of Table 4.4 on unsigned and on signed words. -/
def wordCond {n : Nat} (signed : Bool) (c : Nat) (a b : BitVec n) : Bool :=
  let le := fun (x y : BitVec n) => if signed then x.sle y else x.ule y
  match c with
  | 0 => decide (a = b)
  | 1 => decide (a ≠ b)
  | 2 => !le b a
  | 3 => le a b
  | 4 => !le a b
  | _ => le b a

/-! Results of the float chapter -/

/-- The instructions of Table 6.2 with one format for every operand: each and what it makes of the encodings of one element,
in a rounding mode. -/
def elementOps : List ((Header → FmtA → Instr) × (Nat → Fmt → Nat → Nat → Nat → FOut)) :=
  [(.fadd, fun rm F x y _ => F.dot rm [] [F.decode x, F.decode y])
  , (.fsub, fun rm F x y _ => F.dot rm [] [F.decode x, (F.decode y).negate])
  , (.fmul, fun rm F x y _ => F.dot rm [(F.decode x, F.decode y)] [])
  , (.ffma, fun rm F x y z => F.dot rm [(F.decode x, F.decode y)] [F.decode z])
  , (.fmin, fun _ F x y _ => F.minMax false x y), (.fmax, fun _ F x y _ => F.minMax true x y)
  , (.fabs, fun _ F x _ _ => F.signOp (fun _ => false) x), (.fneg, fun _ F x _ _ => F.signOp (fun n => !n) x)
  , (.frcp, fun rm F x _ _ => F.recip rm (F.decode x)), (.fsqrt, fun rm F x _ _ => F.sqrt rm (F.decode x))
  , (.frnd, fun rm F x _ _ => F.frnd rm x)]

/-- The instructions of Table 6.6 on FP64 encodings (all but DSETP). -/
def doubleOps : List ((Header → FmtA → Instr) × (Nat → Nat → Nat → Nat → FOut)) :=
  [(.dadd, fun rm x y _ => fp64.dot rm [] [fp64.decode x, fp64.decode y])
  , (.dsub, fun rm x y _ => fp64.dot rm [] [fp64.decode x, (fp64.decode y).negate])
  , (.dmul, fun rm x y _ => fp64.dot rm [(fp64.decode x, fp64.decode y)] [])
  , (.dfma, fun rm x y z => fp64.dot rm [(fp64.decode x, fp64.decode y)] [fp64.decode z])
  , (.dmin, fun _ x y _ => fp64.minMax false x y), (.dmax, fun _ x y _ => fp64.minMax true x y)
  , (.dsqrt, fun rm x _ _ => fp64.sqrt rm (fp64.decode x))]

/-- FSTATUS of a slice takes the flags `f l` of its executing lanes, and loses none (R23, R139). -/
def State.FlagsRaised (s t : State) (u : Cur) (i : Instr) (f : Nat → W32) : Prop :=
  ∀ j ∈ gangSlices u.gang, ∀ b, (t.sliceOf u j).fstatus.getLsbD b
    = ((s.sliceOf u j).fstatus.getLsbD b || (List.range 4).any (fun l => (s.lanes u i).getLsbD (4 * j + l) && (f (4 * j + l)).getLsbD b))

/-- The flags of an instruction in the form its destination chooses (R139): those of each slice's executing lanes for the
slice, or `f none` for every slice of the gang. -/
def State.FlagsAre (s t : State) (u : Cur) (i : Instr) (dst : Operand) (f : Option Nat → W32) : Prop :=
  ((∀ d, dst ≠ .s d) → s.FlagsRaised t u i (fun l => f (some l)))
  ∧ ∀ d, dst = .s d → ∀ j ∈ gangSlices u.gang,
      (t.sliceOf u j).fstatus = (s.sliceOf u j).fstatus ||| (if s.acts u i then f none else 0)

/-- The lane that XSHF names for lane `l` and index `b` (R153): `.idx`, `.up`, `.down`, `.xor`, bit 3 for the `.slice` forms. -/
def shuffled (op : BitVec 4) (l b : Nat) : Int :=
  match op.toNat % 4 with
  | 0 => if op.getLsbD 3 then ((4 * (l / 4) + b % 4 : Nat) : Int) else ((b % 32 : Nat) : Int)
  | 1 => (l : Int) - ((b % 256 : Nat) : Int)
  | 2 => (l : Int) + ((b % 256 : Nat) : Int)
  | _ => ((l ^^^ (b % 32) : Nat) : Int)

/-! Room for frames (R31, R33) -/

/-- How many rows the room for `need` new rows takes out of the ring: none from the stack position `keep` up (R31). -/
def Slice.spillsFor (sl : Slice) (B need keep : Nat) : Nat := min (sl.resident + need + 8 - B) (keep - sl.low)

/-- Nothing stands in the way of spilling the `n` oldest rows, which belong to the ASID the slice runs under (R34, R36, R126, R331). -/
def Slice.FreeToSpill (sl : Slice) (B n : Nat) : Prop :=
  n ≤ B ∧ sl.pins = [] ∧ sl.coming = [] ∧ sl.hazards = [] ∧ sl.aside = []
  ∧ ∀ pos, sl.low ≤ pos → pos < sl.low + n → sl.level pos = sl.gates.length

/-- The first address beyond the slice's spill stack: BSLIMIT, or the limit of the gate it runs in (R33, R125). -/
def Slice.stackEnd (sl : Slice) : Nat := (sl.limitOf sl.gates.length).toNat

/-- Room for `need` new rows can be made now. -/
def Slice.RoomFor (sl : Slice) (B need keep : Nat) : Prop :=
  let n := sl.spillsFor B need keep
  sl.resident + need ≤ B + n ∧ (0 < n → sl.FreeToSpill B n ∧ sl.spillTop.toNat + 16 * n ≤ sl.stackEnd)

/-- The room needs a spill at or beyond the end of the stack (R33). -/
def Slice.NoRoom (sl : Slice) (B need keep : Nat) : Prop :=
  let n := sl.spillsFor B need keep
  0 < n ∧ sl.FreeToSpill B n ∧ sl.stackEnd < sl.spillTop.toNat + 16 * n

/-- The `n` oldest rows of `a` have left the ring, each into the next entry of the spill stack (R30), `top` being SPILLTOP after them; a
root frame's rows with what they held. -/
def Slice.Spilled (a b : Slice) (B n : Nat) (asid : BitVec 16) (top : VA) : Prop :=
  b.low = a.low + n ∧ top = a.spillTop + BitVec.ofNat 57 (16 * n)
  ∧ b.held.map (fun h => (h.pos, h.va, h.asid)) = a.held.map (fun h => (h.pos, h.va, h.asid))
      ++ (List.range n).map (fun i => (a.low + i, a.spillTop + BitVec.ofNat 57 (16 * i), asid))
  ∧ (a.depth = 0 → (b.held.drop a.held.length).map (·.row) = (List.range n).map (fun i => Tab.get 0 a.rows ((a.low + i) % B)))

/-! Work in flight as it performs -/

/-- The instruction leaves flight, and its token is counted down (R74). -/
def State.Leaves (s t : State) (c slot : Nat) (p : Pend) : Prop :=
  (t.warp c slot).pend = (s.warp c slot).pend.filter (fun q => q.id ≠ p.id)
  ∧ (p.tok ≠ 0 → Tab.get 0 (t.warp c slot).tok (p.tok - 1) = Tab.get 0 (s.warp c slot).tok (p.tok - 1) - 1)

/-- The instruction stays in flight, its token counted, with other work still to do. -/
def State.Becomes (s t : State) (c slot : Nat) (p : Pend) (op : PendOp) : Prop :=
  (t.warp c slot).pend = (s.warp c slot).pend.map (fun q => if q.id = p.id then { q with op := op } else q)
  ∧ (t.warp c slot).tok = (s.warp c slot).tok

/-- The values `vs` come back, and stand in no register yet (R74); `holds` where the instruction is an acquire. -/
def State.Returns (s t : State) (c slot : Nat) (p : Pend) (vs : List (Place × W64)) (holds : Bool) : Prop :=
  s.Becomes t c slot p (.loaded vs holds) ∧ ∀ x, (t.warp c slot).placeNow x = (s.warp c slot).placeNow x

/-- No earlier instruction of the warp in flight touches a byte of this one (R166). -/
def Warp.Alone (w : Warp) (p : Pend) : Prop := ∀ q ∈ w.pend, q.id < p.id → q.op.meets p.op = false

/-- Every earlier instruction of a kind has performed. -/
def Warp.Past (w : Warp) (p : Pend) (kind : PendOp → Bool) : Prop := ∀ q ∈ w.pend, q.id < p.id → kind q.op = false

/-- The values give a destination the number `v` (R16, R158): the whole of it to each copy of a scalar, 32 bits to each frame register
in turn. -/
def Delivers (vs : List (Place × W64)) (dst : List Place) (v : Nat) : Prop :=
  ∀ k p, dst[k]? = some p → (p, match p with
    | .sreg _ _ => BitVec.ofNat 64 v
    | _ => BitVec.ofNat 64 (v / 2 ^ (32 * k) % 2 ^ 32)) ∈ vs

/-- The number that a load of some bytes gives, extended to 64 bits by its sign where it is signed and narrower (R158). -/
def loadedNumber (n : Nat) (signed : Bool) (bs : List Byte) : Nat :=
  let v := ofBytes bs
  if signed = true ∧ n ≤ 4 ∧ 2 ^ (8 * n - 1) ≤ v then v + (2 ^ 64 - 2 ^ (8 * n)) else v

/-- A byte as a load takes it in (R163, R164, R234, R259): the core's newest store of it; else, for LD in its own package, the L1 copy
or, where there is none, the die cache's; else the home view, or for another package the core's record still on its way there. -/
def State.loadedByte (s : State) (c : Nat) (home : Bool) (pa : Nat) : Byte :=
  let k := s.core c
  match k.overlayByte pa with
  | some b => b
  | none =>
    if isRemote pa then (k.routedByte pa).getD (s.homeByte pa)
    else if home then s.homeByte pa
    else match Tab.find (pa / 64) k.l1, Tab.find (pa / 64) (s.die (c / 64)).lines with
      | some x, _ => lineByte x.data (pa % 64)
      | none, some x => lineByte x.data (pa % 64)
      | none, none => s.homeByte pa

/-- What a load takes in for a lane: zeros for a dropped one (R161). -/
def State.laneBytes (s : State) (c n : Nat) (home : Bool) (a : LaneAcc) : List Byte :=
  if a.dropped then List.replicate n 0 else (List.range n).map (fun i => s.loadedByte c home (a.pa + i))

/-- A load of these lanes meets no error (R345, R348) and no lost package (R380), and L1 and the die cache have room for its lines
(R2). -/
structure State.LoadsWell (s : State) (c n : Nat) (ls : List LaneAcc) : Prop where
  sure : s.upsets = []
  room : (s.core c).l1.length + (s.core c).overlay.length + ls.length ≤ 4096
  dieRoom : (s.die (c / 64)).lines.length + ls.length ≤ 2 ^ 20
  fits : ∀ a ∈ ls, a.dropped = false → a.pa % 64 + n ≤ 64
  sound : ∀ a ∈ ls, a.dropped = false → s.isPoisoned (a.pa / 64) = false ∧ s.lostAt a.pa = false
    ∧ (∀ o ∈ (s.core c).overlays (a.pa / 64), o.poison = false)
    ∧ (∀ x, Tab.find (a.pa / 64) (s.core c).l1 = some x → x.poison = false)
    ∧ ∀ x, Tab.find (a.pa / 64) (s.die (c / 64)).lines = some x → x.poison = false

/-- The byte at `x` of a scratchpad once the accesses have left their bytes there, one after the other. -/
def State.padAfter (s : State) (ws : List (PadAcc × List Byte)) (c g x : Nat) : Byte :=
  match (ws.filter (fun e => e.1.core = c && e.1.group = g && decide (e.1.addr ≤ x) && decide (x < e.1.addr + e.2.length))).getLast? with
  | some e => e.2.getD (x - e.1.addr) 0
  | none => (s.group c g).padByte x

/-- The accesses reach workgroups that stand, on cores with no stage's window open (R198). -/
def State.PadsFree (s : State) (ls : List PadAcc) : Prop :=
  ∀ a ∈ ls, (Tab.find a.group (s.core a.core).groups).isSome = true ∧ (s.core a.core).windows = []

/-- A release seals the open segment, with a record for each of its lines, and asks for every segment sealed so far (R177). -/
def State.Releases (s t : State) (c : Nat) : Prop :=
  let k := s.core c
  let r := t.core c
  r.openSeq = k.openSeq + (if k.openLines = [] then 0 else 1) ∧ r.goal = r.openSeq - 1
  ∧ (k.openLines ≠ [] → ∃ g ∈ r.segs, g.seq = k.openSeq
      ∧ g.records.map (fun x => (x.line, x.mask, x.data)) = k.openLines.map (fun o => (o.line, o.mask, o.data)))

/-- The core can release: no error stands anywhere, and its sealed segments have lower numbers than the open one. -/
def State.ReleasesWell (s : State) (c : Nat) : Prop := s.upsets = [] ∧ ∀ g ∈ (s.core c).segs, g.seq < (s.core c).openSeq

/-- What a release of a scope waits for, up to a segment, has come about (R177): publication; from domain scope up the
acknowledgement of routed records; at system scope the folds of records to external memory. -/
def State.Published (s : State) (c scope seq : Nat) : Prop :=
  (∀ g ∈ (s.core c).segs, g.seq ≤ seq → g.published = true ∧ (4 ≤ scope → g.routed = false))
  ∧ (5 ≤ scope → ∀ f ∈ s.foldq, f.core = c → f.seq ≤ seq → f.home < 256)

/-- The segments that a core replays from another core's log: past its cursor, up to the tidemark (R176, R264). -/
def State.replayed (s : State) (c l : Nat) : List Segment :=
  (s.core l).segs.filter (fun g => decide (Tab.get 0 (s.core c).cursors l < g.seq) && decide (g.seq ≤ (s.pubSlot l).seq))

/-- A byte of an L1 copy and its place in the coherence order, once patched from records of its line in turn (R176, R234). -/
def patchedByte (x : L1Line) (rs : List Record) (i : Nat) : Byte × Nat :=
  rs.foldl (fun q r => if r.void = false ∧ r.mask.getLsbD i = true ∧ q.2 < r.order then (lineByte r.data i, r.order) else q)
    (lineByte x.data i, (Tab.find i x.newer).getD x.order)

/-- Replay of some logs by a core, whose copies of the lines `gone` are dropped beside it (R172, R176, R264): the cursors stand at the
tidemarks and the core's own stores stay; L1 is emptied by a degraded replay, by `all` and where a log's EBBMARK lies beyond the
cursor; else a copy that no record touches stays, one installed before the notices of the one log that touches it is patched, and any
other of a touched line is dropped. -/
def State.Replays (s t : State) (c : Nat) (logs : List Nat) (degrade all : Bool) (gone : List Nat) : Prop :=
  let k := s.core c
  let others := logs.filter (· ≠ c)
  let touches := fun (g : Segment) (line : Nat) => g.records.any (fun r => r.line = line)
  let empties := degrade = true ∨ all = true ∨ ∃ l ∈ others, Tab.get 0 k.cursors l < (s.pubSlot l).ebbSeq
  (∀ l, Tab.get 0 (t.core c).cursors l = if l ∈ others then (s.pubSlot l).seq else Tab.get 0 k.cursors l)
  ∧ (∀ pa, (t.core c).overlayByte pa = k.overlayByte pa)
  ∧ (empties → (t.core c).l1 = [])
  ∧ (¬ empties → ∀ line, line ∈ gone ∨ Tab.find line k.l1 = none → Tab.find line (t.core c).l1 = none)
  ∧ (¬ empties → ∀ line x, line ∉ gone → Tab.find line k.l1 = some x →
      match others.filter (fun l => (s.replayed c l).any (fun g => touches g line)) with
      | [] => Tab.find line (t.core c).l1 = some x
      | [l] =>
        if (∀ g ∈ s.replayed c l, touches g line = true → x.tick < g.ntick.getD 0) ∧ s.isPoisoned line = false then
          ∃ y, Tab.find line (t.core c).l1 = some y ∧ y.tick = x.tick ∧ ∀ i, i < 64 → lineByte y.data i =
            if (k.overlayByte (line * 64 + i)).isSome then lineByte x.data i
            else (patchedByte x ((s.replayed c l).flatMap (fun g => g.records.filter (fun r => r.line = line))) i).1
        else Tab.find line (t.core c).l1 = none
      | _ => Tab.find line (t.core c).l1 = none)

/-! Cross-lane trees (R155) -/

/-- Two partial results combined by one step, the lower lane's first, with the flags of a step that has both. -/
def paired (f : W32 → W32 → W32 × W32) : Option W32 → Option W32 → Option W32 × W32
  | some a, some b => (some (f a b).1, (f a b).2)
  | some a, none => (some a, 0)
  | none, b => (b, 0)

/-- The steps at some distances from the lanes' values `v`, where `other` names the lane that a lane combines with; with the flags of
the lanes of `m`. -/
def treeRun (f : W32 → W32 → W32 × W32) (m : Mask32) (other : Nat → Nat → Option Nat) :
    List Nat → (Nat → Option W32) → (Nat → Option W32) × W32
  | [], v => (v, 0)
  | d :: ds, v =>
    let q := fun l => match other d l with
      | none => (v l, (0 : W32))
      | some k => paired f (v (min l k)) (v (max l k))
    let r := treeRun f m other ds (fun l => (q l).1)
    (r.1, r.2 ||| (List.range 32).foldl (fun a l => if m.getLsbD l then a ||| (q l).2 else a) 0)

/-! Tiles in scratchpad (R189, R190, R192) -/

/-- Bit `k` of element `c` of a row that starts at the byte `start`, of elements of `n` bits one after the other. -/
def Group.rowBit (g : Group) (start n c k : Nat) : Bool := (g.padByte (start + (c * n + k) / 8)).getLsbD ((c * n + k) % 8)

/-- The value of the element `c` of such a row in a format of Table 2.3 or, under a BFP format, with the exponent of its block. -/
def Group.elementIs (g : Group) (f exponent start c : Nat) (v : FVal) : Prop :=
  let n := elemBits f
  ∃ raw, raw < 2 ^ n ∧ (∀ k, k < n → raw.testBit k = g.rowBit start n c k)
    ∧ v = if isBfp f then bfpVal exponent (mantOf (f - 7) raw) else (fmtOfCode f).decode raw

/-- The value of an encoding as a rational number; 0 for what is no finite number. -/
def FVal.rat : FVal → ℚ
  | .fin n m e => (if n then -1 else 1) * m * (2 : ℚ) ^ e
  | _ => 0

/-- The encoding of FP32 is finite. -/
def finite32 (x : Nat) : Prop := ∃ n m e, fp32.decode x = .fin n m e

/-- The value of an encoding of FP32 as a real number. -/
def real32 (x : Nat) : ℝ := ((fp32.decode x).rat : ℝ)

/-- The finite FP32 encoding `y` is a faithful rounding of `v` (R148): it has the value `v` where some FP32 value is `v`, and else no FP32
value lies between the two. -/
def Faithful (y : Nat) (v : ℝ) : Prop :=
  finite32 y ∧ ∀ x, x < 2 ^ 32 → finite32 x →
    (real32 x = v → real32 y = v) ∧ ¬ (min (real32 y) v < real32 x ∧ real32 x < max (real32 y) v)

end Sys2Proof.Machine
end

