-- ==== Sys2Proof/Certificates/Slice0/Obligations.lean ====
section
/-! DEFINITION. The statements for the provers. A statement about an instruction says what holds when it issues
(`State.Issues`: what comes before its own entry has passed), and of the sources it speaks as the instruction reads them
(`State.seen`). -/

section Statements

open Sys2Proof Sys2Proof.Machine

/-! Encoding -/

/-- Every well-formed instruction is what its slot decodes to (R65, R72, R77, Tables 3.2 to 3.9, 3.12 and 3.15): no field of
an encoding is dropped or read at another place than it is written. -/
def Obligations.DecodeOfEncodeIsTheInstruction : Prop :=
  ∀ (i : Instr) (w : Nat), encode i = some w → i.wellFormed = true → w < 2 ^ 96 ∧ decodeSlot w = .ok i

/-- A slot that decodes is the slot of what it decodes to: every bit of it is a field of the instruction, and reserved bits
are zero (R72, R77, R80). -/
def Obligations.EncodeOfDecodeIsTheSlot : Prop :=
  ∀ (i : Instr) (w : Nat), w < 2 ^ 96 → decodeSlot w = .ok i → encode i = some w

/-- The slots that the spec's own worked encodings write out (its examples of FFMA, ADD.cin, CALL, GATE, XRED, ATOM, BFLY, RINGGET.free
and RDCTR), the slot of zeros, a reserved opcode and a reserved specifier decode to what they stand for. -/
def Obligations.SlotsDecodeAsTheTablesSay : Prop :=
  let h : Header := { lvl := 0, drain := 0, settok := 0, gneg := false, guard := 7, yield := false, stall := 0 }
  let a : FmtA := { pdst := 0, sat := false, rm := 0, type := 0, subop := 0, xmod := 0, srcC := .f 0, srcB := .f 0, srcA := .f 0, dst := .f 0 }
  let c : FmtC := { subop := 0, mode := 0, k := 0, size := 0, offset := 0, srcB := .f 0, srcA := .f 0 }
  decodeSlot 0x00004041B002010300114463
      = .ok (.ffma { h with drain := 1, gneg := true, guard := 2, stall := 4 }
          { a with type := 4, xmod := 0x41, srcC := .c 0x30, srcB := .f 2, srcA := .f 1, dst := .f 3 })
  ∧ decodeSlot 0x001001007A0301050000E304
      = .ok (.add { h with stall := 3 } { a with pdst := 2, subop := 1, srcC := .p 2, srcB := .f 3, srcA := .f 1, dst := .f 5 })
  ∧ decodeSlot 0x000084FFFFFC00000000E042 = .ok (.call h { c with k := 1, size := 4, offset := 0xFFFFFC })
  ∧ decodeSlot 0x000000000003007A0000E048 = .ok (.gate h { c with offset := 3, srcA := .p 2 })
  ∧ decodeSlot 0x00104000000005060004E0A2 = .ok (.xred { h with settok := 2 } { a with pdst := 2, type := 4, srcA := .f 5, dst := .f 6 })
  ∧ decodeSlot 0x0E22000081B161060004E0B5
      = .ok (.atom { h with settok := 2 } { scope := 3, order := 2, hbit := false, size := 2, subop := 2, offset := 0, data := .c 1
                                            index := .c 0x31, buf := .b 1, dst := .f 6 })
  ∧ decodeSlot 0x000A400000504A480002E0E4
      = .ok (.bfly { h with settok := 1 } { aux := .s 18, subop := 0, sparse := false, split := false, count := 0, stride := 0, acc := 0
                                            fmt := .s 16, opx := .s 10, opw := .s 8 })
  ∧ decodeSlot 0x000100000000B5560006E0D4
      = .ok (.ringgetFree { h with settok := 3 } { scope := 0, subop := 1, imm := 0, srcC := .f 0, srcB := .f 0, srcA := .c 0x35, dst := .s 22 })
  ∧ decodeSlot 0x00000400000000450000E0F0
      = .ok (.rdctr h { scope := 0, subop := 0, imm := 0x400, srcC := .f 0, srcB := .f 0, srcA := .f 0, dst := .s 5 })
  ∧ decodeSlot 0 = .ok (.nop { h with guard := 0 } a)
  ∧ decodeSlot 0x2B = .error .opcode
  ∧ decodeSlot (0x04 + 2 ^ 32 * 0xC0) = .error .format

/-! The machine as a whole -/

/-- From every state the machine goes on: no step ends in a fault or a refusal, and after it the issue latch is empty and no gang is
being executed. -/
def Obligations.EveryStepGoesOn : Prop := ∀ s : State, ∃ t, step s = .next t ∧ t.cur = none ∧ t.ir = [] ∧ t.probe = none

/-- Every step keeps home memory in its canonical form: addresses strictly rising, no byte listed that reads as an unlisted
one. -/
def Obligations.StepKeepsMemoryCanonical : Prop :=
  ∀ s t : State, Memory.wf s.mem = true → step s = .next t → Memory.wf t.mem = true

/-- After reset: nothing resident and nothing launched, memory canonical with nothing listed, the power limit 3,200 W
(R369), the clocks running, the tick 0, and the registers of every core's trace unit, of every interface and the wear word of every
island at the values of Tables 19.6, 21.6 and 19.3. That memory lists nothing, the domain word's 0 and that STOPTICK 0 stops nothing are
the model's choices (log entries 6, 46, 71). -/
def Obligations.ResetValues : Prop :=
  let s := State.reset
  Memory.wf s.mem = true ∧ s.mem = [] ∧ s.cores = [] ∧ s.launches = [] ∧ s.saved = [] ∧ s.limit = 3200 ∧ s.power = .running
  ∧ s.gated = false ∧ s.tick = 0 ∧ s.stopTick = 0 ∧ s.domainWord = 0
  ∧ (∀ c, let r := (s.core c).trace
      r.ctl = 0 ∧ r.en = false ∧ r.base = 0 ∧ r.size = 0 ∧ r.write = 0 ∧ r.read = 0 ∧ r.sync = 0 ∧ r.dropped = 0)
  ∧ (∀ v, let x := s.vi v
      x.dies = 0 ∧ x.regtab = 0 ∧ x.regcnt = 0 ∧ x.asidcnt = 0 ∧ x.asidbase = 0 ∧ x.asidtab = 0 ∧ x.msiaddr = 0 ∧ x.msidata = 0 ∧ x.evbase = 0
      ∧ x.ovf = false ∧ x.evtail = 0 ∧ x.evhead = 0 ∧ x.evsize = 0 ∧ x.subseq = 0 ∧ x.substat = 0 ∧ x.ctl = 0
      ∧ x.register 0x000 = 0x200 ∧ ∀ off ∈ [0x008, 0x010, 0x018, 0x020, 0x028, 0x030, 0x038, 0x040, 0x050, 0x058], x.register off = 0)
  ∧ ∀ i, i < 28 → let w := (s.island i).wear.toNat
      bitsAt w 48 16 = 0xFFFF ∧ bitsAt w 36 12 = 0 ∧ bitsAt w 24 12 = 0 ∧ bitsAt w 16 8 = 0 ∧ bitsAt w 8 8 = i ∧ bitsAt w 1 7 = 0 ∧ bitsAt w 0 1 = 0

/-! Instructions that only change registers -/

/-- What any of these instructions leaves as it was, where nothing looks on: memory and everything outside the core; in the
core everything but its warps and counters; the other warps; in the warp the slices outside the gang, and in the gang's
slices every register that is no destination of the instruction (the frame registers, scalar registers, buffer records,
predicates, masks and FSTATUS that R69 and R139 count as its destinations). It goes on to the next slot. -/
def Obligations.RegisterInstructionsChangeOnlyTheirDestinations : Prop :=
  ∀ (s : State) (u : Cur) (i : Instr), regOnly i = true → s.Issues u i → s.Unobserved u → s.FramesFit u →
    ∃ t, s.Completes u i t ∧ s.OnlyWarps t u ∧ s.OnlySlices t u
      ∧ (∀ j, j ∉ gangSlices u.gang → (t.sliceOf u j).still = (s.sliceOf u j).still)
      ∧ ∀ j ∈ gangSlices u.gang, (s.sliceOf u j).OnlyWrites (t.sliceOf u j) (s.warp u.core u.slot).rowB (Instr.uses i).2

/-- Integer results under each of the eight types, SAT 0, in both forms: the word that the instruction makes of its sources' low w
bits, modulo 2^w, extended by the type's signedness, stands in each executing lane's frame register (an even pair under the 64-bit
types), or in every slice's scalar of the gang when the gang's effect happens (R16, R75, R92 to R94, R96, R98, Tables 4.1 to 4.3). -/
def Obligations.IntegerResults : Prop :=
  ∀ ty ∈ integerTypes, ∀ op ∈ wordOps ty.signed ty.bits, ∀ (s : State) (u : Cur) (h : Header) (o : FmtA),
    o.type = ty.code → o.subop = 0 → o.sat = false → (∀ k, o.srcA ≠ .b k) → s.Issues u (op.1 h o) → s.Unstepped u →
    (ty.bits = 64 → s.FramesFit u) →
    let w := s.seen u (op.1 h o)
    ∃ t, s.Completes u (op.1 h o) t
      ∧ s.ResultIs t u (op.1 h o) o.dst (ty.bits = 64) (fun k => widened ty.signed
          (op.2 (BitVec.truncate ty.bits (w.operand1 u o k)) (BitVec.truncate ty.bits (w.operand u o.type o.srcB k))
            (BitVec.truncate ty.bits (w.operand u o.type o.srcC k))))

/-- The immediate forms under each of the eight types and in both forms: the result is made of the source and the immediate, of which
the narrow types use the low w bits, .s64 the sign-extension and .b64 the zero-extension (Table 3.5, R77, R96, R101). SHI shifts left
(SUBOP 0) or right (SUBOP 1). PDST receives the carry out of ADDI and the range flag of MULI (R95). -/
def Obligations.ImmediateResults : Prop :=
  ∀ ty ∈ integerTypes, ∀ op ∈ immediateOps ty.signed ty.bits, ∀ (s : State) (u : Cur) (h : Header) (o : FmtB),
    o.type = ty.code → s.Issues u (op.1 h o) → s.Unstepped u → (ty.bits = 64 → s.FramesFit u) →
    let imm : BitVec ty.bits := if ty.signed then BitVec.signExtend ty.bits o.imm else BitVec.zeroExtend ty.bits o.imm
    let a := fun k => (BitVec.truncate ty.bits ((s.seen u (op.1 h o)).operand u o.type o.srcA k) : BitVec ty.bits)
    let product := fun l => wordNum ty.signed (a (some l)) * wordNum ty.signed imm
    ∃ t, s.Completes u (op.1 h o) t
      ∧ s.ResultIs t u (op.1 h o) o.dst (ty.bits = 64) (fun k => widened ty.signed (op.2 o.subop (a k) imm))
      ∧ ∀ d, o.dst = .f d →
        (op.1 h o = .addi h o →
          s.PredsBecome t u (op.1 h o) o.pdst.toNat (fun l => decide (2 ^ ty.bits ≤ (a (some l)).toNat + imm.toNat)))
        ∧ (op.1 h o = .muli h o → s.PredsBecome t u (op.1 h o) o.pdst.toNat (fun l =>
            decide (product l < wordLeast ty.signed ty.bits) || decide (wordGreatest ty.signed ty.bits < product l)))

/-- ADD, SUB, NEG, MUL, MAD and ABS under every type, in both forms, with either SAT and with the carry-in of ADD and SUB: the exact
result wrapped (SAT 0) or clamped to the type's range (SAT 1); in the per-lane form PDST receives, with SAT 0, the unsigned carry or
borrow of ADD and SUB, and else whether the exact result lies outside the range (R94 to R96).
SETP and SETPI under each of the eight types: the predicate holds in each executing lane the outcome of the condition of Table 4.4 on
the sources' low w bits, ANDed with a predicate in the `.and` forms of SETP; sources without a frame register are compared once for the
gang (R103). -/
def Obligations.CarrySaturationAndCompareResults : Prop :=
  (∀ ty ∈ integerTypes, ∀ op ∈ exactOps, ∀ (s : State) (u : Cur) (h : Header) (o : FmtA),
    o.type = ty.code → s.Issues u (op.1 h o) → s.Unstepped u → (ty.bits = 64 → s.FramesFit u) →
    let w := s.seen u (op.1 h o)
    let a := fun k => (BitVec.truncate ty.bits (w.operand1 u o k) : BitVec ty.bits)
    let b := fun k => (BitVec.truncate ty.bits (w.operand u o.type o.srcB k) : BitVec ty.bits)
    let c := fun k => (BitVec.truncate ty.bits (w.operand u o.type o.srcC k) : BitVec ty.bits)
    let carry := fun k => if o.subop = 1 then decide (c k = 1) else false
    let third := fun k => if op.2.2.isSome then ((carry k).toNat : Int) else wordNum ty.signed (c k)
    let exact := fun k => op.2.1 (wordNum ty.signed (a k)) (wordNum ty.signed (b k)) (third k)
    let lo := wordLeast ty.signed ty.bits
    let hi := wordGreatest ty.signed ty.bits
    ∃ t, s.Completes u (op.1 h o) t
      ∧ s.ResultIs t u (op.1 h o) o.dst (ty.bits = 64) (fun k => widened ty.signed
          (BitVec.ofInt ty.bits (if o.sat then max lo (min (exact k) hi) else exact k)))
      ∧ ∀ d, o.dst = .f d → s.PredsBecome t u (op.1 h o) o.pdst.toNat (fun l =>
          match op.2.2, o.sat with
          | some f, false => f ty.bits (a (some l)).toNat (b (some l)).toNat (carry (some l)).toNat
          | _, _ => decide (exact (some l) < lo) || decide (hi < exact (some l))))
  ∧ (∀ ty ∈ integerTypes, ∀ (s : State) (u : Cur) (h : Header) (d : Fin 8), s.Unstepped u →
    (∀ o : FmtA, o.type = ty.code → o.dst = .p d → s.Issues u (.setp h o) →
      let w := s.seen u (.setp h o)
      let at_ := fun l => if Operand.isF o.srcA || Operand.isF o.srcB then some l else none
      ∃ t, s.Completes u (.setp h o) t ∧ s.PredsBecome t u (.setp h o) d (fun l =>
          wordCond ty.signed (o.subop.toNat % 8) (BitVec.truncate ty.bits (w.operand1 u o (at_ l)) : BitVec ty.bits)
            (BitVec.truncate ty.bits (w.operand u o.type o.srcB (at_ l)))
          && (decide (o.subop.toNat < 8) || decide (w.operand u o.type o.srcC (some l) = 1))))
    ∧ (∀ o : FmtB, o.type = ty.code → o.dst = .p d → s.Issues u (.setpi h o) →
      let imm : BitVec ty.bits := if ty.signed then BitVec.signExtend ty.bits o.imm else BitVec.zeroExtend ty.bits o.imm
      ∃ t, s.Completes u (.setpi h o) t ∧ s.PredsBecome t u (.setpi h o) d (fun l =>
          wordCond ty.signed o.subop.toNat
            (BitVec.truncate ty.bits ((s.seen u (.setpi h o)).operand u o.type o.srcA
              (if Operand.isF o.srcA then some l else none)) : BitVec ty.bits) imm)))

/-- POPC, CLZ, BREV, BFE and BFI under each of the eight types and in both forms (Table 4.3, R98, R99): the number of ones; the number
of zeros above the highest one, w for zero; the bits reversed; the field of length n at position q, extended by its sign under .s; b
with that field taken from the low bits of a. The control word has q in its bits 7:0 and n in its bits 15:8: that all 16 bits are read
under every type, the 8-bit ones too, is the model's choice (log entry 13; R99 against R93 and R94). -/
def Obligations.BitFieldResults : Prop :=
  ∀ ty ∈ integerTypes, ∀ (s : State) (u : Cur) (h : Header) (o : FmtA), o.type = ty.code → s.Unstepped u →
    (ty.bits = 64 → s.FramesFit u) →
    let a := fun (i : Instr) k => (BitVec.truncate ty.bits ((s.seen u i).operand1 u o k) : BitVec ty.bits)
    let b := fun (i : Instr) k => (BitVec.truncate ty.bits ((s.seen u i).operand u o.type o.srcB k) : BitVec ty.bits)
    let ctl := fun (i : Instr) (x : Operand) k => ((s.seen u i).operand u o.type x k).toNat
    let becomes := fun (i : Instr) (v : Option Nat → BitVec ty.bits) => ∃ t, s.Completes u i t
      ∧ s.ResultIs t u i o.dst (ty.bits = 64) (fun k => widened ty.signed (v k))
    (s.Issues u (.popc h o) → becomes (.popc h o) (fun k =>
      BitVec.ofNat ty.bits ((List.range ty.bits).countP (fun j => (a (.popc h o) k).getLsbD j))))
    ∧ (s.Issues u (.clz h o) → becomes (.clz h o) (fun k =>
      if a (.clz h o) k = 0 then BitVec.ofNat ty.bits ty.bits else BitVec.ofNat ty.bits (ty.bits - 1 - Nat.log2 (a (.clz h o) k).toNat)))
    ∧ (s.Issues u (.brev h o) → ∃ v, becomes (.brev h o) v
      ∧ ∀ k j, j < ty.bits → (v k).getLsbD j = (a (.brev h o) k).getLsbD (ty.bits - 1 - j))
    ∧ (s.Issues u (.bfe h o) → becomes (.bfe h o) (fun k =>
      let n := min ty.bits (ctl (.bfe h o) o.srcB k / 256 % 256)
      let x := (a (.bfe h o) k).toNat / 2 ^ (ctl (.bfe h o) o.srcB k % 256) % 2 ^ n
      BitVec.ofInt ty.bits (if ty.signed = true ∧ 0 < n ∧ 2 ^ (n - 1) ≤ x then (x : Int) - 2 ^ n else x)))
    ∧ (s.Issues u (.bfi h o) → ∃ v, becomes (.bfi h o) v
      ∧ ∀ k j, j < ty.bits → (v k).getLsbD j =
        let q := ctl (.bfi h o) o.srcC k % 256
        let n := min ty.bits (ctl (.bfi h o) o.srcC k / 256 % 256)
        if q ≤ j ∧ j < q + n then (a (.bfi h o) k).getLsbD (j - q) else (b (.bfi h o) k).getLsbD j)

/-- MOVIH writes the immediate to bits 63:32 and leaves bits 31:0; for an f pair it writes the odd register (R101). SEL
writes a where the lane's predicate is 1 and b elsewhere, under every type of Table 4.1 and .f32, .bf16 and .f16 (R102). MOV under
those float types copies 32 bits (R100); it moves one half of a buffer record, and leaves the other half of a record it writes. That
MOVIH to a scalar and the move to a half record keep the other half of each slice's own copy is the model's choice (log entry 102; R12
and R92 have one result for the gang). -/
def Obligations.MoveResults : Prop :=
  (∀ (s : State) (u : Cur) (h : Header) (o : FmtB), s.Issues u (.movih h o) → s.Unstepped u →
    ∃ t, s.Completes u (.movih h o) t
      ∧ (∀ d, o.dst = .s d → ∀ j ∈ gangSlices u.gang, Tab.get 0 (t.sliceOf u j).s d =
          if s.acts u (.movih h o) then o.imm ++ (BitVec.truncate 32 (Tab.get 0 (s.sliceOf u j).s d) : W32) else Tab.get 0 (s.sliceOf u j).s d)
      ∧ (∀ d, o.dst = .f d → s.LanesBecome t u (.movih h o) (d + 1) (fun _ => o.imm)))
  ∧ (∀ (s : State) (u : Cur) (h : Header) (o : FmtA) (d : Fin 64), o.dst = .f d → s.Issues u (.sel h o) → s.Unstepped u →
    s.FramesFit u →
    let w := s.seen u (.sel h o)
    let bits := if o.type = 2 ∨ o.type = 3 then 64 else if o.type = 8 ∨ o.type = 9 then 16 else if o.type = 10 ∨ o.type = 11 then 8 else 32
    ∃ t, s.Completes u (.sel h o) t ∧ s.LanesTake t u (.sel h o) (bits = 64) d (fun l =>
      widened (o.type = 1 || o.type = 3 || o.type = 9 || o.type = 11)
        (BitVec.truncate bits (if w.readP l (Operand.num o.srcC) then w.operand1 u o (some l) else w.operand u o.type o.srcB (some l)))))
  ∧ (∀ (s : State) (u : Cur) (h : Header) (o : FmtA), o.type = 4 ∨ o.type = 5 ∨ o.type = 6 → s.Issues u (.mov h o) → s.Unstepped u →
    ∃ t, s.Completes u (.mov h o) t
      ∧ s.ResultIs t u (.mov h o) o.dst False (fun k => BitVec.zeroExtend 64 (BitVec.truncate 32 ((s.seen u (.mov h o)).operand1 u o k) : W32)))
  ∧ (∀ (s : State) (u : Cur) (h : Header) (o : FmtA) (d : Fin 32) (k : Fin 16), o.dst = .s d → o.srcA = .b k →
    s.Issues u (.mov h o) → s.Unstepped u →
    ∃ t, s.Completes u (.mov h o) t ∧ s.ScalarBecomes t u (.mov h o) d
      (let r := (s.seen u (.mov h o)).readB u.gang k
       if o.subop = 1 then BitVec.truncate 64 (r >>> 64) else BitVec.truncate 64 r))
  ∧ (∀ (s : State) (u : Cur) (h : Header) (o : FmtA) (d : Fin 16) (k : Fin 32), o.dst = .b d → o.srcA = .s k →
    s.Issues u (.mov h o) → s.Unstepped u →
    ∃ t, s.Completes u (.mov h o) t ∧ ∀ j ∈ gangSlices u.gang,
      let old := Tab.get 0 (s.sliceOf u j).b d
      let v := (s.seen u (.mov h o)).readS u.gang k
      Tab.get 0 (t.sliceOf u j).b d =
        if s.acts u (.mov h o) then
          (if o.subop = 1 then v ++ (BitVec.truncate 64 old : W64) else (BitVec.truncate 64 (old >>> 64) : W64) ++ v)
        else old)

/-- MADW, LEA, SEXT and ZEXT in both forms: the 64-bit result (a × b + c) modulo 2^64 of 32-bit values a and b (R97); a + (b << shift)
modulo 2^64 (R104); a narrower value extended by its sign or by zeros, from 32 bits to a pair (R105). RDLANE gives the scalar a frame
register of lane q, zero-extended, or 0 for a lane outside the gang; WRLANE writes the scalar's low 32 bits to the frame register in
the one lane it names, where that lane executes (R106). -/
def Obligations.WideResultsAndSingleLanes : Prop :=
  (∀ (s : State) (u : Cur) (h : Header) (o : FmtA), s.Unstepped u → s.FramesFit u →
      let ext := fun x : W64 => if o.type = 1 then BitVec.signExtend 64 (BitVec.truncate 32 x : W32) else BitVec.zeroExtend 64 (BitVec.truncate 32 x : W32)
      (s.Issues u (.madw h o) → ∃ t, s.Completes u (.madw h o) t ∧ s.ResultIs t u (.madw h o) o.dst True (fun k =>
        let w := s.seen u (.madw h o)
        ext (w.operand1 u o k) * ext (w.operand u o.type o.srcB k) + w.operand u 2 o.srcC k))
      ∧ (s.Issues u (.lea h o) → ∃ t, s.Completes u (.lea h o) t ∧ s.ResultIs t u (.lea h o) o.dst True (fun k =>
        let w := s.seen u (.lea h o)
        w.operand1 u { o with type := 2 } k + (ext (w.operand u o.type o.srcB k) <<< o.subop.toNat)))
      ∧ (s.Issues u (.sext h o) → ∃ t, s.Completes u (.sext h o) t ∧ s.ResultIs t u (.sext h o) o.dst (o.type = 1) (fun k =>
        let x := (s.seen u (.sext h o)).operand1 u o k
        if o.type = 11 then BitVec.signExtend 64 (BitVec.truncate 8 x : BitVec 8)
        else if o.type = 9 then BitVec.signExtend 64 (BitVec.truncate 16 x : BitVec 16) else BitVec.signExtend 64 (BitVec.truncate 32 x : W32)))
      ∧ (s.Issues u (.zext h o) → ∃ t, s.Completes u (.zext h o) t ∧ s.ResultIs t u (.zext h o) o.dst (o.type = 0) (fun k =>
        let x := (s.seen u (.zext h o)).operand1 u o k
        if o.type = 10 then BitVec.zeroExtend 64 (BitVec.truncate 8 x : BitVec 8)
        else if o.type = 8 then BitVec.zeroExtend 64 (BitVec.truncate 16 x : BitVec 16) else BitVec.zeroExtend 64 (BitVec.truncate 32 x : W32))))
  ∧ (∀ (s : State) (u : Cur) (h : Header) (o : FmtA), s.Unstepped u →
      let q := fun i : Instr => ((s.seen u i).srcS u.gang 0 o.srcB).toNat % 32
      (∀ d, o.dst = .s d → s.Issues u (.rdlane h o) → ∃ t, s.Completes u (.rdlane h o) t ∧ s.ScalarBecomes t u (.rdlane h o) d
        (if u.gang.getLsbD (q (.rdlane h o) / 4) then
          BitVec.zeroExtend 64 ((s.seen u (.rdlane h o)).readF (q (.rdlane h o)) (Operand.num o.srcA)) else 0))
      ∧ (s.Issues u (.wrlane h o) → ∃ t, s.Completes u (.wrlane h o) t ∧ ∀ l, l < 32 →
        let w := s.seen u (.wrlane h o)
        (t.warp u.core u.slot).placeNow (w.placeF l (Operand.num o.dst))
          = if l = q (.wrlane h o) ∧ (s.lanes u (.wrlane h o)).getLsbD l = true then
              BitVec.zeroExtend 64 (BitVec.truncate 32 (w.srcS u.gang 0 o.srcA) : W32)
            else (s.warp u.core u.slot).placeNow (w.placeF l (Operand.num o.dst))))

/-! Predicates and masks -/

/-- PLOP, PMOV, PSETI, ANY and ALL: the destination predicate in each executing lane, the other lanes keeping theirs, source one
read under the cross-lane modifier (R83; of ANY, ALL and BALLOT the model's reading, log entry 101); PMOV from a
frame register tests it for nonzero and to one writes 0 or 1 (R107, R108, Tables 4.5 and 4.6); ANY and ALL combine the executing lanes of the gang or of the lane's slice,
and with scope warp raise COLLECTIVE, class H, where the gang does not hold every live slice (R109). -/
def Obligations.PredicateResults : Prop :=
  ∀ (s : State) (u : Cur) (h : Header) (d : Fin 8), s.Unstepped u →
    (∀ o : FmtA, o.dst = .p d → s.Issues u (.plop h o) → ∃ t, s.Completes u (.plop h o) t
      ∧ s.PredsBecome t u (.plop h o) d (fun l =>
        let w := s.seen u (.plop h o)
        let a := decide (w.operand1 u o (some l) = 1)
        let b := decide (w.operand u o.type o.srcB (some l) = 1)
        let c := decide (w.operand u o.type o.srcC (some l) = 1)
        match o.subop.toNat with
        | 0 => a && b
        | 1 => a || b
        | 2 => xor a b
        | 3 => a && !b
        | 4 => a || !b
        | 5 => !a
        | 6 => a && b && c
        | 7 => a || b || c
        | _ => if c then a else b))
    ∧ (∀ o : FmtA, o.dst = .p d → s.Issues u (.pmov h o) → ∃ t, s.Completes u (.pmov h o) t
      ∧ s.PredsBecome t u (.pmov h o) d (fun l =>
        let w := s.seen u (.pmov h o)
        match o.srcA with
        | .m k => (w.readM u.gang k).getLsbD l
        | _ => decide (w.operand1 u o (some l) ≠ 0)))
    ∧ (∀ (o : FmtA) (f : Fin 64), o.dst = .f f → s.Issues u (.pmov h o) → ∃ t, s.Completes u (.pmov h o) t
      ∧ s.LanesBecome t u (.pmov h o) f (fun l => BitVec.truncate 32 ((s.seen u (.pmov h o)).operand1 u o (some l))))
    ∧ (∀ o : FmtB, o.dst = .p d → s.Issues u (.pseti h o) → ∃ t, s.Completes u (.pseti h o) t
      ∧ s.PredsBecome t u (.pseti h o) d (fun l => o.imm.getLsbD l))
    ∧ (∀ (all : Bool) (o : FmtA), let i : Instr := if all then .allP h o else .anyP h o
        o.dst = .p d → s.Issues u i →
        (o.subop = 2 ∧ (s.seen u i).live ≠ u.gang → s.Stops u i (trapH 0x0C 0 (gangMask u.gang)))
        ∧ (¬ (o.subop = 2 ∧ (s.seen u i).live ≠ u.gang) → ∃ t, s.Completes u i t ∧ s.PredsBecome t u i d (fun l =>
            let unit := (List.range 32).filter (fun k => (s.lanes u i).getLsbD k && (decide (o.subop ≠ 1) || decide (k / 4 = l / 4)))
            let p := fun k => decide ((s.seen u i).operand1 u o (some k) = 1)
            if all then unit.all p else unit.any p)))

/-- MLOP, MMOV, BALLOT and MSETI write the gang's bits of a mask register, or a scalar zero-extended (R107 to R109, Tables 4.5 and
4.6), BALLOT reading its source under the cross-lane modifier, the model's choice (log entry 101); MFIRST, MCOUNT and MTOP give a scalar, or each executing lane, the lowest set bit, the number of set bits and the highest set bit
of a mask, 32 for the first and the last where none is set. -/
def Obligations.MaskResults : Prop :=
  ∀ (s : State) (u : Cur) (h : Header), s.Unstepped u →
    let put := fun (t : State) (i : Instr) (dst : Operand) (v : Mask32) =>
      (∀ d, dst = .m d → s.MaskBecomes t u i d v) ∧ (∀ d, dst = .s d → s.ScalarBecomes t u i d (BitVec.zeroExtend 64 v))
    (∀ o : FmtA, s.Issues u (.mlop h o) → ∃ t v, s.Completes u (.mlop h o) t
      ∧ put t (.mlop h o) o.dst v ∧ ∀ l, l < 32 →
        let w := s.seen u (.mlop h o)
        let p := fun x : Operand => (w.srcS u.gang 0 x).getLsbD l
        v.getLsbD l = match o.subop.toNat with
          | 0 => p o.srcA && p o.srcB
          | 1 => p o.srcA || p o.srcB
          | 2 => xor (p o.srcA) (p o.srcB)
          | 3 => p o.srcA && !p o.srcB
          | 4 => p o.srcA || !p o.srcB
          | 5 => !p o.srcA
          | 6 => p o.srcA && p o.srcB && p o.srcC
          | 7 => p o.srcA || p o.srcB || p o.srcC
          | _ => if p o.srcC then p o.srcA else p o.srcB)
    ∧ (∀ o : FmtA, s.Issues u (.mmov h o) → ∃ t, s.Completes u (.mmov h o) t
      ∧ put t (.mmov h o) o.dst (BitVec.truncate 32 ((s.seen u (.mmov h o)).srcS u.gang 0 o.srcA)))
    ∧ (∀ o : FmtA, s.Issues u (.ballot h o) → ∃ t v, s.Completes u (.ballot h o) t
      ∧ put t (.ballot h o) o.dst v
      ∧ ∀ l, l < 32 → v.getLsbD l =
        ((s.lanes u (.ballot h o)).getLsbD l && decide ((s.seen u (.ballot h o)).operand1 u o (some l) = 1)))
    ∧ (∀ (o : FmtB) (d : Fin 8), o.dst = .m d → s.Issues u (.mseti h o) → ∃ t, s.Completes u (.mseti h o) t
      ∧ s.MaskBecomes t u (.mseti h o) d (
        let old := (s.seen u (.mseti h o)).readM u.gang d
        if o.subop = 0 then o.imm else if o.subop = 1 then old ||| o.imm else old &&& ~~~ o.imm))
    ∧ (∀ o : FmtA,
        let m := fun i : Instr => (BitVec.truncate 32 ((s.seen u i).srcS u.gang 0 o.srcA) : Mask32)
        let gives := fun (i : Instr) (n : Nat) => ∃ t, s.Completes u i t ∧ s.ResultIs t u i o.dst False (fun _ => BitVec.ofNat 64 n)
        (s.Issues u (.mfirst h o) → ∃ n, gives (.mfirst h o) n
          ∧ n ≤ 32 ∧ (n < 32 → (m (.mfirst h o)).getLsbD n = true) ∧ ∀ k, k < n → (m (.mfirst h o)).getLsbD k = false)
        ∧ (s.Issues u (.mcount h o) → gives (.mcount h o) ((List.finRange 32).countP (fun k => (m (.mcount h o)).getLsbD k)))
        ∧ (s.Issues u (.mtop h o) → ∃ n, gives (.mtop h o) n
          ∧ (n = 32 ∨ n < 32 ∧ (m (.mtop h o)).getLsbD n = true)
          ∧ ∀ k, k < 32 → (n < k ∨ n = 32) → (m (.mtop h o)).getLsbD k = false))

/-- NOP and WAITK: the gang goes on to the next slot with every register as it was (R132, R133); WAITK does not issue while
its token stands above its level. -/
def Obligations.NopAndWaitkChangeNothing : Prop :=
  ∀ (s : State) (u : Cur) (i : Instr) (h : Header), ((∃ o, i = .nop h o) ∨ (∃ o, i = .waitk h o)) → s.Issues u i → s.Unstepped u →
    (∃ t, s.Completes u i t ∧ ∀ j, (t.sliceOf u j).still =
      if j ∈ gangSlices u.gang then { (s.sliceOf u j).still with pc := nextSlot (s.sliceOf u j).pc } else (s.sliceOf u j).still)
    ∧ ∀ o, i = .waitk h o → (s.warp u.core u.slot).takes u.gang h = true →
        Tab.get 0 (s.warp u.core u.slot).tok o.subop.toNat ≤ o.offset.toNat % 64

/-! Floating point -/

/-- Rounding to a multiple of 2^s under the four modes of Table 2.4: nearest with ties to even, toward zero, toward −∞ and toward +∞;
it is inexact exactly where the value is no such multiple (R52). An encoding that rounding delivers without overflow reads back as the
rounded multiple of the last place of its range, the exponent of a subnormal at least (R45, R53); and one that is exact raises no
flag. -/
def Obligations.RoundingFollowsItsMode : Prop :=
  (∀ (neg : Bool) (m s : Nat) (e : Int), 0 < s →
      let r := fun rm : Nat => (roundAt rm neg m e (e + s)).1
      (∀ rm, (roundAt rm neg m e (e + s)).2 = decide (¬ 2 ^ s ∣ m))
      ∧ (2 * m ≤ (2 * r 0 + 1) * 2 ^ s ∧ 2 * r 0 * 2 ^ s ≤ 2 * m + 2 ^ s
          ∧ ((2 * m = (2 * r 0 + 1) * 2 ^ s ∨ 2 * r 0 * 2 ^ s = 2 * m + 2 ^ s) → r 0 % 2 = 0))
      ∧ (r 1 * 2 ^ s ≤ m ∧ m < (r 1 + 1) * 2 ^ s)
      ∧ (if neg then m ≤ r 2 * 2 ^ s ∧ r 2 * 2 ^ s < m + 2 ^ s else r 2 * 2 ^ s ≤ m ∧ m < (r 2 + 1) * 2 ^ s)
      ∧ (if neg then r 3 * 2 ^ s ≤ m ∧ m < (r 3 + 1) * 2 ^ s else m ≤ r 3 * 2 ^ s ∧ r 3 * 2 ^ s < m + 2 ^ s))
  ∧ (∀ F ∈ [fp32, bf16, fp16, fp64], ∀ (rm : Nat) (neg : Bool) (m : Nat) (e : Int), 0 < m →
      let q := max (e + Nat.log2 m - F.mb) F.lowExp
      let r := F.round rm neg m e
      r.flags &&& flOF = 0 →
        (F.decode r.bits).rat = (FVal.fin neg (roundAt rm neg m e q).1 q).rat
        ∧ ((roundAt rm neg m e q).2 = false → r.flags = 0))

/-- NaNs: an operand that is a NaN makes a sum of products, a reciprocal, a root, a rounding to an integer (FRND) and a conversion the canonical
quiet NaN of the format, and NV is raised exactly where an operand is signalling (R46, R54, R56); the canonical NaNs are those of
Table 2.2. -/
def Obligations.NanResultsAreCanonical : Prop :=
  fp32.nanBits = 0x7FC00000 ∧ bf16.nanBits = 0x7FC0 ∧ fp16.nanBits = 0x7E00 ∧ fp64.nanBits = 0x7FF8000000000000
  ∧ ∀ (F : Fmt) (rm : Nat),
    (∀ (ps : List (FVal × FVal)) (as : List FVal), (ps.flatMap (fun p => [p.1, p.2]) ++ as).any FVal.isNan = true →
      F.dot rm ps as = { bits := F.nanBits, flags := if (ps.flatMap (fun p => [p.1, p.2]) ++ as).any FVal.isSnan then flNV else 0 })
    ∧ ∀ a : FVal, a.isNan = true →
      let out : FOut := { bits := F.nanBits, flags := if a.isSnan then flNV else 0 }
      F.recip rm a = out ∧ F.sqrt rm a = out ∧ F.convert rm a = out ∧ ∀ x, F.decode x = a → F.frnd rm x = out

/-- FABS clears the sign bit and FNEG inverts it; a NaN gives the canonical NaN, and a signalling one raises NV (R144). -/
def Obligations.FabsAndFnegActOnTheSign : Prop :=
  ∀ F ∈ [fp32, bf16, fp16], ∀ x : Nat, x < 2 ^ F.width →
    let nan := bitsAt x F.mb F.eb = 2 ^ F.eb - 1 ∧ bitsAt x 0 F.mb ≠ 0
    let snan := nan ∧ bitsAt x (F.mb - 1) 1 = 0
    (nan → ∀ f, F.signOp f x = { bits := F.nanBits, flags := if snan then flNV else 0 })
    ∧ (¬ nan → F.signOp (fun _ => false) x = { bits := x % 2 ^ (F.width - 1), flags := 0 }
        ∧ F.signOp (fun n => !n) x = { bits := (x + 2 ^ (F.width - 1)) % 2 ^ F.width, flags := 0 })

/-- The instructions of Table 6.2 in both forms: the destination holds the result of its element under .f32 and of both halves under
.bf16 and .f16, and FSTATUS gains the flags, per slice from its executing lanes or for the whole gang in the scalar form (R47, R92,
R139, R141). -/
def Obligations.FloatResults : Prop :=
  ∀ op ∈ elementOps, ∀ (s : State) (u : Cur) (h : Header) (o : FmtA),
    s.Issues u (op.1 h o) → s.Unstepped u →
    let w := s.seen u (op.1 h o)
    let F := if o.type = 4 then fp32 else if o.type = 5 then bf16 else fp16
    let half := fun (x : W64) (j : Nat) => x.toNat / 2 ^ (16 * j) % 2 ^ 16
    let r := fun (k : Option Nat) (j : Nat) =>
      let a := w.operand1 u o k
      let b := w.operand u o.type o.srcB k
      let c := w.operand u o.type o.srcC k
      if o.type = 4 then op.2 o.rm.toNat F (a.toNat % 2 ^ 32) (b.toNat % 2 ^ 32) (c.toNat % 2 ^ 32)
      else op.2 o.rm.toNat F (half a j) (half b j) (half c j)
    ∃ t, s.Completes u (op.1 h o) t
      ∧ s.ResultIs t u (op.1 h o) o.dst False
          (fun k => BitVec.ofNat 64 (if o.type = 4 then (r k 0).bits else (r k 0).bits + 65536 * (r k 1).bits))
      ∧ s.FlagsAre t u (op.1 h o) o.dst (fun k => if o.type = 4 then (r k 0).flags else (r k 0).flags ||| (r k 1).flags)

/-- FRSQ, FEXP2, FLOG2, FADDI, FMULI and FDOT2 in both forms: FADDI and FMULI under .f32 on one value and under .bf16 and .f16 on the
packed pair of the immediate, FDOT2 adding two products of halves and an FP32 addend exactly and rounding once (R141, R142). FRSQ, FEXP2
and FLOG2 give the special results of Table 6.5 and exact results with no flag, and else one of the two FP32 values beside the exact
result, with NX, with UF where FEXP2's lies below 2^-126, and +∞ with OF where that reaches 2^128 (R148). Of FEXP2 and FLOG2 the
neighbours are those of a number within 2^-80 of the exact result, relatively: that it has the same neighbours is the model's choice
(log entry 4), and so is which of the two is given. -/
def Obligations.OtherFloatResults : Prop :=
  (∀ a : W32,
    let x := a.toNat
    let v := real32 x
    let nan : FOut := { bits := fp32.nanBits, flags := flNV }
    (∀ sg, fp32.decode x = .nan sg → ∀ f ∈ [frsqOut, fexp2Out, flog2Out], f a = { bits := fp32.nanBits, flags := if sg then flNV else 0 })
    ∧ (∀ n, fp32.decode x = .inf n →
      frsqOut a = (if n then nan else { bits := 0, flags := 0 })
      ∧ fexp2Out a = { bits := if n then 0 else fp32.infBits, flags := 0 }
      ∧ flog2Out a = (if n then nan else { bits := fp32.infBits, flags := 0 }))
    ∧ (∀ n e, fp32.decode x = .fin n 0 e →
      frsqOut a = { bits := fp32.sign n + fp32.infBits, flags := flDZ } ∧ fexp2Out a = { bits := 0x3F800000, flags := 0 }
      ∧ flog2Out a = { bits := fp32.sign true + fp32.infBits, flags := flDZ })
    ∧ (finite32 x → v < 0 → frsqOut a = nan ∧ flog2Out a = nan)
    ∧ (finite32 x → 0 < v →
      let y := frsqOut a
      Faithful y.bits (1 / Real.sqrt v) ∧ y.flags = if (fp32.decode y.bits).rat ^ 2 * (fp32.decode x).rat = 1 then 0 else flNX)
    ∧ (finite32 x → v ≠ 0 →
      let y := fexp2Out a
      (128 ≤ v → y = { bits := fp32.infBits, flags := flOF ||| flNX })
      ∧ (∀ k : Int, v = k → -149 ≤ k → k ≤ 127 → (fp32.decode y.bits).rat = (2 : ℚ) ^ k ∧ y.flags = 0)
      ∧ (v < 128 → (∀ k : Int, v = k → k < -149) →
        (∃ q : ℝ, |q - (2 : ℝ) ^ v| ≤ (2 : ℝ) ^ (-80 : ℝ) * (2 : ℝ) ^ v ∧ Faithful y.bits q) ∧ y.bits < 2 ^ 31
        ∧ (v < -126 → y.flags = flNX ||| flUF) ∧ (-126 ≤ v → y.flags = flNX)))
    ∧ (finite32 x → 0 < v →
      let y := flog2Out a
      let l := Real.logb 2 v
      (∀ k : Int, v = (2 : ℝ) ^ k → (fp32.decode y.bits).rat = k ∧ y.flags = 0)
      ∧ ((∀ k : Int, v ≠ (2 : ℝ) ^ k) → y.flags = flNX ∧ ∃ q : ℝ, |q - l| ≤ (2 : ℝ) ^ (-80 : ℝ) * |l| ∧ Faithful y.bits q)))
  ∧ ∀ (s : State) (u : Cur) (h : Header), s.Unstepped u →
    (∀ o : FmtA,
      (∀ op ∈ [((Instr.frsq, frsqOut) : (Header → FmtA → Instr) × (W32 → FOut)), (.fexp2, fexp2Out), (.flog2, flog2Out)],
        s.Issues u (op.1 h o) →
        let r := fun k => op.2 (BitVec.truncate 32 ((s.seen u (op.1 h o)).operand1 u o k))
        ∃ t, s.Completes u (op.1 h o) t ∧ s.ResultIs t u (op.1 h o) o.dst False (fun k => BitVec.ofNat 64 (r k).bits)
          ∧ s.FlagsAre t u (op.1 h o) o.dst (fun k => (r k).flags))
      ∧ (s.Issues u (.fdot2 h o) →
        let w := s.seen u (.fdot2 h o)
        let F := if o.type = 5 then bf16 else fp16
        let half := fun (x : W64) (j : Nat) => F.decode (x.toNat / 2 ^ (16 * j) % 2 ^ 16)
        let r := fun k =>
          let a := w.operand1 u o k
          let b := w.operand u o.type o.srcB k
          fp32.dot o.rm.toNat [(half a 0, half b 0), (half a 1, half b 1)] [fp32.decode ((w.operand u 4 o.srcC k).toNat % 2 ^ 32)]
        ∃ t, s.Completes u (.fdot2 h o) t ∧ s.ResultIs t u (.fdot2 h o) o.dst False (fun k => BitVec.ofNat 64 (r k).bits)
          ∧ s.FlagsAre t u (.fdot2 h o) o.dst (fun k => (r k).flags)))
    ∧ (∀ (o : FmtB) (mul : Bool), let i : Instr := if mul then .fmuli h o else .faddi h o
        s.Issues u i →
        let F := if o.type = 4 then fp32 else if o.type = 5 then bf16 else fp16
        let r := fun (k : Option Nat) (j : Nat) =>
          let x := fun v : Nat => F.decode (if o.type = 4 then v % 2 ^ 32 else v / 2 ^ (16 * j) % 2 ^ 16)
          let a := x ((s.seen u i).operand u o.type o.srcA k).toNat
          if mul then F.dot o.rm.toNat [(a, x o.imm.toNat)] [] else F.dot o.rm.toNat [] [a, x o.imm.toNat]
        ∃ t, s.Completes u i t
          ∧ s.ResultIs t u i o.dst False
              (fun k => BitVec.ofNat 64 (if o.type = 4 then (r k 0).bits else (r k 0).bits + 65536 * (r k 1).bits))
          ∧ s.FlagsAre t u i o.dst (fun k => if o.type = 4 then (r k 0).flags else (r k 0).flags ||| (r k 1).flags))

/-- FSETP, DSETP and FCLASS: the predicate holds the outcome of the condition of Table 6.3, a pair with a NaN being unordered and
−0 equal to +0, ANDed with a predicate in the `.and` forms (R145); FCLASS gives the class mask with one bit set, or tests it
against a mask (R146). -/
def Obligations.FloatCompareAndClass : Prop :=
  (∀ (wide : Bool) (s : State) (u : Cur) (h : Header) (o : FmtA) (d : Fin 8),
    let i : Instr := if wide then .dsetp h o else .fsetp h o
    o.dst = .p d → s.Issues u i → s.Unstepped u →
    let F := if wide then fp64 else fp32
    let w := s.seen u i
    let a := fun l => F.decode ((w.src1 u.gang o.xmod o.type o.srcA l).toNat % 2 ^ F.width)
    let b := fun l => F.decode ((w.src u.gang o.type o.srcB l).toNat % 2 ^ F.width)
    let nan := fun l => (a l).isNan || (b l).isNan
    let snan := fun l => (a l).isSnan || (b l).isSnan
    ∃ t, s.Completes u i t
      ∧ s.PredsBecome t u i d (fun l =>
        (match o.subop.toNat % 8 with
          | 0 => !nan l && (a l).cmp (b l) == .eq
          | 1 => nan l || (a l).cmp (b l) != .eq
          | 2 => !nan l && (a l).cmp (b l) == .lt
          | 3 => !nan l && (a l).cmp (b l) != .gt
          | 4 => !nan l && (a l).cmp (b l) == .gt
          | 5 => !nan l && (a l).cmp (b l) != .lt
          | 6 => nan l
          | _ => !nan l)
        && (decide (o.subop.toNat < 8) || decide (w.src u.gang o.type o.srcC l = 1)))
      ∧ s.FlagsRaised t u i (fun l => if (if 2 ≤ o.subop.toNat % 8 ∧ o.subop.toNat % 8 ≤ 5 then nan l else snan l) then flNV else 0))
  ∧ (∀ (s : State) (u : Cur) (h : Header) (o : FmtA), s.Issues u (.fclass h o) → s.Unstepped u →
    let cls := fun l => fp32.classMask (((s.seen u (.fclass h o)).src1 u.gang o.xmod 4 o.srcA l).toNat % 2 ^ 32)
    ∃ t, s.Completes u (.fclass h o) t
      ∧ (∀ l, ∃ k, k < 10 ∧ cls l = 2 ^ k)
      ∧ (∀ d : Fin 64, o.dst = .f d → s.LanesBecome t u (.fclass h o) d (fun l => BitVec.ofNat 32 (cls l)))
      ∧ (∀ d : Fin 8, o.dst = .p d → s.PredsBecome t u (.fclass h o) d (fun l =>
          decide (cls l &&& (((s.seen u (.fclass h o)).srcS u.gang 0 o.srcB).toNat % 1024) ≠ 0))))

/-- The FP64 extension: on the two wide dies the destination, a scalar or an even pair of frame registers, receives the FP64 result and
FSTATUS its flags (R16, R47, R139, R149); on a standard die every instruction of opcodes 0x88 to 0x8F raises FEATURE, class Q, before
any other check of its fields (R84, R86). -/
def Obligations.DoubleResultsAndFeature : Prop :=
  (∀ op ∈ doubleOps, ∀ (s : State) (u : Cur) (h : Header) (o : FmtA),
    s.Issues u (op.1 h o) → s.Unstepped u → s.FramesFit u →
    let w := s.seen u (op.1 h o)
    let r := fun k => op.2 o.rm.toNat (w.operand1 u o k).toNat (w.operand u o.type o.srcB k).toNat (w.operand u o.type o.srcC k).toNat
    ∃ t, s.Completes u (op.1 h o) t ∧ s.ResultIs t u (op.1 h o) o.dst True (fun k => BitVec.ofNat 64 (r k).bits)
      ∧ s.FlagsAre t u (op.1 h o) o.dst (fun k => (r k).flags))
  ∧ (∀ (s : State) (u : Cur) (i : Instr), 0x88 ≤ Instr.opcode i → Instr.opcode i ≤ 0x8F → u.core / 64 < 6 →
    s.cur = some u → s.standing u = true → u.pos ≠ .probe → s.heldNow u = false → s.deliverPending u.core u.slot u.gang = none →
    s.Stops u i
      { cause := 0x02, cls := .q, sub := 0, mask := gangMask u.gang, addrs := [], code := 0, resumeNext := false })

/-! Conversions and cross-lane instructions -/

/-- CVT in both forms, between every two formats (R61, R62, R150, Table 6.7): from a float format to a float one rounded in the
mode; to an integer, .s64 with it, the value rounded in the mode and clamped, 0 for a NaN, NV for a NaN, an infinity or a clamped value,
and else NX where it is inexact; from an integer to a float one rounded; between integers wrapped, or clamped under SAT, with no flag. The source is the part HSEL selects; a 16-bit float
takes one half of the destination, the other half unchanged, and a narrow integer is sign-extended. A scalar receives a result of 32 bits
with zeros above, the model's choice (log entry 40), as is the width in which a constant is read (log entry 128).
PCVT (R50, R63, R151). Packing: mantissa k of the c elements stands in bits n·k + n − 1 to n·k of the destination, zeros above: the
element divided by 2^(E − 127), rounded and clamped, NX where inexact and SAT with NX where clamped; 0 and NV for a NaN and under E 255; the extreme of its sign, NV and SAT for an
infinity. Expanding: element k is mantissa k times 2^(E − 127), rounded, or the
canonical NaN where E is 255; FP32 elements take c registers from the destination upward, BF16 and FP16 elements two to a register.
FSTATUS gains the flags. A constant exponent is read as an integer (log entry 127). -/
def Obligations.ConversionResults : Prop :=
  (∀ (s : State) (u : Cur) (h : Header) (o : FmtA), s.Issues u (.cvt h o) → s.Unstepped u → s.FramesFit u →
    let w := s.seen u (.cvt h o)
    let bitsOf := fun c : BitVec 4 => if c = 3 then 64 else if c = 4 then 8 else if c = 1 ∨ c = 2 ∨ c = 5 then 16 else 32
    let F := fun c : BitVec 4 => if c = 0 then fp32 else if c = 1 then bf16 else if c = 2 then fp16 else fp64
    let type : BitVec 4 := match o.subop.toNat with | 0 => 4 | 1 => 5 | 2 => 6 | 3 => 7 | 4 => 11 | 5 => 9 | _ => 1
    let rm := o.rm.toNat
    let high := decide (4 ≤ o.pdst.toNat)
    let b := bitsOf o.subop
    let x := fun k => (w.operand1 u { o with type := type } k).toNat / 2 ^ (b * (o.pdst.toNat % 4)) % 2 ^ b
    let num := fun k => (BitVec.ofNat b (x k)).toInt
    let val := fun k => (F o.subop).decode (x k)
    let wide := o.type = 3 ∨ o.type = 6 ∧ high = true
    let n := if o.type = 6 ∧ high = true then 64 else bitsOf o.type
    let lo : Int := -2 ^ (n - 1)
    let hi : Int := 2 ^ (n - 1) - 1
    let float := fun k => if 4 ≤ o.subop.toNat then (F o.type).round rm (decide (num k < 0)) (num k).natAbs 0 else (F o.type).convert rm (val k)
    let rounded := fun (neg : Bool) (m : Nat) (e : Int) => if neg then -((roundAt rm neg m e 0).1 : Int) else (roundAt rm neg m e 0).1
    let int := fun k =>
      if 4 ≤ o.subop.toNat then (if o.sat then max lo (min (num k) hi) else num k)
      else match val k with
        | .nan _ => 0
        | .inf neg => if neg then lo else hi
        | .fin neg m e => max lo (min (rounded neg m e) hi)
    let intFlags : Option Nat → W32 := fun k =>
      if 4 ≤ o.subop.toNat then 0
      else match val k with
        | .fin neg m e => if rounded neg m e < lo ∨ hi < rounded neg m e then flNV else if (roundAt rm neg m e 0).2 then flNX else 0
        | _ => flNV
    let old := fun k => match k, o.dst with
      | some l, .f d => BitVec.zeroExtend 64 (w.readF l d)
      | _, .s d => w.readS u.gang d
      | _, _ => 0
    let out : Option Nat → W64 := fun k =>
      if 4 ≤ o.type.toNat then BitVec.signExtend 64 (BitVec.ofInt n (int k))
      else if o.type = 1 ∨ o.type = 2 then
        if high then BitVec.ofNat 64 ((float k).bits * 65536) ||| (old k &&& 0xFFFF) else old k &&& 0xFFFF0000 ||| BitVec.ofNat 64 (float k).bits
      else BitVec.ofNat 64 (float k).bits
    ∃ t, s.Completes u (.cvt h o) t
      ∧ s.ResultIs t u (.cvt h o) o.dst wide (fun k => if wide then out k else BitVec.zeroExtend 64 (BitVec.truncate 32 (out k) : W32))
      ∧ s.FlagsAre t u (.cvt h o) o.dst (fun k => if o.type.toNat < 4 then (float k).flags else intFlags k))
  ∧ (∀ (s : State) (u : Cur) (h : Header) (o : FmtA) (d : Fin 64), o.dst = .f d → s.Issues u (.pcvt h o) → s.Unstepped u → s.FramesFit u →
    let w := s.seen u (.pcvt h o)
    let c := 2 ^ (o.pdst.toNat + 1)
    let exp := fun l => (w.src u.gang 0 o.srcB l).toNat % 256
    let flagsOf := fun f : Nat → W32 => ((List.range c).map f).foldl (· ||| ·) 0
    (fcBfp o.subop = false →
      let n := o.type.toNat - 7
      let lo : Int := -2 ^ (n - 1)
      let hi : Int := 2 ^ (n - 1) - 1
      let a := Operand.num o.srcA
      let x := fun l k =>
        if o.subop = 0 then fp32.decode (w.readF l (a + k)).toNat
        else (if o.subop = 1 then bf16 else fp16).decode ((w.readF l (a + k / 2)).toNat / 2 ^ (16 * (k % 2)) % 2 ^ 16)
      let pack : Nat → Nat → Int × W32 := fun l k =>
        if exp l = 255 then (0, flNV)
        else match x l k with
          | .nan _ => (0, flNV)
          | .inf neg => (if neg then lo else hi, flNV ||| flSAT)
          | .fin neg m e =>
            let r := roundAt o.rm.toNat neg m e ((exp l : Int) - 127)
            let q : Int := if neg then -(r.1 : Int) else r.1
            (max lo (min q hi), if q < lo ∨ hi < q then flSAT ||| flNX else if r.2 then flNX else 0)
      ∃ t v, s.Completes u (.pcvt h o) t ∧ s.LanesBecome t u (.pcvt h o) d v
        ∧ (∀ l, (v l).toNat < 2 ^ (c * n)
          ∧ ∀ k, k < c → (v l).toNat / 2 ^ (n * k) % 2 ^ n = ((pack l k).1 % (2 ^ n : Nat)).toNat)
        ∧ s.FlagsRaised t u (.pcvt h o) (fun l => flagsOf (fun k => (pack l k).2)))
    ∧ (fcBfp o.subop = true →
      let n := o.subop.toNat - 7
      let F := if o.type = 0 then fp32 else if o.type = 1 then bf16 else fp16
      let mant := fun l k => (BitVec.ofNat n ((w.src u.gang 0 o.srcA l).toNat / 2 ^ (n * k))).toInt
      let elem : Nat → Nat → FOut := fun l k =>
        if exp l = 255 then { bits := F.nanBits, flags := 0 }
        else F.round o.rm.toNat (decide (mant l k < 0)) (mant l k).natAbs ((exp l : Int) - 127)
      ∃ t, s.Completes u (.pcvt h o) t
        ∧ (o.type = 0 → ∀ k, k < c → s.LanesBecome t u (.pcvt h o) (d + k) (fun l => BitVec.ofNat 32 (elem l k).bits))
        ∧ (o.type ≠ 0 → ∀ k, k < c / 2 → s.LanesBecome t u (.pcvt h o) (d + k) (fun l =>
            BitVec.ofNat 32 ((elem l (2 * k)).bits + 65536 * (elem l (2 * k + 1)).bits)))
        ∧ s.FlagsRaised t u (.pcvt h o) (fun l => flagsOf (fun k => (elem l k).flags))))

/-- XSHF and XBCAST under .b32 and .b64: each executing lane receives the register, or the pair, of the lane that the entry names, zero or
its own value where that lane lies outside the warp, outside the slice of a `.slice` form, or outside the gang (R153, R154). -/
def Obligations.CrossLaneResults : Prop :=
  ∀ (s : State) (u : Cur) (h : Header) (o : FmtA) (d : Fin 64), o.dst = .f d → s.Unstepped u → s.FramesFit u →
    let reg := fun (i : Instr) (q : Nat) => (s.seen u i).src u.gang o.type o.srcA q
    (s.Issues u (.xshf h o) → ∃ t, s.Completes u (.xshf h o) t ∧ s.LanesTake t u (.xshf h o) (o.type = 2) d (fun l =>
      let q := shuffled o.subop l ((s.seen u (.xshf h o)).src u.gang 0 o.srcB l).toNat
      if 0 ≤ q ∧ q ≤ 31 ∧ (o.subop.getLsbD 3 = true → q.toNat / 4 = l / 4) ∧ u.gang.getLsbD (q.toNat / 4) = true then
        reg (.xshf h o) q.toNat
      else if o.subop.getLsbD 2 then reg (.xshf h o) l else 0))
    ∧ (s.Issues u (.xbcast h o) → ∃ t, s.Completes u (.xbcast h o) t ∧ s.LanesTake t u (.xbcast h o) (o.type = 2) d (fun l =>
      let n := ((s.seen u (.xbcast h o)).srcS u.gang 0 o.srcB).toNat
      let q := if o.subop = 1 then 4 * (l / 4) + n % 4 else n % 32
      if u.gang.getLsbD (q / 4) then reg (.xbcast h o) q else 0))

/-- XRED and XSCAN (R155): under scope `.warp` they raise COLLECTIVE, class H, where the gang does not hold every live slice, and else put
in flight, on the token, the values that its steps give, each step's pair combined by the operation of Table 6.8 with the lower lane
first: for each executing lane of a frame register, or for the gang's scalar that of the lowest executing lane, zero-extended; the
identity where a lane has nothing; and the flags of the steps of executing lanes. XRED combines lane l with lane l XOR d; XSCAN with
lane l − d where that lies in its scope unit, from the value one lane lower in the exclusive form. An integer result is therefore the
operation over the contributing lanes of the scope unit, and in the scan up to its own lane or below it (for a gang scan, where the gang
is all eight slices). That a step to a lane outside a gang with a gap leaves the lane's value is the model's choice (log entry 86). -/
def Obligations.ReductionsCombineTheirLanes : Prop :=
  ∀ (scan : Bool) (s : State) (u : Cur) (h : Header) (o : FmtA),
    let i : Instr := if scan then .xscan h o else .xred h o
    s.Issues u i → s.Unstepped u →
    let w := s.seen u i
    let whole := o.pdst = 2 ∧ w.live ≠ u.gang
    let signed := decide (o.type = 1)
    let le := fun a b : W32 => if signed then a.sle b else a.ule b
    let op := o.subop.toNat % 8
    let combine := fun a b : W32 => match op with
      | 0 => a + b
      | 1 => if le a b then a else b
      | 2 => if le a b then b else a
      | 3 => a &&& b
      | 4 => a ||| b
      | _ => a ^^^ b
    let float := fun a b : W32 => match op with
      | 0 => fp32.dot o.rm.toNat [] [fp32.decode a.toNat, fp32.decode b.toNat]
      | 1 => fp32.minMax false a.toNat b.toNat
      | _ => fp32.minMax true a.toNat b.toNat
    let f : W32 → W32 → W32 × W32 := fun a b =>
      if o.type = 4 then (BitVec.ofNat 32 (float a b).bits, (float a b).flags) else (combine a b, 0)
    let identity : W32 := match op with
      | 1 => if o.type = 4 then 0x7F800000 else if signed then 0x7FFFFFFF else 0xFFFFFFFF
      | 2 => if o.type = 4 then 0xFF800000 else if signed then 0x80000000 else 0
      | 3 => 0xFFFFFFFF
      | _ => 0
    let active := fun l => (s.lanes u i).getLsbD l
    let a := fun l => (BitVec.truncate 32 (w.src u.gang o.type o.srcA l) : W32)
    let v := fun l => if active l then some (a l) else none
    let unit := fun l k : Nat =>
      if o.pdst = 0 then u.gang.getLsbD (l / 4) && u.gang.getLsbD (k / 4) else if o.pdst = 1 then decide (l / 4 = k / 4) else true
    let excl := scan && o.subop.getLsbD 3
    let start := fun l => if excl then (if l ≠ 0 ∧ unit l (l - 1) = true then v (l - 1) else none) else v l
    let other := fun d l : Nat =>
      if scan then (if d ≤ l ∧ unit l (l - d) = true then some (l - d) else none) else some (l ^^^ d)
    let run := treeRun f (s.lanes u i) other (if o.pdst = 1 then [1, 2] else [1, 2, 4, 8, 16]) start
    let value := fun l => (run.1 l).getD identity
    let first := match (List.range 32).find? active with | some l => value l | none => identity
    let total := fun lanes : List Nat => (lanes.map a).foldl combine identity
    (whole → s.Stops u i (trapH 0x0C 0 (gangMask u.gang)))
    ∧ (¬ whole → ∃ t ws, s.Completes u i t ∧ s.Posts t u h.settok.toNat (.regs ws run.2)
      ∧ (∀ d, o.dst = .f d → ∀ e, e ∈ ws ↔ ∃ l, l < 32 ∧ active l = true ∧ e = (w.placeF l d, BitVec.zeroExtend 64 (value l)))
      ∧ (∀ d, o.dst = .s d → ∀ e, e ∈ ws ↔ s.acts u i = true ∧ ∃ j ∈ gangSlices u.gang, e = (.sreg j d, BitVec.zeroExtend 64 first))
      ∧ (o.type ≠ 4 → (scan = true → o.pdst = 0 → u.gang = 0xFF) → ∀ l, l < 32 → active l = true → value l = total
          ((List.range 32).filter (fun k => active k && unit l k && (!scan || decide (k < l) || (!excl && decide (k = l)))))))

/-- QBLK, XRED and XSCAN put their results in flight on the token and go on (R74, R152, R155): QBLK the block's exponent for the
scalar and each executing lane's mantissas; a scope that needs every live slice raises COLLECTIVE, class H, where the gang does not
hold them all. -/
def Obligations.CollectiveInstructionsPostTheirResults : Prop :=
  ∀ (s : State) (u : Cur) (h : Header) (o : FmtA), s.Unstepped u →
    (∀ i : Instr, (i = .qblk h o ∨ (o.pdst = 2 ∧ (i = .xred h o ∨ i = .xscan h o))) → s.Issues u i →
      (s.seen u i).live ≠ u.gang → s.Stops u i (trapH 0x0C 0 (gangMask u.gang)))
    ∧ (∀ i : Instr, (i = .qblk h o ∨ i = .xred h o ∨ i = .xscan h o) → s.Issues u i →
      (s.seen u i).live = u.gang →
      ∃ t ws fl, s.Completes u i t
        ∧ s.Posts t u h.settok.toNat (.regs ws fl)
        ∧ (i = .qblk h o →
          let w := s.seen u i
          let k := 2 ^ o.pdst.toNat
          let n := o.type.toNat - 7
          let vs := (List.range 32).flatMap (fun l => (List.range k).map (fun j =>
            if (s.lanes u i).getLsbD l then w.floatElem o.subop.toNat (Operand.num o.srcA) l j else FVal.fin false 0 0))
          fl = (requantize n vs).flags
          ∧ (∀ l, l < 32 → (s.lanes u i).getLsbD l = true →
              (w.placeF l (Operand.num o.dst), BitVec.ofNat 64 (packMants n (((requantize n vs).mants.drop (k * l)).take k))) ∈ ws)
          ∧ (s.acts u i = true → ∀ j ∈ gangSlices u.gang,
              (Place.sreg j (Operand.num o.srcB), BitVec.ofNat 64 (requantize n vs).exp) ∈ ws)))

/-! Control -/

/-- Slot addresses (R66): an address names an instruction exactly where its offset in its line is 0, 12, 24, 36 or 48; the slot
at line address A and slot i has number (A ÷ 64) × 5 + i; execution falls through to slot i + 1 and from slot 4 to the next line;
an offset of d slots leads to the slot of number n + d. -/
def Obligations.SlotsAreNumberedInOrder : Prop :=
  (∀ a : Nat, slotAligned a = true ↔ a % 64 = 0 ∨ a % 64 = 12 ∨ a % 64 = 24 ∨ a % 64 = 36 ∨ a % 64 = 48)
  ∧ (∀ line i : Nat, i ≤ 4 → slotNum (64 * line + 12 * i) = 5 * line + i ∧ slotAddr (5 * line + i) = 64 * line + 12 * i)
  ∧ (∀ line i : Nat, i ≤ 4 → 64 * line + 64 < 2 ^ 57 →
      (nextSlot (BitVec.ofNat 57 (64 * line + 12 * i))).toNat = if i < 4 then 64 * line + 12 * (i + 1) else 64 * line + 64)
  ∧ (∀ (line i : Nat) (d : BitVec 24), i ≤ 4 → 64 * line < 2 ^ 57 → 0 ≤ ((5 * line + i : Nat) : Int) + d.toInt →
      let n := (((5 * line + i : Nat) : Int) + d.toInt).toNat
      branchDest (BitVec.ofNat 57 (64 * line + 12 * i)) d = n / 5 * 64 + 12 * (n % 5))

/-- BR and BRX (R112 to R115): each slice decides over its executing lanes, under MODE, or follows the lowest slice with an m0 bit
set where its own are clear; taken slices go to the destination, the others to the next slot; live slices that arrive at the same
place with the same DEPTH leave as one gang, others part. A destination that fails the check raises BADTARGET, class H, and one
whose line cannot be fetched leaves the target-check mark. -/
def Obligations.BranchesGoWhereTheyAreTaken : Prop :=
  ∀ (indirect : Bool) (s : State) (u : Cur) (h : Header) (o : FmtC),
    let i : Instr := if indirect then .brx h o else .br h o
    s.Issues u i → s.Unstepped u →
    let w := s.seen u i
    let p := Operand.num (if indirect then o.srcB else o.srcA)
    let own := fun j => (List.range 32).filter (fun l => decide (l / 4 = j) && (s.lanes u i).getLsbD l)
    let judge := fun j => if (w.slice j).readM w.seed 0 ≠ 0 then some j
      else (gangSlices u.gang).find? (fun k => decide ((w.slice k).readM w.seed 0 ≠ 0))
    let taken := fun j => match judge j with
      | none => false
      | some k =>
        if o.mode = 0 then (own k).any (fun l => w.readP l p)
        else if o.mode = 1 then decide (own k ≠ []) && (own k).all (fun l => w.readP l p)
        else match (own k).head? with | some l => w.readP l p | none => false
    let dest := fun j =>
      if indirect then
        (match o.srcA, (judge j).bind (fun k => (own k).head?) with
          | .s r, _ => (w.readS u.gang r).toNat
          | a, some l => ((w.readF l (Operand.num a + 1)) ++ (w.readF l (Operand.num a)) : W64).toNat
          | _, none => 0)
      else branchDest (s.sliceOf u j).pc o.offset
    let check := fun j => s.target u.core (s.tableOf u.core (s.warp u.core u.slot).group) (s.warp u.core u.slot).asid (dest j)
    let goes := fun j => if taken j then BitVec.ofNat 57 (dest j) else nextSlot (s.sliceOf u j).pc
    ((∃ j ∈ gangSlices u.gang, taken j = true ∧ check j = .bad) → s.Stops u i (badTarget u.gang))
    ∧ ((∀ j ∈ gangSlices u.gang, taken j = true → check j ≠ .bad) →
      ∃ t, exec i s = .next t ∧ s.Keeps t u True True ∧ ∀ j ∈ gangSlices u.gang,
        (t.sliceOf u j).pc = goes j ∧ (t.sliceOf u j).mark = (taken j && decide (check j = .unread))
        ∧ ((s.sliceOf u j).live = true → ∀ k, k < 8 → (t.sliceOf u j).gang.getLsbD k
            = (u.gang.getLsbD k && (s.sliceOf u k).live && decide (goes k = goes j) && decide ((s.sliceOf u k).depth = (s.sliceOf u j).depth))))

/-- A frame that closes leaves its caller as it was (R25, R26, R118): FSZ, DEPTH and the top of the stack come back, the header
gives the return address and the entry mask that the call put there, and every row of the caller that the callee does not take over
keeps its contents. -/
def Obligations.AClosedFrameLeavesItsCaller : Prop :=
  ∀ (sl : Slice) (B seed size k : Nat) (ret : VA) (entry : BitVec 4),
    0 < B → size ≤ 64 → size + 2 ≤ B → k ≤ size → k ≤ sl.fsz → 1 ≤ sl.fsz → sl.fsz ≤ 64 → sl.fsz < sl.top → slotAligned ret.toNat = true →
    sl.aside = [] →
    let up := sl.openFrame B seed size k (headerTo ret sl.fsz k entry false false)
    let back := up.closeFrame B
    hdRet (up.hdr B) = ret ∧ hdEntry (up.hdr B) = entry ∧ hdCallerFsz (up.hdr B) = sl.fsz ∧ hdK (up.hdr B) = k
    ∧ hdLegal (up.hdr B) size = true ∧ hdGate (up.hdr B) = false ∧ hdGroup (up.hdr B) = false
    ∧ up.fsz = size ∧ up.depth = sl.depth + 1
    ∧ (∀ r, r < k → hdK (sl.hdr B) ≤ sl.fsz - k + r → up.ringRow B r = sl.ringRow B (sl.fsz - k + r))
    ∧ back.fsz = sl.fsz ∧ back.depth = sl.depth ∧ back.top = sl.top
    ∧ ∀ n, n < sl.top → sl.top + (size - k + 1) ≤ n + B → Tab.get 0 back.rows (n % B) = Tab.get 0 sl.rows (n % B)

/-- Making room (R30, R31, R33): rows leave in the order of their age, each held with the address of its entry, the entries
following one another; the top of the stack and the frame stay; enough rows are free at the end. -/
def Obligations.RoomIsMadeByTheOldestRows : Prop :=
  ∀ (sl r : Slice) (B seed : Nat) (asid : BitVec 16) (need keep fuel n : Nat), sl.gates = [] →
    sl.makeRoom B seed asid need keep fuel 0 = .ok r n →
      r.low = sl.low + n ∧ r.top = sl.top ∧ r.fsz = sl.fsz ∧ r.depth = sl.depth ∧ r.pc = sl.pc ∧ r.gates = sl.gates
      ∧ r.resident + need ≤ B ∧ (0 < n → r.low ≤ keep)
      ∧ r.held.map (fun h => h.va) = sl.held.map (fun h => h.va) ++ (List.range n).map (fun i => sl.spillTop + BitVec.ofNat 57 (16 * i))
      ∧ r.spillTop = sl.spillTop + BitVec.ofNat 57 (16 * n)
      ∧ (0 < n → r.spillTop.toNat ≤ sl.bsLimit.toNat)

/-- CALL and CALLI (R26, R29, R31, R33, R117, R119): a slice on which the call takes effect and which holds a live lane runs a frame of
SIZE registers at the destination, one deeper, with a header that returns to the next slot, or to the CALLI itself for one group of lanes
with one target; the others go on to the next slot. Where the ring has not the margin of 8, the oldest rows have been spilled first, none
of those that the new frame takes over. A frame that cannot fit the ring, a DEPTH beyond 65,535, or a spill at or beyond the limit raises
FRAMEOVF in the lowest such slice and opens nothing; a target that fails its check raises BADTARGET.
The model's choices: FRAMEOVF comes before BADTARGET (log entry 38), and a row that a result in flight is to be written to is not
spilled (log entry 16), which the rooms here leave aside. -/
def Obligations.CallsOpenFrames : Prop :=
  ∀ (group : Bool) (s : State) (u : Cur) (h : Header) (o : FmtC),
    let i : Instr := if group then .calli h o else .call h o
    s.Issues u i → s.Unstepped u →
    let w := s.seen u i
    let B := (s.warp u.core u.slot).rowB
    let asid := (s.warp u.core u.slot).asid
    let a := Operand.num o.srcB
    let size := o.size.toNat
    let k := o.k.toNat
    let need := size - k + 1
    let keep := fun j => (s.sliceOf u j).top - 1 - k
    let m := fun j => (w.slice j).readM w.seed 0
    let calls := (gangSlices u.gang).filter (fun j => (s.slicesActing u i).contains j && decide (m j ≠ 0))
    let pair := fun j l => ((w.readF (4 * j + l) (a + 1)) ++ (w.readF (4 * j + l) a) : W64).toNat
    let lead := fun j => (setBits 4 (m j)).headD 0
    let dest := fun j => if group then pair j (lead j) else branchDest (s.sliceOf u j).pc o.offset
    let table := s.tableOf u.core (s.warp u.core u.slot).group
    let sized := fun j => size + 2 ≤ B ∧ (s.sliceOf u j).depth < 65535
    let fits := fun j => sized j ∧ (s.sliceOf u j).RoomFor B need (keep j)
    (∀ j ∈ gangSlices u.gang, k ≤ (s.sliceOf u j).fsz ∧ (group = true → a + 1 + k < (s.sliceOf u j).fsz)) →
    (∀ lower j higher, calls = lower ++ j :: higher → (∀ x ∈ lower, fits x) → ¬ sized j ∨ (s.sliceOf u j).NoRoom B need (keep j) →
      s.Stops u i (frameOvf (sliceMask j)))
    ∧ ((∀ j ∈ calls, fits j) → (∃ j ∈ calls, s.target u.core table asid (dest j) = .bad) → s.Stops u i (badTarget u.gang))
    ∧ ((∀ j ∈ calls, fits j ∧ s.target u.core table asid (dest j) ≠ .bad
          ∧ (s.sliceOf u j).fsz ≤ 64 ∧ slotAligned (s.sliceOf u j).pc.toNat = true) →
      ∃ t, exec i s = .next t ∧ s.Keeps t u False (group = false) ∧ ∀ j ∈ gangSlices u.gang,
        let n := (s.sliceOf u j).spillsFor B need (keep j)
        if j ∈ calls then
          let hd := (t.sliceOf u j).hdr B
          (t.sliceOf u j).pc = BitVec.ofNat 57 (dest j) ∧ (t.sliceOf u j).fsz = size ∧ (t.sliceOf u j).depth = (s.sliceOf u j).depth + 1
          ∧ (s.sliceOf u j).Spilled (t.sliceOf u j) B n asid (t.sliceOf u j).spillTop
          ∧ hdRet hd = (if group then (s.sliceOf u j).pc else nextSlot (s.sliceOf u j).pc)
          ∧ hdCallerFsz hd = (s.sliceOf u j).fsz ∧ hdK hd = k ∧ hdGate hd = false ∧ hdGroup hd = group
          ∧ (group = false → hdEntry hd = m j)
          ∧ (group = true → (∀ l, l < 4 → (hdEntry hd).getLsbD l = ((m j).getLsbD l && decide (pair j l = pair j (lead j))))
              ∧ Tab.get 0 (t.sliceOf u j).m 0 = hdEntry hd
              ∧ (Operand.num o.srcA ≠ 0 → Tab.get 0 (t.sliceOf u j).m (Operand.num o.srcA) = m j))
        else (t.sliceOf u j).pc = nextSlot (s.sliceOf u j).pc ∧ (t.sliceOf u j).fsz = (s.sliceOf u j).fsz
          ∧ (t.sliceOf u j).depth = (s.sliceOf u j).depth)

/-- RET (R28, R68, R118): each slice on which it takes effect closes its frame: it goes to the header's return address with the
header's caller FSZ, entry mask and one less DEPTH. The lowest such slice with a bad header, a gate frame or a group frame whose return
address holds no CALLI raises ILLEGAL, GATEFAULT sub-kind 3 or ILLEGAL, and a return address that fails the check BADTARGET, class H,
with the frames left open. Where every frame to close was opened for a group (R120), each slice goes on with the CALLI at its return
address: with no group of lanes left to serve it stands behind it with m0 the lanes of mk, and else it runs a frame of the CALLI's
SIZE for the next group, at the group's target, rows spilled for its margin; no room for that frame raises FRAMEOVF and a target that
fails its check BADTARGET, with the closing frame left open. EXIT, and RET at DEPTH 0 (R27, R130): each slice on which it takes effect ends; the others go on
to the next slot. In a service it raises GATEFAULT sub-kind 3, class H. The model's choices: FRAMEOVF comes before BADTARGET for a group's
frame (log entry 38), and rows that a result in flight is to be written to, which are not spilled (log entry 16), are left aside. -/
def Obligations.ReturnsCloseFramesAndExitsEndSlices : Prop :=
  (∀ (s : State) (u : Cur) (h : Header) (o : FmtC), s.Issues u (.ret h o) → s.Unstepped u →
      (s.sliceOf u (gangLeader u.gang)).depth ≠ 0 →
      let js := s.slicesActing u (.ret h o)
      let B := (s.warp u.core u.slot).rowB
      let hd := fun j => (s.sliceOf u j).hdr B
      let check := fun j => s.target u.core (s.tableOf u.core (s.warp u.core u.slot).group) (s.warp u.core u.slot).asid (hdRet (hd j)).toNat
      let w := s.seen u (.ret h o)
      let table := s.tableOf u.core (s.warp u.core u.slot).group
      let fine := fun j => hdLegal (hd j) (s.sliceOf u j).fsz = true ∧ hdGate (hd j) = false ∧ hdGroup (hd j) = false
      (∀ lower j higher, js = lower ++ j :: higher → (∀ k ∈ lower, fine k) →
        (hdLegal (hd j) (s.sliceOf u j).fsz = false → s.Stops u (.ret h o) (illegal u.gang))
        ∧ (hdLegal (hd j) (s.sliceOf u j).fsz = true →
          (hdGate (hd j) = true → s.Stops u (.ret h o) (trapH 0x0B 3 (gangMask u.gang)))
          ∧ (hdGate (hd j) = false → hdGroup (hd j) = true → s.calliAt u (hdRet (hd j)) = none → s.Stops u (.ret h o) (illegal u.gang))))
      ∧ (∀ calli : Nat → FmtC,
        let groups := fun j => hdLegal (hd j) (s.sliceOf u j).fsz = true ∧ hdGate (hd j) = false ∧ hdGroup (hd j) = true
          ∧ s.calliAt u (hdRet (hd j)) = some (calli j)
        let fa := fun j => Operand.num (calli j).srcB
        let caller := fun j => (w.slice j).closeFrame B
        let target := fun j l =>
          let c := w.setSlice j (caller j)
          ((c.readF (4 * j + l) (fa j + 1)) ++ (c.readF (4 * j + l) (fa j)) : W64).toNat
        let mk := fun j => (caller j).readM w.seed (Operand.num (calli j).srcA)
        let served := fun j l => (List.range 4).any (fun i =>
          (mk j).getLsbD i && decide (i ≤ (setBits 4 (hdEntry (hd j))).headD 0) && decide (target j i = target j l))
        let left := fun j => (List.range 4).filter (fun l => (mk j).getLsbD l && !served j l)
        let dest := fun j => if left j = [] then (nextSlot (hdRet (hd j))).toNat else target j ((left j).headD 0)
        let passes := fun j => (calli j).k.toNat ≤ hdCallerFsz (hd j) ∧ fa j + 1 + (calli j).k.toNat < hdCallerFsz (hd j)
        let need := fun j => (calli j).size.toNat - (calli j).k.toNat + 1
        let keep := fun j => (caller j).top - 1 - (calli j).k.toNat
        let sized := fun j => (calli j).size.toNat + 2 ≤ B ∧ (s.sliceOf u j).depth ≤ 65535
        (∀ lower j higher, js = lower ++ j :: higher → (∀ k ∈ lower, fine k) → groups j → passes j → left j ≠ [] →
          ¬ sized j ∨ (caller j).NoRoom B (need j) (keep j) → s.Stops u (.ret h o) (frameOvf (sliceMask j)))
        ∧ ((∀ j ∈ js, groups j ∧ passes j ∧ (left j ≠ [] → sized j ∧ (caller j).RoomFor B (need j) (keep j))) →
        ((∃ j ∈ js, s.target u.core table (s.warp u.core u.slot).asid (dest j) = .bad) → s.Stops u (.ret h o) (badTarget u.gang))
        ∧ ((∀ j ∈ js, s.target u.core table (s.warp u.core u.slot).asid (dest j) ≠ .bad) →
        ∃ t, exec (.ret h o) s = .next t ∧ s.Keeps t u False False ∧ ∀ j ∈ gangSlices u.gang,
          let b := t.sliceOf u j
          if j ∈ js then
            b.pc = BitVec.ofNat 57 (dest j)
            ∧ (caller j).Spilled b B (if left j = [] then 0 else (caller j).spillsFor B (need j) (keep j)) (s.warp u.core u.slot).asid b.spillTop
            ∧ (left j = [] → b.fsz = hdCallerFsz (hd j) ∧ b.depth = (s.sliceOf u j).depth - 1 ∧ Tab.get 0 b.m 0 = mk j)
            ∧ (left j ≠ [] → b.fsz = (calli j).size.toNat ∧ b.depth = (s.sliceOf u j).depth - 1 + 1
              ∧ hdRet (b.hdr B) = hdRet (hd j) ∧ hdCallerFsz (b.hdr B) = hdCallerFsz (hd j) ∧ hdK (b.hdr B) = (calli j).k.toNat
              ∧ hdGate (b.hdr B) = false ∧ hdGroup (b.hdr B) = true ∧ Tab.get 0 b.m 0 = hdEntry (b.hdr B)
              ∧ ∀ l, l < 4 → (hdEntry (b.hdr B)).getLsbD l
                  = ((left j).contains l && decide (target j l = target j ((left j).headD 0))))
          else b.pc = nextSlot (s.sliceOf u j).pc ∧ b.fsz = (s.sliceOf u j).fsz ∧ b.depth = (s.sliceOf u j).depth)))
      ∧ ((∀ j ∈ js, hdLegal (hd j) (s.sliceOf u j).fsz = true ∧ hdGate (hd j) = false ∧ hdGroup (hd j) = false) →
        ((∃ j ∈ js, check j = .bad) → s.Stops u (.ret h o) (badTarget u.gang))
        ∧ ((∀ j ∈ js, check j ≠ .bad) → ∃ t, exec (.ret h o) s = .next t ∧ s.Keeps t u False False ∧ ∀ j ∈ gangSlices u.gang,
            if j ∈ js then
              (t.sliceOf u j).pc = hdRet (hd j) ∧ (t.sliceOf u j).fsz = hdCallerFsz (hd j)
              ∧ (t.sliceOf u j).depth = (s.sliceOf u j).depth - 1 ∧ Tab.get 0 (t.sliceOf u j).m 0 = hdEntry (hd j)
            else (t.sliceOf u j).pc = nextSlot (s.sliceOf u j).pc ∧ (t.sliceOf u j).fsz = (s.sliceOf u j).fsz
              ∧ (t.sliceOf u j).depth = (s.sliceOf u j).depth)))
  ∧ (∀ (ret : Bool) (s : State) (u : Cur) (h : Header) (o : FmtC),
      let i : Instr := if ret then .ret h o else .exit h o
      (ret = true → (s.sliceOf u (gangLeader u.gang)).depth = 0) → s.Issues u i → s.Unstepped u →
      let js := s.slicesActing u i
      ((∃ j ∈ js, (s.sliceOf u j).gates ≠ []) → s.Stops u i (trapH 0x0B 3 (gangMask u.gang)))
      ∧ ((∀ j ∈ js, (s.sliceOf u j).gates = []) → ∃ t, exec i s = .next t ∧ s.Keeps t u False True ∧ ∀ j ∈ gangSlices u.gang,
          (t.sliceOf u j).live = ((s.sliceOf u j).live && !(js.contains j))
          ∧ (t.sliceOf u j).pc = nextSlot (s.sliceOf u j).pc ∧ (j ∈ js → (t.sliceOf u j).gang = 0)))

/-- FRAME and TCALL, direct and indirect (R31, R33, R121, R122): each slice on which the instruction takes effect holds a frame of SIZE
registers with the same FP, DEPTH and header, its registers up to the smaller size in the same ring rows with the same contents; FRAME
goes on to the next slot and TCALL to its destination. A growing frame has its room made first, by spills of the oldest rows below FP. A
SIZE below K raises ILLEGAL; a frame that cannot fit the ring, or a spill at or beyond the limit, FRAMEOVF in the lowest such slice; a
destination that fails its check BADTARGET. In the model FRAMEOVF comes before BADTARGET, as for CALL (log entry 38). -/
def Obligations.ResizesKeepTheFrame : Prop :=
  ∀ (s : State) (u : Cur) (h : Header) (o : FmtC) (i : Instr), i = .frame h o ∨ i = .tcall h o ∨ i = .tcallIndirect h o →
    s.Issues u i → s.Unstepped u →
    let js := s.slicesActing u i
    let B := (s.warp u.core u.slot).rowB
    let asid := (s.warp u.core u.slot).asid
    let size := o.size.toNat
    let ld := s.sliceOf u (gangLeader u.gang)
    let dest := if i = .tcall h o then branchDest ld.pc o.offset
      else ((s.seen u i).readS u.gang (Operand.num o.srcA)).toNat
    let check := s.target u.core (s.tableOf u.core (s.warp u.core u.slot).group) asid dest
    let grows := fun j => (s.sliceOf u j).fsz < size
    let need := fun j => size - (s.sliceOf u j).fsz
    let keep := fun j => (s.sliceOf u j).top - 2 - (s.sliceOf u j).fsz
    let fits := fun j => size + 2 ≤ B ∧ (grows j → (s.sliceOf u j).RoomFor B (need j) (keep j))
    ((∃ j ∈ gangSlices u.gang, size < hdK ((s.sliceOf u j).hdr B)) → s.Stops u i (illegal u.gang))
    ∧ ((∀ j ∈ gangSlices u.gang, hdK ((s.sliceOf u j).hdr B) ≤ size) →
      (∀ lower j higher, js = lower ++ j :: higher → (∀ x ∈ lower, fits x) →
        B < size + 2 ∨ (grows j ∧ (s.sliceOf u j).NoRoom B (need j) (keep j)) → s.Stops u i (frameOvf (sliceMask j)))
      ∧ ((∀ j ∈ js, fits j) → i ≠ .frame h o → js ≠ [] → check = .bad → s.Stops u i (badTarget u.gang))
      ∧ ((∀ j ∈ js, fits j ∧ (s.sliceOf u j).fsz + 2 ≤ B ∧ (s.sliceOf u j).fsz < (s.sliceOf u j).top) →
        (i = .frame h o ∨ check ≠ .bad) →
        ∃ t, exec i s = .next t ∧ s.Keeps t u False True ∧ ∀ j ∈ gangSlices u.gang,
          let n := if j ∈ js ∧ grows j then (s.sliceOf u j).spillsFor B (need j) (keep j) else 0
          (t.sliceOf u j).pc = (if i ≠ .frame h o ∧ j ∈ js then BitVec.ofNat 57 dest else nextSlot (s.sliceOf u j).pc)
          ∧ (t.sliceOf u j).depth = (s.sliceOf u j).depth ∧ (t.sliceOf u j).hdr B = (s.sliceOf u j).hdr B
          ∧ (t.sliceOf u j).fsz = (if j ∈ js then size else (s.sliceOf u j).fsz)
          ∧ (s.sliceOf u j).Spilled (t.sliceOf u j) B n asid (t.sliceOf u j).spillTop
          ∧ ∀ r, r < size → r < (s.sliceOf u j).fsz → (t.sliceOf u j).ringRow B r = (s.sliceOf u j).ringRow B r
              ∧ Tab.get 0 (t.sliceOf u j).rows ((s.sliceOf u j).ringRow B r) = Tab.get 0 (s.sliceOf u j).rows ((s.sliceOf u j).ringRow B r)))

/-- Taking an exception of class S (R230, Table 9.8): every slice of the gang that stopped goes to the handler address, FSZ reads
16, RESUME is the stopping instruction, or the next slot after TRAP; m0 holds the faulters' mask and the handler's f0 to f8 the cause,
the sub-kind, each faulter's address, the mask, the code, the program counter and the old m0. The registers of the other slices
are as they were.
From within a handler, the cause is delivered H instead. -/
def Obligations.AFaultEntersTheHandler : Prop :=
  ∀ (s : State) (c slot : Nat) (g : Mask8) (x : Trap), x.cls = .s →
    let w := s.warp c slot
    let hva := match (w.slice (gangLeader g)).gates with | e :: _ => e.handler | [] => w.handler
    ((w.slice (gangLeader g)).handler.isSome = true → s.deliver s c slot g x = s.takeH s c slot g { x with cls := .h })
    ∧ ((w.slice (gangLeader g)).handler = none → slotAligned hva.toNat = true →
      let t := s.deliver s c slot g x
      ∀ j, j < 8 →
        let a := w.slice j
        let b := (t.warp c slot).slice j
        if g.getLsbD j then
          b.pc = hva ∧ b.fszNow = 16 ∧ b.wait = .ready ∧ b.resume = (if x.resumeNext then nextSlot a.pc else a.pc)
          ∧ Tab.get 0 b.m 0 = sliceBits x.mask j
          ∧ b.handler = some { m0 := sliceBits (w.m0 g) j, gang := g, fsz := a.fsz, markAt := if a.mark then some a.pc else none }
          ∧ ∀ l, l < 4 →
            let f := fun i => (rowLane (Tab.get 0 b.hrows i) l).toNat
            f 0 = x.cause % 2 ^ 32 ∧ f 1 = x.sub % 2 ^ 32 ∧ f 4 = x.mask.toNat ∧ f 5 = x.code % 2 ^ 32
            ∧ f 2 + 2 ^ 32 * f 3 = (if x.mask.getLsbD (4 * j + l) then ((Tab.find (4 * j + l) x.addrs).getD 0).toNat else 0)
            ∧ f 6 + 2 ^ 32 * f 7 = a.pc.toNat ∧ f 8 = (w.m0 g).toNat
        else b.still = a.still)

/-- A cause of class H outside a service halts the warp whole with its halt report (R316, Table 16.2): the program counter, cause,
sub-kind, mask and lowest faulter's address of the gang that stopped, the code of BKPT, WATCH and TRAP, and 0 for the others; no
slice moves. Inside a service it unwinds the gate
instead (R127): ASID and DOMAIN are the caller's again, and each live slice stands behind its GATE in the caller's frame. That the report also
shows which slot of a pair failed, in a field of its own, is the model's choice (log entry 98: R70 asks for it, Table 16.2 has no field). -/
def Obligations.AHaltOrAnUnwindFollowsClassH : Prop :=
  ∀ (s : State) (c slot : Nat) (g : Mask8) (x : Trap), x.cls = .h →
    let w := s.warp c slot
    let ld := w.slice (gangLeader g)
    (s.group c w.group).saving = none → (s.group c w.group).latch = [] →
    ((ld.gates = [] ∨ ld.handler.isSome = true ∨ x.cause ∈ [0x0F, 0x10, 0x12, 0x02]) →
      let t := s.deliver s c slot g x
      (∃ r, (t.warp c slot).report = some r ∧ r.pc = ld.pc ∧ r.cause = BitVec.ofNat 8 x.cause ∧ r.sub = BitVec.ofNat 8 x.sub
        ∧ r.code = (if x.cause ∈ [0x0F, 0x10, 0x13] then BitVec.ofNat 16 x.code else 0)
        ∧ r.pending = w.slices.any (fun e => e.2.pending ≠ []) ∧ r.second = x.second ∧ r.fmask = x.mask ∧ r.stopGang = g ∧ r.live = w.live ∧ r.asid = w.asid ∧ r.domain = w.domain
        ∧ r.tick = BitVec.ofNat 64 s.tick ∧ r.inHandler = ld.handler.isSome
        ∧ r.addr = (((setBits 32 x.mask).head?).bind (fun l => Tab.find l x.addrs)).getD 0)
      ∧ ∀ j, j < 8 → ((t.warp c slot).slice j).pc = (w.slice j).pc ∧ ((t.warp c slot).slice j).fsz = (w.slice j).fsz
        ∧ ((t.warp c slot).slice j).live = (w.slice j).live)
    ∧ (∀ e rest, ld.gates = e :: rest → ld.handler = none → x.cause ∉ [0x0F, 0x10, 0x12, 0x02] → w.report = none →
      let t := s.deliver s c slot g x
      (t.warp c slot).asid = e.asid ∧ (t.warp c slot).domain = e.domain ∧ (t.warp c slot).report = none
      ∧ ∀ j ∈ gangSlices w.live, ∀ q more, (w.slice j).gates = q :: more →
        let b := (t.warp c slot).slice j
        b.gates = more ∧ b.depth = q.depth ∧ b.fsz = hdCallerFsz q.header ∧ b.pc = hdRet q.header ∧ b.top = q.first
        ∧ Tab.get 0 b.m 0 = hdEntry q.header)

/-- TRAP and BKPT raise their cause as they execute where they take effect, with OFFSET⟨15:0⟩ as the code and the executing lanes as the mask, TRAP
class S with RESUME at the next slot, BKPT class H (R131); SUPRET ends the handler: each slice goes to RESUME with m0 and FSZ as they
were set aside, and raises PROT where no handler runs (R134). Where they take no effect, the gang goes on. That each acts for the whole
gang once it takes effect in some slice is the model's choice (log entry 14). -/
def Obligations.TrapsAndTheReturnFromThem : Prop :=
  ∀ (s : State) (u : Cur) (h : Header) (o : FmtC), s.Unstepped u →
    (∀ i : Instr, i = .trap h o ∨ i = .bkpt h o → s.Issues u i →
      (s.slicesActing u i = [] → ∃ t, s.Completes u i t)
      ∧ (s.slicesActing u i ≠ [] → s.Faults u i
          { cause := if i = .trap h o then 0x13 else 0x0F, cls := if i = .trap h o then .s else .h, sub := 0
            mask := s.lanes u i, addrs := [], code := o.offset.toNat % 2 ^ 16, resumeNext := decide (i = .trap h o) }))
    ∧ (s.Issues u (.supret h o) →
      ((s.sliceOf u (gangLeader u.gang)).handler = none →
        s.Stops u (.supret h o) (protFault u.gang))
      ∧ ((s.sliceOf u (gangLeader u.gang)).handler.isSome = true →
        (s.slicesActing u (.supret h o) = [] → ∃ t, s.Completes u (.supret h o) t)
        ∧ (s.slicesActing u (.supret h o) ≠ [] →
          let w := s.seen u (.supret h o)
          let resume := fun j => (w.slice j).resumeAt w.seed
          (∀ j ∈ gangSlices u.gang, slotAligned (resume j).toNat = true) →
          ∃ t, exec (.supret h o) s = .next t ∧ ∀ j ∈ gangSlices u.gang, ∀ a, (s.sliceOf u j).handler = some a →
            (t.sliceOf u j).pc = resume j ∧ (t.sliceOf u j).mark = decide (a.markAt = some (resume j)) ∧ (t.sliceOf u j).handler = none ∧ (t.sliceOf u j).fszNow = (s.sliceOf u j).fsz
            ∧ Tab.get 0 (t.sliceOf u j).m 0 = a.m0 ∧ (t.sliceOf u j).gang = a.gang &&& u.gang)))

/-- GATE (R124, R125, Table 5.5): a gang that is not every live slice raises GATEFAULT 0, and a fifth gate GATEFAULT 1, class H; a
refused gate gives the status word to the caller's f(FSZ - 1) and clears pd, in the entry lanes, and goes on; a bad entry or handler
address raises BADTARGET, and a spill at or beyond the limit FRAMEOVF. An accepted one runs every slice at the entry, one deeper, in a
frame of FSIZE registers on the service's own spill stack: the caller's top NARG registers copied in, the rest of the frame and SCRUB, p, m
and b quenched, s0 as R125 gives it, under the service's ASID and DOMAIN. GRET (R128): outside a gate frame it raises GATEFAULT 2, and in
a gang that is not every live slice GATEFAULT 0, class H; otherwise every slice is back behind its GATE, in the caller's frame, DEPTH and
spill stack, with NRES results copied out, the rest quenched and pd set in the entry lanes, and the warp under the caller's ASID and
DOMAIN. The model's choices: GATE acts for the gang where it does in some slice (log entry 14), has no DEPTH check (110), uses BSBASE as
it stands (111), shows the index modulo 4,096 (124), and a service never presented is barred (117). -/
def Obligations.GatesAdmitRefuseAndReturn : Prop :=
  (∀ (s : State) (u : Cur) (h : Header) (o : FmtC), s.Issues u (.gate h o) → s.Unstepped u →
      let i : Instr := .gate h o
      let w := s.seen u i
      let B := (s.warp u.core u.slot).rowB
      let asid := (s.warp u.core u.slot).asid
      let pd := Operand.num o.srcA
      let index := if o.subop = 0 then o.offset.toNat else (w.readS u.gang (Operand.num o.srcB)).toNat
      let ld := s.sliceOf u (gangLeader u.gang)
      let entry := fun j => (w.slice j).readM w.seed 0
      (w.live ≠ u.gang → s.Stops u i (trapH 0x0B 0 (gangMask u.gang)))
      ∧ (w.live = u.gang → 4 ≤ ld.gates.length → s.Stops u i (trapH 0x0B 1 (gangMask u.gang)))
      ∧ (w.live = u.gang → ld.gates.length < 4 → s.slicesActing u i ≠ [] →
        ((s.group u.core (s.warp u.core u.slot).group).region.gateCount ≤ index → s.readGate u index = .refused 0x01)
        ∧ (∀ r, s.readGate u index = .refused r → ∃ t, s.Completes u i t ∧ (t.warp u.core u.slot).domain = (s.warp u.core u.slot).domain
            ∧ (t.warp u.core u.slot).asid = (s.warp u.core u.slot).asid
            ∧ ∀ j ∈ gangSlices u.gang, (t.sliceOf u j).depth = (s.sliceOf u j).depth
              ∧ ∀ l, l < 4 → (t.sliceOf u j).predNow pd l = ((s.sliceOf u j).predNow pd l && (decide (pd = 7) || !(entry j).getLsbD l))
                ∧ (s.Unobserved u →
                  let status := 2 ^ 30 + index % 4096 * 2 ^ 12 + (s.sliceOf u j).gates.length * 2 ^ 8 + r
                  let place := w.placeF (4 * j + l) ((s.sliceOf u j).fsz - 1)
                  (t.warp u.core u.slot).placeNow place
                    = if (entry j).getLsbD l then BitVec.zeroExtend 64 (BitVec.ofNat 32 status) else (s.warp u.core u.slot).placeNow place))
        ∧ (∀ e, s.readGate u index = .entry e →
          let target := s.target u.core (s.tableOf u.core (s.warp u.core u.slot).group) (geAsid e) (geEntry e)
          let room := fun j => (s.sliceOf u j).RoomFor B (geFsize e + 1) ((s.sliceOf u j).top - 1)
          (slotAligned (geHandler e).toNat = false ∨ slotAligned (geEntry e) = false
              ∨ (target = .bad ∧ (s.security.started = false ∨ geAsid e ∈ s.security.services ∨ geAsid e ∈ s.security.barred)) →
            s.Stops u i (badTarget u.gang))
          ∧ (slotAligned (geHandler e).toNat = true → target ≠ .bad →
            (∀ lower j higher, gangSlices u.gang = lower ++ j :: higher → (∀ x ∈ lower, room x) →
              (s.sliceOf u j).NoRoom B (geFsize e + 1) ((s.sliceOf u j).top - 1) → s.Stops u i (frameOvf (sliceMask j)))
            ∧ ((∀ j ∈ gangSlices u.gang, room j) →
              ∃ t, exec i s = .next t ∧ (t.warp u.core u.slot).asid = geAsid e ∧ (t.warp u.core u.slot).domain = geDomain e
                ∧ (t.warp u.core u.slot).mteam = 0 ∧ (t.warp u.core u.slot).bs = []
                ∧ ∀ j ∈ gangSlices u.gang,
                  let a := s.sliceOf u j
                  let b := t.sliceOf u j
                  b.pc = BitVec.ofNat 57 (geEntry e) ∧ b.fsz = geFsize e ∧ b.depth = a.depth + 1
                  ∧ b.spillTop = BitVec.ofNat 57 (gateWindow e u.core u.slot j a.gates.length)
                  ∧ Tab.get 0 b.s 0 = BitVec.ofNat 64 ((s.warp u.core u.slot).domain.toNat * 2 ^ 48 + index % 4096 * 2 ^ 32 + geVersion e)
                  ∧ (∀ k, k ≠ 0 → Tab.get 0 b.s k = if (geScrub e).getLsbD k then 0 else Tab.get 0 a.s k)
                  ∧ (∀ k l, b.predNow k l = false) ∧ (∀ k, Tab.get 0 b.m k = if k = 0 then Tab.get 0 a.m 0 else 0) ∧ b.b = []
                  ∧ (a.fsz ≤ 64 → slotAligned a.pc.toNat = true → s.Unobserved u →
                    hdRet (b.hdr B) = nextSlot a.pc ∧ hdCallerFsz (b.hdr B) = a.fsz ∧ hdK (b.hdr B) = 0 ∧ hdEntry (b.hdr B) = entry j
                    ∧ hdGate (b.hdr B) = true
                    ∧ ∀ r l, r < geFsize e → l < 4 → rowLane (Tab.get 0 b.rows (b.ringRow B r)) l
                        = if r < geNarg e then w.readF (4 * j + l) (a.fsz - geNarg e + r) else 0)
                  ∧ ∃ q, b.gates = q :: a.gates ∧ q.asid = asid ∧ q.domain = (s.warp u.core u.slot).domain
                      ∧ a.Spilled b B (a.spillsFor B (geFsize e + 1) (a.top - 1)) asid q.spillTop
                      ∧ q.depth = a.depth ∧ q.nres = geNres e ∧ q.narg = geNarg e ∧ q.scrub = geScrub e ∧ q.handler = geHandler e
                      ∧ q.pd = pd)))))
  ∧ (∀ (s : State) (u : Cur) (h : Header) (o : FmtC), s.Issues u (.gret h o) → s.Unstepped u →
      let i : Instr := .gret h o
      let w := s.seen u i
      let B := (s.warp u.core u.slot).rowB
      let hd := fun j => (s.sliceOf u j).hdr B
      let ld := s.sliceOf u (gangLeader u.gang)
      ((∃ j ∈ gangSlices u.gang, hdGate (hd j) = false) → s.Stops u i (trapH 0x0B 2 (gangMask u.gang)))
      ∧ ((∀ j ∈ gangSlices u.gang, hdGate (hd j) = true) →
        (w.live ≠ u.gang → s.Stops u i (trapH 0x0B 0 (gangMask u.gang)))
        ∧ ∀ e rest, w.live = u.gang → s.slicesActing u i ≠ [] → ld.gates = e :: rest →
          (∀ j ∈ gangSlices u.gang, hdLegal (hd j) (s.sliceOf u j).fsz = true ∧ (s.sliceOf u j).gates ≠ []) →
          s.target u.core (s.tableOf u.core (s.warp u.core u.slot).group) e.asid (hdRet (hd (gangLeader u.gang))).toNat ≠ .bad →
          ∃ t, exec i s = .next t ∧ (t.warp u.core u.slot).asid = e.asid ∧ (t.warp u.core u.slot).domain = e.domain
            ∧ (t.warp u.core u.slot).mteam = 0 ∧ (t.warp u.core u.slot).bs = []
            ∧ ∀ j ∈ gangSlices u.gang, ∀ q more, (s.sliceOf u j).gates = q :: more →
              let a := s.sliceOf u j
              let b := t.sliceOf u j
              b.pc = hdRet (hd (gangLeader u.gang)) ∧ b.fsz = hdCallerFsz (hd j) ∧ b.depth = q.depth ∧ b.gates = more ∧ b.spillTop = q.spillTop
              ∧ (∀ k, Tab.get 0 b.m k = if k = 0 then hdEntry (hd j) else 0) ∧ b.b = []
              ∧ (∀ k, Tab.get 0 b.s k = if q.scrub.getLsbD k then 0 else Tab.get 0 a.s k)
              ∧ (∀ k l, k < 8 → l < 4 → b.predNow k l = (decide (k = q.pd ∧ k ≠ 7) && (hdEntry (hd j)).getLsbD l))
              ∧ (q.first + a.fsz + 1 = a.top → hdK (hd j) = 0 → hdCallerFsz (hd j) + 1 ≤ q.first → a.top + hdCallerFsz (hd j) + 2 ≤ q.first + B →
                a.aside = [] → q.narg ≤ hdCallerFsz (hd j) → q.nres ≤ q.narg → s.Unobserved u →
                (∀ n, q.first ≤ n → n < a.top → Tab.get 0 b.rows (n % B) = 0)
                ∧ ∀ r l, r < hdCallerFsz (hd j) → l < 4 →
                  let first := hdCallerFsz (hd j) - q.narg
                  rowLane (Tab.get 0 b.rows (b.ringRow B r)) l = if first ≤ r ∧ r < first + q.nres then w.readF (4 * j + l) (r - first)
                    else rowLane (Tab.get 0 a.rows (b.ringRow B r)) l)))

/-! Memory -/

/-- LD, LD.h, ST, LDL and ATOM, past the checks of R162 and with their translations at hand: the access of each executing lane, or of
the gang for a scalar form, is put in flight on the token with its place or its data, and the gang goes on (R72, R157, R158, R163 to
R165, R168, R170). A check that fails stops the gang with its cause; a translation not at hand leaves the gang where it is until the
walk is done (R306). A malformed pair of a log set raises ILLEGAL (R175).
The checks of R162 on a record, in their order: reserved bits, permissions, the swizzle's conditions, bounds under OOBTRAP, the width of
the address, alignment; past them each lane's address is BASE plus the swizzled offset of its element, and a lane out of bounds is
dropped (R159 to R161). The element is the index's low 32 bits plus the offset. Then the translations: of those at hand the lowest that
fails decides the cause. -/
def Obligations.GlobalAccessesAreQueued : Prop :=
  (∀ (r : W128) (n mis : Nat) (k : AccKind) (ls : List (Nat × Mask32 × Int)), ls ≠ [] →
    let f := fun hi lo : Nat => BitVec.field r hi lo
    let off := fun e : Int => e.toNat * f 76 57
    let z := f 111 109
    let y := f 114 112
    let mixed := fun e : Int => if y = 0 then off e else off e ^^^ (off e / 2 ^ (z + 2 + y) % 2 ^ y * 2 ^ (z + 2))
    let inside := fun e : Int => decide (0 ≤ e) && decide (e < f 108 77)
      && (decide (f 76 57 = 0) || decide (max (off e) (mixed e) + n ≤ f 108 77 * f 76 57))
    let named := fun l : List (Nat × Mask32 × Int) => l.map (fun e => (e.1, e.2.1, f 56 0 + mixed e.2.2))
    let masks := fun l : List (Nat × Mask32 × Int) => l.foldl (fun a e => a ||| e.2.1) (0 : Mask32)
    let inn := ls.filter (fun e => inside e.2.2)
    let out := ls.filter (fun e => !inside e.2.2)
    let high := inn.filter (fun e => decide (2 ^ 57 ≤ f 56 0 + mixed e.2.2))
    let odd := inn.filter (fun e => decide ((f 56 0 + mixed e.2.2) % n ≠ 0))
    let barred := (k.read = true ∧ r.getLsbD 116 = false) ∨ (k.write = true ∧ r.getLsbD 117 = false)
    let crooked := (y = 0 ∧ z ≠ 0) ∨ (y ≠ 0 ∧ (f 76 57 = 0 ∨ 2 ^ (z + 2) < n))
    let traps := r.getLsbD 115 = true ∧ out ≠ []
    let c := recCheck r n k mis ls
    (f 127 118 ≠ 0 → c = .error (trapH 0x01 0 (masks ls)))
    ∧ (f 127 118 = 0 → barred → c = .error (trapH 0x09 0 (masks ls)))
    ∧ (f 127 118 = 0 → ¬ barred → crooked → c = .error (trapH 0x01 0 (masks ls)))
    ∧ (f 127 118 = 0 → ¬ barred → ¬ crooked → traps →
        ∃ t, c = .error t ∧ t.cause = 0x07 ∧ t.cls = .h ∧ t.sub = 0 ∧ t.mask = masks out)
    ∧ (f 127 118 = 0 → ¬ barred → ¬ crooked → ¬ traps → high ≠ [] → c = .error (laneTrap 0x09 .h 0 0 (named high)))
    ∧ (f 127 118 = 0 → ¬ barred → ¬ crooked → ¬ traps → high = [] → odd ≠ [] → c = .error (laneTrap 0x06 .s mis n (named odd)))
    ∧ (f 127 118 = 0 → ¬ barred → ¬ crooked → ¬ traps → high = [] → odd = [] →
        c = .ok (ls.map (fun e => (e.1, e.2.1, if inside e.2.2 then some (f 56 0 + mixed e.2.2) else none)))))
  ∧ (∀ (s : State) (c slot n mis : Nat) (g : Mask8) (ls : List (Nat × Mask32)) (buf index : Operand) (off : Int) (k : AccKind),
    let w := s.warp c slot
    let a := s.recAccs c slot g ls buf index off n k mis
    let check := recCheck (w.readB g (Operand.num buf)) n k mis
      (ls.map (fun e => (e.1, e.2, (((w.src g 0 index e.1).toNat % 2 ^ 32 : Nat) : Int) + off)))
    (∀ t, check = .error t → a = .bad t) ∧ ∀ as, check = .ok as → a = s.xlatLanes c g w.asid n k as)
  ∧ (∀ (s : State) (c n : Nat) (g : Mask8) (asid : BitVec 16) (k : AccKind) (ls : List (Nat × Mask32 × Option Nat)),
    let a := s.xlatLanes c g asid n k ls
    let held := fun va : Nat => (s.core c).tlbFind asid va
    let fine := fun e : Nat × Mask32 × Option Nat => ∀ va, e.2.2 = some va →
      va < 2 ^ 57 ∧ ∃ x pa, held va = some x ∧ s.permit x va k.read k.write false = .ok pa
    ((∃ e ∈ ls, ∃ va, e.2.2 = some va ∧ held va = none) → ∃ q, a = .walk q ∧ q.gang = g ∧ q.asid = asid ∧ q.read = k.read
      ∧ q.write = k.write ∧ q.exec = false
      ∧ q.lanes = ls.filterMap (fun e => e.2.2.map (fun va => (e.1, e.2.1, BitVec.ofNat 57 va))))
    ∧ (∀ lower higher l m va x bad, ls = lower ++ (l, m, some va) :: higher → (∀ e ∈ lower, fine e) →
        (∀ e ∈ ls, ∀ va', e.2.2 = some va' → (held va').isSome) → held va = some x →
        s.permit x va k.read k.write false = .error bad →
        ∃ t, a = .fault t ∧ t.cause = (if bad = .prot then 0x09 else 0x08)
          ∧ t.cls = (if bad = .prot then .h else if bad = .minor then .s else .w)
          ∧ ∀ q, q < 32 → m.getLsbD q = true → Tab.find q t.addrs = some (BitVec.ofNat 57 va))
    ∧ ((∀ e ∈ ls, fine e) → (s.core c).watch = [] → ∃ as, a = .ok as
        ∧ as.map (fun x => (x.lane, x.mask, x.dropped)) = ls.map (fun e => (e.1, e.2.1, e.2.2.isNone))
        ∧ as.filterMap (fun x => if x.dropped then none else some x.va.toNat) = ls.filterMap (fun e => e.2.2)
        ∧ ∀ x ∈ as, x.dropped = false → ∃ e, held x.va.toNat = some e
            ∧ s.permit e x.va.toNat k.read k.write false = .ok x.pa))
  ∧ ∀ (s : State) (u : Cur) (h : Header) (o : FmtD), s.Unstepped u →
    let n := sizeBytes o.size
    let e := s.enter u h
    let tok := h.settok.toNat
    let accs := fun (i : Instr) (scalar : Bool) (off : Int) (k : AccKind) (mis : Nat) =>
      e.recAccs u.core u.slot u.gang ((s.seen u i).accLanes u.gang h scalar) o.buf o.index off n k mis
    let held := fun (i : Instr) (a : AccCheck LaneAcc) =>
      (∀ x, a = .bad x → s.Stops u i x) ∧ (∀ x, a = .fault x → s.Faults u i x)
      ∧ (∀ k, a = .walk k → ∃ t, exec i s = .next t ∧ (t.warp u.core u.slot).walk = some k
          ∧ ∀ j ∈ gangSlices u.gang, (t.sliceOf u j).pc = (s.sliceOf u j).pc)
    (∀ home : Bool, let i : Instr := if home then .ldH h o else .ld h o
      s.Issues u i →
      let a := accs i (Operand.isS o.dst) o.offset.toInt { read := true, write := false, watch := 0 } 0
      held i a ∧ ∀ as, a = .ok as → ∃ t, s.Completes u i t ∧ s.Posts t u tok (.load n (decide (o.subop = 1)) home
        (as.map (fun (x : LaneAcc) => { x with dst := (s.seen u i).dstPlaces u.gang o.dst n x.lane }))))
    ∧ (s.Issues u (.st h o) →
      let a := accs (.st h o) (storeScalar o) o.offset.toInt { read := false, write := true, watch := 1 } 0
      held (.st h o) a ∧ ∀ as, a = .ok as → ∃ t, s.Completes u (.st h o) t ∧ s.Posts t u tok (.store n
        (as.map (fun (x : LaneAcc) => { x with bytes := (s.seen u (.st h o)).dataBytes u.gang n o.data x.lane }))))
    ∧ (s.Issues u (.ldl h o) →
      let a := accs (.ldl h o) (storeScalar o) o.offset.toInt { read := true, write := false, watch := 0 } 2
      held (.ldl h o) a ∧ ∀ as, a = .ok as →
        let q := e.padAccs u.core u.slot u.gang ((s.seen u (.ldl h o)).accLanes u.gang h (storeScalar o)) o.data 0 n
          (decide (2 ≤ o.subop.toNat)) 2
        (∀ x, q = .error x → s.Stops u (.ldl h o) x)
        ∧ ∀ ps, q = .ok ps → ∃ t, s.Completes u (.ldl h o) t ∧ s.Posts t u tok (.ldl n (as.zip ps)))
    ∧ (s.Issues u (.atom h o) →
      let i : Instr := .atom h o
      let w := s.seen u i
      (e.logsOf u o.scope.toNat o.offset = none → s.Stops u i (illegal u.gang))
      ∧ ∀ logs degrade, e.logsOf u o.scope.toNat o.offset = some (logs, degrade) →
        let a := accs i (Operand.isS o.dst) (BitVec.truncate 8 o.offset : BitVec 8).toInt
          { read := true, write := decide (o.subop ≠ 0), watch := 2 } 1
        held i a ∧ ∀ as, a = .ok as → ∃ t, s.Completes u i t ∧ s.Posts t u tok
          (.atom o.subop.toNat n o.order.toNat o.scope.toNat .start false logs degrade
            (as.map (fun (x : LaneAcc) => { x with
              data := (w.atomArgs u.gang o n x.lane).1, cmp := (w.atomArgs u.gang o n x.lane).2
              dst := if o.subop = 1 then [] else w.dstPlaces u.gang o.dst n x.lane })) [] s.tick))

/-- LDS, STS and ATOMS (R38, R157, R167, R170): each access lies at the low 32 bits of the address plus the offset in units of its
size, in the workgroup's scratchpad or, in the cluster form, at the offset in bits 21:0 on the core of its cluster that bits 23:22 name, in
its own workgroup's scratchpad on its own core and in that of the launch's lowest workgroup there on another; where some access leaves
it, or its core holds no workgroup of the launch, the gang stops with BOUNDS, where one is misaligned with MISALIGN, and otherwise all
are put in flight on the token. -/
def Obligations.ScratchpadAccessesAreQueued : Prop :=
  ∀ (s : State) (u : Cur) (h : Header) (o : FmtD), s.Unstepped u →
    let n := sizeBytes o.size
    let grp := (s.warp u.core u.slot).group
    let addr := fun (i : Instr) (l : Nat) =>
      (((((s.seen u i).src u.gang 0 o.buf l).toNat % 2 ^ 32 : Nat) : Int) + o.offset.toInt * ((n : Nat) : Int) : Int)
    let ok := fun (i : Instr) (scalar cl : Bool) (mis : Nat) (op : List PadAcc → PendOp) (fill : PadAcc → PadAcc) =>
      let ls := (s.seen u i).accLanes u.gang h scalar
      let out := ls.filter (fun e => (s.padAt u.core grp cl (addr i e.1) n).isNone)
      let mal := ls.filter (fun e => decide (addr i e.1 % ((n : Nat) : Int) ≠ 0))
      let named := fun (l : List (Nat × Mask32)) => l.map (fun e => (e.1, e.2, (addr i e.1 % (2 : Int) ^ 57).toNat))
      (out ≠ [] → s.Stops u i (laneTrap 0x07 .h 0 0 (named out)))
      ∧ (out = [] → mal ≠ [] → s.Stops u i (laneTrap 0x06 .s mis n (named mal)))
      ∧ (out = [] → mal = [] → ∃ (t : State) (as : List PadAcc), s.Completes u i t ∧ s.Posts t u h.settok.toNat (op (as.map fill))
          ∧ as.map (fun a => (a.lane, some (a.core, a.group, a.addr)))
            = ls.map (fun e => (e.1, s.padAt u.core grp cl (addr i e.1) n)))
    let places := fun (i : Instr) (a : PadAcc) => (s.seen u i).dstPlaces u.gang o.dst n a.lane
    (∀ x : Int, s.padAt u.core grp false x n =
      if 0 ≤ x ∧ x + ((n : Nat) : Int) ≤ ((16384 * pwSpad (s.group u.core grp).partition : Nat) : Int) then some (u.core, grp, x.toNat) else none)
    ∧ (∀ x : Int, x < 0 ∨ (2 : Int) ^ 24 ≤ x → s.padAt u.core grp true x n = none)
    ∧ (∀ x : Nat, x < 2 ^ 24 →
        let core := u.core / 4 * 4 + x / 2 ^ 22
        let off := x % 2 ^ 22
        let launch := (s.group u.core grp).launch
        let lies := fun (gr : Nat) => if off + n ≤ 16384 * pwSpad (s.group core gr).partition then some (core, gr, off) else none
        (core = u.core → s.padAt u.core grp true (x : Int) n = lies grp)
        ∧ (core ≠ u.core → (∀ e ∈ (s.core core).groups, e.2.launch ≠ launch) → s.padAt u.core grp true (x : Int) n = none)
        ∧ (core ≠ u.core → ∀ e ∈ (s.core core).groups, e.2.launch = launch →
            (∀ f ∈ (s.core core).groups, f.2.launch = launch → f ≠ e → e.2.linear < f.2.linear) →
            s.padAt u.core grp true (x : Int) n = lies e.1))
    ∧ (s.Issues u (.lds h o) → ok (.lds h o) (Operand.isS o.dst) (decide (2 ≤ o.subop.toNat)) 0 (.padLoad n (o.subop.getLsbD 0))
        (fun a => { a with dst := places (.lds h o) a }))
    ∧ (s.Issues u (.sts h o) → ok (.sts h o) (Operand.sc o.buf && Operand.sc o.data) (decide (2 ≤ o.subop.toNat)) 0 (.padStore n)
        (fun a => { a with bytes := (s.seen u (.sts h o)).dataBytes u.gang n o.data a.lane }))
    ∧ (s.Issues u (.atoms h o) → ok (.atoms h o) (Operand.isS o.dst) o.hbit 1 (.padAtom o.subop.toNat n)
        (fun a => { a with
          data := ((s.seen u (.atoms h o)).atomArgs u.gang o n a.lane).1, cmp := ((s.seen u (.atoms h o)).atomArgs u.gang o n a.lane).2
          dst := if o.subop = 1 then [] else places (.atoms h o) a }))

/-- ACQ, REL, FENCE and SEAL where the gang's effect happens are put in flight on the token, SEAL after sealing the open segment, and
do nothing where it does not happen (R75, R176 to R179); a malformed pair of a log set raises ILLEGAL (R175). As they perform: ACQ of
cluster scope or above replays its logs (R176); REL waits for every earlier store of the warp, and FENCE for every earlier memory
instruction of it; below cluster scope that is all, and from there up they seal the open segment, ask for the publication of all sealed
so far, and leave once it has come about with what a wider scope asks for besides, FENCE replaying its logs as it leaves (R177, R178);
SEAL leaves once its segment has its place in the log area (R179). -/
def Obligations.OrderingIsQueued : Prop :=
  (∀ (s : State) (u : Cur) (h : Header) (o : FmtD), s.Unstepped u →
    let tok := h.settok.toNat
    let logs := (s.enter u h).logsOf u o.scope.toNat o.offset
    let posts := fun (i : Instr) (op : PendOp) => ∃ t, s.Completes u i t
      ∧ if s.acts u i = true then s.Posts t u tok op
        else (t.core u.core).segs = (s.core u.core).segs ∧ (t.core u.core).openSeq = (s.core u.core).openSeq
    (s.Issues u (.acq h o) → (logs = none → s.Stops u (.acq h o) (illegal u.gang))
      ∧ ∀ l d, logs = some (l, d) → posts (.acq h o) (.acq o.scope.toNat l d))
    ∧ (s.Issues u (.rel h o) → posts (.rel h o) (.rel o.scope.toNat .start))
    ∧ (s.Issues u (.fence h o) → (logs = none → s.Stops u (.fence h o) (illegal u.gang))
      ∧ ∀ l d, logs = some (l, d) → posts (.fence h o) (.fence o.scope.toNat l d .start))
    ∧ (s.Issues u (.seal h o) → s.upsets = [] →
      let k := s.core u.core
      let bare := (k.overlay.filter (fun x => x.seg = k.openSeq)).isEmpty
      posts (.seal h o) (.sealUpTo (if bare then none else some k.openSeq))
      ∧ (s.acts u (.seal h o) = true → bare = false → ∃ t, exec (.seal h o) s = .next t ∧ (t.core u.core).openSeq = k.openSeq + 1)))
  ∧ ∀ (s : State) (c slot id : Nat) (p : Pend), s.pendOf c slot id = some p →
    let w := s.warp c slot
    let ends := fun t : State => exec (.resultComplete c slot id) s = .next t
    let stays := ∃ t, ends t ∧ (t.warp c slot).pend = w.pend
    let asks := fun (kind : PendOp → Bool) (scope : Nat) (next : Nat → PendOp) =>
      ((∃ q ∈ w.pend, q.id < p.id ∧ kind q.op = true) → stays)
      ∧ (w.Past p kind → scope < 2 → ∃ t, ends t ∧ s.Leaves t c slot p ∧ (t.core c).l1 = (s.core c).l1
          ∧ (t.core c).segs = (s.core c).segs ∧ (t.core c).openSeq = (s.core c).openSeq)
      ∧ (w.Past p kind → 2 ≤ scope → s.ReleasesWell c → ∃ t, ends t ∧ s.Releases t c
          ∧ s.Becomes t c slot p (next ((t.core c).openSeq - 1)))
    (∀ scope logs degrade, p.op = .acq scope logs degrade → s.upsets = [] → logs.Nodup → ∃ t, ends t ∧ s.Leaves t c slot p
      ∧ (scope < 2 → (t.core c).l1 = (s.core c).l1 ∧ (t.core c).cursors = (s.core c).cursors)
      ∧ (2 ≤ scope → s.Replays t c logs degrade (decide (scope = 5)) []))
    ∧ (∀ scope, p.op = .rel scope .start → asks PendOp.isStore scope (fun n => .rel scope (.sealedUpTo n)))
    ∧ (∀ scope seq, p.op = .rel scope (.sealedUpTo seq) → s.lost = [] →
      (s.Published c scope seq → ∃ t, ends t ∧ s.Leaves t c slot p) ∧ (¬ s.Published c scope seq → stays))
    ∧ (∀ scope logs degrade, p.op = .fence scope logs degrade .start →
      asks PendOp.isMemory scope (fun n => .fence scope logs degrade (.sealedUpTo n)))
    ∧ (∀ scope logs degrade seq, p.op = .fence scope logs degrade (.sealedUpTo seq) → s.lost = [] → 2 ≤ scope →
      (s.Published c scope seq → s.upsets = [] → logs.Nodup → ∃ t, ends t ∧ s.Leaves t c slot p
        ∧ s.Replays t c logs degrade (decide (scope = 5)) [])
      ∧ (¬ s.Published c scope seq → stays))
    ∧ ∀ seq, p.op = .sealUpTo seq →
      ((∃ n, seq = some n ∧ ∃ g ∈ (s.core c).segs, g.seq = n ∧ g.at_ = none) → stays)
      ∧ (¬ (∃ n, seq = some n ∧ ∃ g ∈ (s.core c).segs, g.seq = n ∧ g.at_ = none) → ∃ t, ends t ∧ s.Leaves t c slot p)

/-- A store stands in the storing core's overlay: its own loads, LD and LD.h, read the bytes at once, every other byte reads as
before, and the home view does not change until they are published (R163 to R165, R234, R257). Where the new overlay line makes L1 give
up a copy (R2, R258), LD reads that copy's bytes at their home again. -/
def Obligations.StoresAreSeenByTheirOwnCoreFirst : Prop :=
  ∀ (s : State) (c slot pa : Nat) (bs : List Byte), pa % 64 + bs.length ≤ 64 →
    (∀ o ∈ (s.core c).overlays (pa / 64), o.seg = (s.core c).openSeq ∧ o.slot = slot) →
    let t := s.storeBytes c slot pa bs
    (∀ i, i < bs.length → t.ldByte c (pa + i) = bs.getD i 0 ∧ t.ldhByte c (pa + i) = bs.getD i 0)
    ∧ (∀ a, a < pa ∨ pa + bs.length ≤ a → t.ldhByte c a = s.ldhByte c a
        ∧ (t.ldByte c a = s.ldByte c a ∨ t.ldByte c a = s.homeByte a)
        ∧ ((s.core c).l1.length + (s.core c).overlay.length < 4096 → t.ldByte c a = s.ldByte c a))
    ∧ (∀ a, t.homeByte a = s.homeByte a)
    ∧ ∀ d, d ≠ c → t.core d = s.core d

/-- Folding never changes the home view: not the fold of one line, nor that of the head record of a home's queue (R234, R266). An
in-place write is read back at once from the home view and changes no other byte of it, whatever stands in the queues (R235, R266). -/
def Obligations.TheHomeViewSurvivesItsFolds : Prop :=
  (∀ (s : State) (line a : Nat), (s.foldLine line).homeByte a = s.homeByte a)
  ∧ (∀ (s : State) (home a : Nat), (∀ r ∈ s.foldq, r.home = homeOf (r.record.line * 64)) →
      ∃ t, exec (.ebbFold home) s = .next t ∧ t.homeByte a = s.homeByte a)
  ∧ (∀ (s : State) (a : Nat) (bs : List Byte), let t := s.homeWrite a bs
      (∀ i, i < bs.length → t.homeByte (a + i) = bs.getD i 0) ∧ ∀ x, x < a ∨ a + bs.length ≤ x → t.homeByte x = s.homeByte x)

/-- An atomic at its home gives the old value of the location in the home view and leaves the new one there (R170, R172, Table 7.3):
read, write, exchange, compare and swap, addition, the bit operations, the signed and unsigned extremes, and the wrapping increment,
on words of 4 and 8 bytes; the FP32 sum rounded to nearest even and the FP32 extremes on words of 4, and at no other size. -/
def Obligations.AtomicsReadTheOldAndWriteTheNew : Prop :=
  (∀ (s : State) (a : AtomWork) (l : LaneAcc), a.size = 4 ∨ a.size = 8 →
    let q := s.homeOp a l
    q.2.toNat = ofBytes (s.homeBytes l.pa a.size)
    ∧ ofBytes (q.1.homeBytes l.pa a.size) = (atomNew a.op a.size q.2 l.data l.cmp).toNat % 2 ^ (8 * a.size)
    ∧ ∀ x, x < l.pa ∨ l.pa + a.size ≤ x → q.1.homeByte x = s.homeByte x)
  ∧ (∀ (x v c : W32), let f := fun op => (BitVec.truncate 32 (atomNew op 4 (x.zeroExtend 64) (v.zeroExtend 64) (c.zeroExtend 64)) : W32)
      f 0 = x ∧ f 1 = v ∧ f 2 = v ∧ f 3 = (if x = c then v else x) ∧ f 4 = x + v ∧ f 5 = x &&& v ∧ f 6 = x ||| v ∧ f 7 = x ^^^ v
      ∧ f 8 = (if x.sle v then x else v) ∧ f 9 = (if v.sle x then x else v) ∧ f 10 = (if x.ule v then x else v)
      ∧ f 11 = (if v.ule x then x else v) ∧ f 15 = (if v.ule x then 0 else x + 1)
      ∧ f 12 = BitVec.ofNat 32 (fp32.dot 0 [] [fp32.decode x.toNat, fp32.decode v.toNat]).bits
      ∧ f 13 = BitVec.ofNat 32 (fp32.minMax false x.toNat v.toNat).bits ∧ f 14 = BitVec.ofNat 32 (fp32.minMax true x.toNat v.toNat).bits)
  ∧ (∀ (h : Header) (o : FmtD), o.size ≠ 2 → o.subop.toNat ∈ [12, 13, 14] →
      fieldsOk (.atom h o) = false ∧ fieldsOk (.atoms h o) = false)
  ∧ (∀ (x v c : W64), let f := fun op => atomNew op 8 x v c
      f 0 = x ∧ f 1 = v ∧ f 2 = v ∧ f 3 = (if x = c then v else x) ∧ f 4 = x + v ∧ f 5 = x &&& v ∧ f 6 = x ||| v ∧ f 7 = x ^^^ v
      ∧ f 8 = (if x.sle v then x else v) ∧ f 9 = (if v.sle x then x else v) ∧ f 10 = (if x.ule v then x else v)
      ∧ f 11 = (if v.ule x then x else v) ∧ f 15 = (if v.ule x then 0 else x + 1))

/-- RESULT_COMPLETE (R74): what work in flight does as it performs, one step at a time. Values known at issue, and values that have come
back, stand in their places, and their flags in FSTATUS. LD and LD.h take in each lane's bytes, zeros for a dropped lane, and give each
lane's places the number they make, extended by its sign or by zeros (R158, R161, R163, R164); ST leaves the bytes in the overlay, the
last lane's where lanes meet, and waits in a log-full stall (R165, R180); LDS, STS and LDL likewise in scratchpad (R167, R168). ATOMS
performs lane after lane, each from the state that the one before leaves, and gives each the old value (R170, R174). ATOM releases what its order asks for and looks at the overlay, waits for its homes, and then gives each lane the old value, drops the copies
of its lines and replays where it acquires (R172). LBINIT writes its barrier and LBARRIVE counts on it (R222, R223). LAUNCH publishes as
REL.package, reads its block and gives its status (R227). Values that come back are
written in a step of their own (R74). -/
def Obligations.ResultsLandAndCountDown : Prop :=
  ∀ (s : State) (c slot id : Nat) (p : Pend), s.pendOf c slot id = some p →
    let w := s.warp c slot
    let k := s.core c
    let ends := fun t : State => exec (.resultComplete c slot id) s = .next t
    (∀ ws fl, p.op = .regs ws fl ∨ fl = 0 ∧ (∃ h, p.op = .loaded ws h) → (ws.map (·.1)).Nodup →
      (∀ e ∈ ws, match e.1 with | .row _ _ l => l < 4 | .hrow _ _ l => l < 4 | .sreg _ _ => True) →
      ∃ t, ends t ∧ s.Leaves t c slot p
        ∧ (∀ e ∈ ws, (t.warp c slot).placeNow e.1 = match e.1 with | .sreg _ _ => e.2 | _ => BitVec.ofNat 64 (e.2.toNat % 2 ^ 32))
        ∧ ∀ j ∈ gangSlices p.gang, ((t.warp c slot).slice j).fstatus = (w.slice j).fstatus ||| fl)
    ∧ (∀ n signed home ls, p.op = .load n signed home ls → n ∈ [1, 2, 4, 8, 16] → w.Alone p → s.LoadsWell c n ls →
      ∃ t vs, ends t ∧ s.Returns t c slot p vs false
        ∧ ∀ a ∈ ls, Delivers vs a.dst (loadedNumber n signed (s.laneBytes c n home a)))
    ∧ (∀ n ls, p.op = .store n ls → w.Alone p → w.Past p PendOp.isUnsealed →
      let live := ls.filter (fun a => !a.dropped)
      (k.logFull w.group (accLines ls) = true → ∃ t, ends t ∧ (t.warp c slot).pend = w.pend)
      ∧ (k.logFull w.group (accLines ls) = false → s.upsets = [] → (∀ a ∈ live, a.pa % 64 + a.bytes.length ≤ 64) →
        (∀ a ∈ live, (∀ o ∈ k.overlays (a.pa / 64), o.seg = k.openSeq → o.slot = w.group)
          ∧ ∀ o ∈ (k.overlays (a.pa / 64)).dropLast, o.seg ≠ k.openSeq) →
        ∃ t, ends t ∧ s.Leaves t c slot p ∧ (t.core c).openSeq = k.openSeq ∧ ∀ x, t.homeByte x = s.homeByte x
          ∧ (t.core c).overlayByte x = match (live.filter (fun a => decide (a.pa ≤ x) && decide (x < a.pa + a.bytes.length))).getLast? with
            | some a => some (a.bytes.getD (x - a.pa) 0)
            | none => k.overlayByte x))
    ∧ (∀ n signed ls, p.op = .padLoad n signed ls → w.Alone p → s.upsets = [] → ∃ t vs, ends t ∧ s.Returns t c slot p vs false
      ∧ ∀ a ∈ ls, Delivers vs a.dst (loadedNumber n signed ((s.group a.core a.group).padRead a.addr n)))
    ∧ (∀ n ls, p.op = .padStore n ls → w.Alone p → s.PadsFree ls → ∃ t, ends t ∧ s.Leaves t c slot p
      ∧ ∀ a ∈ ls, ∀ x, (t.group a.core a.group).padByte x = s.padAfter (ls.map (fun q => (q, q.bytes))) a.core a.group x)
    ∧ (∀ n ls, p.op = .ldl n ls → w.Alone p → s.PadsFree (ls.map (·.2)) → s.LoadsWell c n (ls.map (·.1)) →
      ∃ t, ends t ∧ s.Leaves t c slot p ∧ ∀ a ∈ ls, ∀ x, (t.group a.2.core a.2.group).padByte x
        = s.padAfter (ls.map (fun q => (q.2, s.laneBytes c n false q.1))) a.2.core a.2.group x)
    ∧ (∀ op n ls, p.op = .padAtom op n ls → w.Alone p → s.upsets = [] → s.PadsFree ls →
      ∃ (t : State) (vs : List (Place × W64)) (m : Nat → Nat → Nat → Nat → Byte), ends t ∧ s.Returns t c slot p vs false
        ∧ (∀ d g x, m 0 d g x = (s.group d g).padByte x)
        ∧ (∀ i a, ls[i]? = some a →
          let old := ofBytes ((List.range n).map (fun j => m i a.core a.group (a.addr + j)))
          let new := (atomNew op n (BitVec.ofNat 64 old) a.data a.cmp).toNat
          Delivers vs a.dst (old % 2 ^ 64) ∧ ∀ d g x, m (i + 1) d g x =
            if op ≠ 0 ∧ d = a.core ∧ g = a.group ∧ a.addr ≤ x ∧ x < a.addr + n then (toBytes n new).getD (x - a.addr) 0 else m i d g x)
        ∧ ∀ a ∈ ls, ∀ x, (t.group a.core a.group).padByte x = m ls.length a.core a.group x)
    ∧ (∀ a : AtomWork, p.op.atomWork = some a → a.lanes ≠ [] → a.logs.Nodup → s.upsets = [] →
      let acquires := a.order = 1 ∨ a.order = 3
      let lines := accLines a.lanes
      let asks := fun looked => ∃ t, ends t ∧ s.Releases t c
        ∧ s.Becomes t c slot p { a with stage := .sealedUpTo ((t.core c).openSeq - 1), looked := looked }.pend
      let goes := ∃ t, ends t ∧ s.Becomes t c slot p { a with stage := .released, looked := true, tick := s.tick }.pend
      let marked := ∃ l ∈ lines, ∃ o ∈ k.overlays l, o.mask ≠ 0
      (a.stage = .start → w.Alone p → w.Past p (fun q => q.isStore && q.lines.any (fun l => lines.contains l)) →
        let plain := a.order < 2 ∨ a.scope < 2
        (a.order < 2 ∨ w.Past p (fun q => q.isStore || q.isSts)) →
        (¬ plain → s.ReleasesWell c → asks a.looked)
        ∧ (plain → marked → w.Past p PendOp.isStore → s.ReleasesWell c → asks true) ∧ (plain → ¬ marked → goes))
      ∧ (∀ seq, a.stage = .sealedUpTo seq → s.lost = [] → s.Published c a.scope seq →
        (a.looked = true ∨ ¬ marked → goes)
        ∧ (a.looked = false → marked → w.Past p PendOp.isStore → s.ReleasesWell c → asks true))
      ∧ (a.stage = .released → (∀ l ∈ a.live, a.outcome l.lane = .done) →
        ∃ t vs, ends t ∧ s.Returns t c slot p vs (decide acquires)
          ∧ (∀ l ∈ a.lanes, Delivers vs l.dst (if l.dropped then 0 else l.cmp.toNat))
          ∧ (acquires ∧ 2 ≤ a.scope → s.Replays t c a.logs a.degrade (decide (a.scope = 5)) lines)
          ∧ (¬ (acquires ∧ 2 ≤ a.scope) → ∀ l, Tab.find l (t.core c).l1 = if l ∈ lines then none else Tab.find l k.l1)))
    ∧ (∀ pc pg at_ v, p.op = .lbinit pc pg at_ v → w.Alone p → (Tab.find pg (s.core pc).groups).isSome = true → (s.core pc).windows = [] →
      ∃ t, ends t ∧ s.Leaves t c slot p ∧ (t.group pc pg).padRead at_ 8 = toBytes 8 v.toNat)
    ∧ (∀ pc pg at_ n, p.op = .lbarrive pc pg at_ n → w.Alone p → w.Past p PendOp.isPadStore → s.upsets = [] →
      (Tab.find pg (s.core pc).groups).isSome = true → (s.core pc).windows = [] →
      ∃ t, ends t ∧ s.Leaves t c slot p
        ∧ (t.group pc pg).padRead at_ 8 = toBytes 8 (lbCount (ofBytes ((s.group pc pg).padRead at_ 8)) n))
    ∧ ∀ pa dst stage, p.op = .launch pa dst stage →
      (stage = .start → w.Past p (fun q => q.isStore || q.isPadWrite) → s.ReleasesWell c → ∃ t, ends t ∧ s.Releases t c
        ∧ s.Becomes t c slot p (.launch pa dst (.sealedUpTo ((t.core c).openSeq - 1))))
      ∧ (∀ seq, stage = .sealedUpTo seq → s.Published c 3 seq → ∃ t, ends t ∧ s.Becomes t c slot p (.launch pa dst .released))
      ∧ (stage = .released → s.upsets = [] → (∀ l ∈ linesOf pa 256, s.isPoisoned l = false ∧ s.lostAt (l * 64) = false) →
        ∃ t n, ends t ∧ n ≤ 3 ∧ s.Becomes t c slot p (.loaded (dst.map (fun d => (d, BitVec.ofNat 64 n))) false)
          ∧ t.launches.map (·.handle) = s.launches.map (·.handle) ++ if n = 0 then [s.nextHandle] else [])

/-! Shapes, teams and the matrix engine -/

/-- MSHAPE, MTEAM, MTEAM.rd, MSTRIDE, MFENCE and MWAIT (R183, R186 to R188, R199, R200): where the gang's effect happens, MTEAM takes
the grant or the low 33 bits of the source, the destination is promised the grant or MTEAM, bs takes 16 bits, no old byte of the
warp's frames stays readable, and no window of an instruction that counted on the token stays open. A grant keeps what was asked for,
but for the columns, which the workgroup's accumulator granules limit; a refused one carries zeros. -/
def Obligations.ShapesAndTeamsAreSetAtIssue : Prop :=
  (∀ (accs : Nat) (req : W64), let n := fun (v : W64) (hi lo : Nat) => BitVec.field v hi lo
      let g := shapeGrant accs req
      let cap := if n req 22 19 = 3 then min 128 (16 * accs) else min 256 (32 * accs)
      let legal := n req 9 7 ≤ 6 ∧ n req 6 0 ∈ [1, 2, 4, 8, 16, 32, 64] ∧ 2 * 2 ^ n req 9 7 * n req 6 0 ≤ 128 ∧ 1 ≤ n req 18 10 ∧ n req 18 10 ≤ 256
        ∧ stageFmt (n req 22 19) = true ∧ stageFmt (n req 26 23) = true ∧ (n req 22 19 = 3 ↔ n req 26 23 = 3) ∧ 0 < accs
      (g.getLsbD 63 = true ↔ legal) ∧ (¬ legal → n g 26 0 = 0 ∧ 0x10 ≤ n g 62 56 ∧ n g 62 56 ≤ 0x14)
      ∧ (legal → n g 6 0 = n req 6 0 ∧ n g 9 7 = n req 9 7 ∧ n g 22 19 = n req 22 19 ∧ n g 26 23 = n req 26 23
          ∧ n g 18 10 = min (n req 18 10) cap ∧ n g 62 56 = if cap < n req 18 10 then 1 else 0))
  ∧ ∀ (s : State) (u : Cur) (h : Header) (o : FmtG), s.Unstepped u →
    let tok := h.settok.toNat
    let grp := (s.warp u.core u.slot).group
    let team := (s.warp u.core u.slot).mteam
    let src := fun i : Instr => (s.seen u i).readS u.gang (Operand.num o.opx)
    let holds := fun (i : Instr) (p : State → Prop) => ∃ t, s.Completes u i t ∧ (s.acts u i = true → p t)
      ∧ (s.acts u i = false → (t.warp u.core u.slot).mteam = team ∧ (t.warp u.core u.slot).bs = (s.warp u.core u.slot).bs)
    (s.Issues u (.mshape h o) →
      let req := src (.mshape h o)
      let wide := (BitVec.field req 22 19 = 3 ∨ BitVec.field req 26 23 = 3) ∧ coreWide u.core = false
      (BitVec.field req 63 27 ≠ 0 → s.Stops u (.mshape h o) (illegal u.gang))
      ∧ (BitVec.field req 63 27 = 0 → wide → s.Stops u (.mshape h o) (featureFault u.gang))
      ∧ (BitVec.field req 63 27 = 0 → ¬ wide → holds (.mshape h o) (fun t =>
          let g := shapeGrant (pwAcc (s.group u.core grp).partition) req
          let m := (t.warp u.core u.slot).mteam
          m.getLsbD 63 = g.getLsbD 63 ∧ BitVec.field m 62 36 = BitVec.field g 26 0 ∧ BitVec.field m 35 0 = BitVec.field team 35 0
          ∧ s.Posts t u tok (.regs ((placesS u.gang (Operand.num o.opw)).map (fun p => (p, g))) 0))))
    ∧ (s.Issues u (.mteam h o) →
      let v := src (.mteam h o)
      (teamBad v (s.group u.core grp).slots.length = true → s.Stops u (.mteam h o) (illegal u.gang))
      ∧ (teamBad v (s.group u.core grp).slots.length = false → holds (.mteam h o) (fun t =>
          let m := (t.warp u.core u.slot).mteam
          BitVec.field m 63 33 = BitVec.field team 63 33 ∧ BitVec.field m 32 0 = BitVec.field v 32 0)))
    ∧ (s.Issues u (.mteamRd h o) → holds (.mteamRd h o) (fun t =>
        s.Posts t u tok (.regs ((placesS u.gang (Operand.num o.opw)).map (fun p => (p, team))) 0)))
    ∧ (s.Issues u (.mstride h o) → holds (.mstride h o) (fun t => ∀ k,
        Tab.get 0 (t.warp u.core u.slot).bs k = if k = o.stride.toNat then BitVec.truncate 16 ((s.seen u (.mstride h o)).srcS u.gang 0 o.opx)
          else Tab.get 0 (s.warp u.core u.slot).bs k))
    ∧ (s.Issues u (.mfence h o) → holds (.mfence h o) (fun t =>
        (∀ j, (t.sliceOf u j).unfenced = [] ∧ (t.sliceOf u j).hunfenced = [])
        ∧ ∀ e ∈ (t.group u.core grp).unfenced, ∀ q ∈ e.2, q.due.getLsbD (s.warp u.core u.slot).idx = true →
            q.mask.getLsbD (s.warp u.core u.slot).idx = false))
    ∧ (s.Issues u (.mwait h o) → Tab.get 0 (s.warp u.core u.slot).tok o.subop.toNat = 0 ∨ (s.warp u.core u.slot).gangActs u.gang h = false)
    ∧ (s.Issues u (.mwait h o) → holds (.mwait h o) (fun t =>
        ∀ x ∈ (t.core u.core).windows, ∀ m ∈ x.members, ¬ (m.1 = u.slot ∧ m.2.2 = o.subop.toNat + 1)))

/-- BFLY and BCHAIN (R189 to R192, R196, R197): a check of R196 that fails stops the gang; one that passes them waits at its workgroup's
latch, with the fields, registers, strides and frame rows that it supplies, and moves nothing else. LATCH_OPEN, once every member of the
team has arrived and all agree, hands the engine one instruction of all members and lets them go on to their next slot: so the last
member's instruction completes. -/
def Obligations.TeamInstructionsMeetAtTheLatch : Prop :=
  (∀ (chain : Bool) (s : State) (u : Cur) (h : Header) (o : FmtG),
    let i : Instr := if chain then .bchain h o else .bfly h o
    s.Issues u i → s.Unstepped u →
    let grp := (s.warp u.core u.slot).group
    let w := s.seen u i
    let c := (s.enter u h).teamCheck u h (w.stageUse u.gang o chain)
    let mteam := (s.warp u.core u.slot).mteam
    (h.guard ≠ 7 ∨ h.gneg = true ∨ h.settok = 0 → c = some (illegal u.gang))
    ∧ (h.guard = 7 → h.gneg = false → h.settok ≠ 0 → (BitVec.field mteam 32 30 = 0 ∨ mteam.getLsbD 63 = false) → c = some (illegal u.gang))
    ∧ (∀ x, c = some x → s.Stops u i x)
    ∧ (c = none → s.upsets = [] →
      let f := w.readS u.gang (Operand.num o.fmt)
      let aux := w.readS u.gang (Operand.num o.aux)
      let alpha : W64 := if BitVec.field f 43 42 ≠ 2 then 0
        else if BitVec.field f 3 0 = 3 then aux else BitVec.zeroExtend 64 (BitVec.truncate 32 aux : W32)
      let pair := fun x : Operand => match x with
        | .s i => [w.readS u.gang i, w.readS u.gang (i + 1)]
        | _ => [0, 0]
      let tiles := if chain then o.count.toNat else 1
      let first := if chain then 0 else o.count.toNat
      let strides := if o.split then [BitVec.field mteam 42 36]
        else (List.range tiles).map (fun i => (Tab.get 0 (s.warp u.core u.slot).bs (o.stride.toNat + i)).toNat)
      let n := 2 * 2 ^ BitVec.field mteam 45 43 * BitVec.field mteam 42 36
      let team := teamSlots mteam
      let rows := fun (x : Operand) (width code skip tiles : Nat) => match x with
        | .f i =>
          let per := ((n * width * elemBits code + 1023) / 1024 + team.length - 1) / max 1 team.length
          (List.range (tiles * per)).flatMap (fun k => (List.range 8).map (fun j =>
            (w.slice j).stageRow w.rowB w.seed j (i.val + skip * per + k)))
        | _ => []
      ∃ t, exec i s = .next t
        ∧ (∀ j ∈ gangSlices u.gang, (t.sliceOf u j).pc = (s.sliceOf u j).pc ∧ (t.sliceOf u j).wait = .latch)
        ∧ (∃ a : Arrival, t.group u.core grp = { s.group u.core grp with latch := (s.group u.core grp).latch ++ [a] }
          ∧ a.warp = (s.warp u.core u.slot).idx ∧ a.slot = u.slot ∧ a.gang = u.gang ∧ a.tok = h.settok.toNat ∧ a.ops = o ∧ a.chain = chain
          ∧ a.mteam = mteam ∧ a.fmt = f ∧ a.pc = (s.sliceOf u (gangLeader u.gang)).pc ∧ a.alpha = alpha ∧ a.opw = pair o.opw
          ∧ a.opx = pair o.opx ∧ a.strides = strides
          ∧ a.rowsW = rows o.opw (2 * 2 ^ BitVec.field mteam 45 43) (BitVec.field f 3 0) first tiles
          ∧ a.rowsX = rows o.opx (BitVec.field mteam 54 46) (BitVec.field f 24 21) 0 1)
        ∧ (s.Unobserved u → t.mem = s.mem ∧ (∀ a, t.homeByte a = s.homeByte a ∧ t.ldByte u.core a = s.ldByte u.core a)
          ∧ (t.core u.core).mq = (s.core u.core).mq ∧ (∀ v, v ≠ u.slot → t.warp u.core v = s.warp u.core v)
          ∧ ∀ j, (t.sliceOf u j).still = if j ∈ gangSlices u.gang
              then { (s.sliceOf u j).still with wait := .latch, waitSince := s.cycle } else (s.sliceOf u j).still)
        ∧ ((s.group u.core grp).saving = none → (∀ i ∈ team, s.gone u.core grp i = false) →
          (∀ b ∈ (s.group u.core grp).latch, b.slot ≠ u.slot ∧ b.warp ≠ (s.warp u.core u.slot).idx) →
          ((team.filterMap (fun i => (s.group u.core grp).latch.find? (fun b => b.warp = i))).map (·.slot)).Nodup →
          (∀ i ∈ team, i ≠ (s.warp u.core u.slot).idx → ∃ b, (s.group u.core grp).latch.find? (fun b => b.warp = i) = some b
            ∧ b.ops = o ∧ b.mteam = mteam ∧ b.fmt = f ∧ b.alpha = alpha ∧ b.opw = pair o.opw ∧ b.opx = pair o.opx ∧ b.strides = strides
            ∧ b.chain = chain) →
          ∃ r, exec (.latchOpen u.core u.slot) t = .next r
            ∧ (∃ e, (r.core u.core).mq = (s.core u.core).mq ++ [e] ∧ e.kind = (if chain then .bchain else .bfly)
              ∧ (u.slot, u.gang, h.settok.toNat) ∈ e.members)
            ∧ ∀ j ∈ gangSlices u.gang, (r.sliceOf u j).wait = .ready ∧ (r.sliceOf u j).pc = nextSlot (s.sliceOf u j).pc)))
  ∧ ∀ (s : State) (c slot : Nat) (a : Arrival) (ms : List Arrival),
    let grp := (s.warp c slot).group
    let g := s.group c grp
    let team := teamSlots a.mteam
    g.latch.find? (fun x => x.slot = slot) = some a → ms = team.filterMap (fun i => g.latch.find? (fun b => b.warp = i)) →
    ms.length = team.length → g.saving = none → (∀ i ∈ team, s.gone c grp i = false) → (∀ b ∈ ms, b.agrees a = true) →
    (blockFp64 a.fmt = false ∨ coreWide c = true) → (ms.map (·.slot)).Nodup → ms ≠ [] →
    ∃ t, exec (.latchOpen c slot) s = .next t
      ∧ (t.core c).nextReq = (s.core c).nextReq + 1
      ∧ (∃ e, (t.core c).mq = (s.core c).mq ++ [e] ∧ e.id = (s.core c).nextReq ∧ e.members = ms.map (fun m => (m.slot, m.gang, m.tok))
          ∧ e.kind = (if (ms.headD a).chain then .bchain else .bfly) ∧ e.acc = (ms.headD a).ops.acc.toNat
          ∧ e.fmt = (ms.headD a).fmt ∧ e.alpha = (ms.headD a).alpha ∧ e.strides = (ms.headD a).strides ∧ e.finished = false)
      ∧ (∀ b, b ∈ (t.group c grp).latch ↔ b ∈ g.latch ∧ b ∉ ms)
      ∧ ∀ m ∈ ms, ∀ j ∈ gangSlices m.gang,
          ((t.warp c m.slot).slice j).wait = .ready ∧ ((t.warp c m.slot).slice j).pc = nextSlot ((s.warp c m.slot).slice j).pc

/-- MSCALE both ways, MLOAD, MSTORE and MZERO (R184, R205 to R209): past their checks, where the gang's effect happens, the engine's
queue gains the instruction last, and the token counts it. Bytes outside the scratchpad or the scale window raise BOUNDS, and a shape,
pair or region that does not exist ILLEGAL. -/
def Obligations.EngineTransfersAreAccepted : Prop :=
  ∀ (s : State) (u : Cur) (h : Header) (o : FmtG), s.Unstepped u →
    let grp := (s.warp u.core u.slot).group
    let g := s.group u.core grp
    let id := (s.core u.core).nextReq
    let accs := pwAcc g.partition
    let scales := 1024 * accs
    let accepts := fun (i : Instr) (kind : EngKind) (f : EngInstr → Prop) =>
      ∃ t, s.Completes u i t ∧ if s.acts u i = true then
          s.Posts t u h.settok.toNat (.engine id) ∧ (t.core u.core).nextReq = id + 1
          ∧ ∃ e, (t.core u.core).mq.getLast? = some e ∧ (t.core u.core).mq.map (·.id) = (s.core u.core).mq.map (·.id) ++ [id]
            ∧ e.group = grp ∧ e.kind = kind ∧ e.members = [(u.slot, u.gang, h.settok.toNat)] ∧ e.finished = false ∧ f e
        else (t.core u.core).mq.map (·.id) = (s.core u.core).mq.map (·.id)
    (∀ out : Bool, let i : Instr := if out then .mscaleOut h o else .mscale h o
      s.Issues u i →
      let v := fun x => ((s.seen u i).srcS u.gang 0 x).toNat
      let bad := v o.aux ≠ 0 ∧ (g.padBytes < v o.opx + v o.aux ∨ scales < v o.opw + v o.aux)
      (bad → s.Stops u i (boundsFault (gangMask u.gang)))
      ∧ (¬ bad → accepts i (.mscale out) (fun e => e.off = v o.opw ∧ e.count = v o.aux ∧ e.x = .pad (v o.opx) 0 0 0 0)))
    ∧ (∀ store : Bool, let i : Instr := if store then .mstore h o else .mload h o
      s.Issues u i →
      let w := s.seen u i
      let f := o.subop.toNat
      let shape := w.readS u.gang (Operand.num o.aux)
      let rows := BitVec.field shape 7 0
      let cols := BitVec.field shape 16 8
      let p := w.stagePair u.gang o.opx
      let bytes := rowBytes cols f
      let regions := (cols + (if f = 3 then 15 else 31)) / (if f = 3 then 16 else 32)
      let len := 32 * 2 ^ (o.count.toNat % 4)
      let blocks := store = true ∧ isBfp f = true
      let off := (w.srcS u.gang 0 o.fmt).toNat
      let ill := BitVec.field shape 63 17 ≠ 0 ∨ rows = 0 ∨ 128 < rows ∨ cols = 0 ∨ 256 < cols ∨ spBad p.1 p.2 bytes false false = true
        ∨ accs < o.acc.toNat + regions ∨ (blocks ∧ rows * cols % len ≠ 0)
      let out := spRows p.2 < rows ∨ (∃ r, r < rows ∧ 0 < bytes ∧ g.padBytes < spBase p.1 + r * spRpitch p.1 + bytes)
        ∨ (blocks ∧ scales < off + rows * cols / len)
      (ill → s.Stops u i (illegal u.gang)) ∧ (¬ ill → out → s.Stops u i (boundsFault (gangMask u.gang)))
      ∧ (¬ ill → ¬ out → accepts i (if store then .mstore f (o.count.toNat % 4) else .mload f) (fun e =>
          e.acc = o.acc.toNat ∧ e.h = rows ∧ e.wd = cols ∧ e.x = .pad (spBase p.1) (spRpitch p.1) 0 0 0 ∧ (store = true → e.off = off))))
    ∧ (s.Issues u (.mzero h o) →
      (accs < o.acc.toNat + o.count.toNat → s.Stops u (.mzero h o) (illegal u.gang))
      ∧ (o.acc.toNat + o.count.toNat ≤ accs → accepts (.mzero h o) .mzero (fun e => e.acc = o.acc.toNat ∧ e.count = o.count.toNat)))

/-! System registers, launches, objects, rings and barriers -/

/-- MFS, MTS, RDTICK and RDCTR (R21, R22, R211, R228, R229, R354, R355): a frame destination holds in each executing lane its lane number
for LANE and its slice's or warp's value otherwise, a scalar one the leader's value; MTS raises PROT outside a handler but for FSTATUS,
ILLEGAL for an unaligned SPILLTOP or BSLIMIT, and else puts its write in flight where the gang's effect happens, which stands once it
lands: in the gate's copies inside a service, a SPILLTOP only when no spill or refill is under way; RDTICK gives the tick; RDCTR the
counter, a node of the tree being the sum of its children (EMPTY counting the slots passed with no warp when it is read, the model's
way of it, log entry 56), and ALL of the pipes. -/
def Obligations.SystemRegistersReadAndWrite : Prop :=
  (∀ (s : State) (u : Cur) (h : Header) (o : FmtE), s.Unstepped u →
    let e := s.enter u h
    (∀ d : Fin 64, o.dst = .f d → s.Issues u (.mfs h o) → ∃ t, s.Completes u (.mfs h o) t ∧ s.LanesBecome t u (.mfs h o) d (fun l =>
      if o.imm = 0x006 then BitVec.ofNat 32 l else BitVec.truncate 32 (e.sysRead u.core u.slot (l / 4) o.imm.toNat)))
    ∧ (∀ d : Fin 32, o.dst = .s d →
      (s.Issues u (.mfs h o) → ∃ t, s.Completes u (.mfs h o) t
        ∧ s.ScalarBecomes t u (.mfs h o) d (e.sysRead u.core u.slot (gangLeader u.gang) o.imm.toNat))
      ∧ (s.Issues u (.rdtick h o) → ∃ t, s.Completes u (.rdtick h o) t ∧ s.ScalarBecomes t u (.rdtick h o) d (BitVec.ofNat 64 s.tick))
      ∧ (s.Issues u (.rdctr h o) → ∃ t, s.Completes u (.rdctr h o) t ∧ s.ScalarBecomes t u (.rdctr h o) d (s.readCtr u.core o.imm)))
    ∧ (s.Issues u (.mts h o) →
      let n := o.imm.toNat
      let v := (s.seen u (.mts h o)).srcS u.gang 2 o.srcA
      let free := n = 0x13 ∨ (s.sliceOf u (gangLeader u.gang)).handler.isSome
      let ill := (n = 0x03 ∨ n = 0x04) ∧ v.toNat % 16 ≠ 0
      (¬ free → s.Stops u (.mts h o) (protFault u.gang))
      ∧ (free → ill → s.Stops u (.mts h o) (illegal u.gang))
      ∧ (free → ¬ ill → ∃ t, s.Completes u (.mts h o) t
          ∧ (s.acts u (.mts h o) = true → s.Posts t u h.settok.toNat (.sys n v)))))
  ∧ (∀ (s : State) (c slot id n : Nat) (v : W64) (p : Pend), s.pendOf c slot id = some p → p.op = .sys n v →
      let w := s.warp c slot
      let x : VA := BitVec.truncate 57 v
      ∃ t, exec (.resultComplete c slot id) s = .next t ∧ (t.warp c slot).pend = w.pend.filter (fun q => q.id ≠ id)
        ∧ (p.tok ≠ 0 → Tab.get 0 (t.warp c slot).tok (p.tok - 1) = Tab.get 0 w.tok (p.tok - 1) - 1)
        ∧ (∀ j ∈ gangSlices p.gang,
          let a := w.slice j
          let b := (t.warp c slot).slice j
          (n = 0x13 → b.fstatus = BitVec.truncate 32 v &&& 0x3F)
          ∧ (n = 0x19 → b.resume = x)
          ∧ (n = 0x04 → (a.gates = [] → b.bsLimit = x) ∧ ∀ e r, a.gates = e :: r → b.gates = { e with limit := x } :: r)
          ∧ (n = 0x03 → (a.held = [] → a.coming = [] → b.spillTop = x)
              ∧ (a.held ≠ [] ∨ a.coming ≠ [] → b.spillTop = a.spillTop ∧ b.newSpillTop = some x)))
        ∧ (n = 0x18 → ((w.slice (gangLeader p.gang)).gates = [] → (t.warp c slot).handler = x)
          ∧ ∀ j e r, j < 8 → (w.slice j).gates = e :: r → ((t.warp c slot).slice j).gates = { e with handler := x } :: r))
  ∧ (∀ (s : State) (c slot j : Nat), let w := s.warp c slot
      let sl := w.slice j
      let g := s.group c w.group
      let r := fun n => (s.sysRead c slot j n).toNat
      sl.hazards = [] →
      r 0x00 = (sl.top + w.rowB - sl.fsz - 2) % w.rowB % 2 ^ 64
      ∧ r 0x04 = (match sl.gates with | e :: _ => e.limit.toNat | [] => sl.bsLimit.toNat) ∧ r 0x13 = sl.fstatus.toNat ∧ r 0x14 = 0x6635
      ∧ r 0x15 = 0x200 + (if g.region.redund then 2 else 0) + (if 6 ≤ c / 64 then 1 else 0)
      ∧ r 0x18 = (match sl.gates with | e :: _ => e.handler.toNat | [] => w.handler.toNat)
      ∧ r 0x01 = (if sl.handler.isSome then 16 else sl.fsz % 2 ^ 64) ∧ r 0x02 = sl.depth % 2 ^ 64 ∧ r 0x03 = sl.spillTop.toNat ∧ r 0x05 = sl.gang.toNat
      ∧ r 0x07 = w.idx % 2 ^ 64 ∧ r 0x08 = g.x.toNat ∧ r 0x09 = g.y.toNat ∧ r 0x0A = g.z.toNat ∧ r 0x0B = g.core % 2 ^ 64 ∧ r 0x10 = w.asid.toNat
      ∧ r 0x11 = w.domain.toNat ∧ r 0x12 = w.preq.toNat ∧ r 0x16 = g.partition.toNat ∧ r 0x17 = s.tick % 2 ^ 64 ∧ r 0x19 = sl.resume.toNat)
  ∧ ∀ (s : State) (c p : Nat), let n := fun k => s.pipeCtr c p k
      n 0x00 = n 0x01 + n 0x02 + n 0x03 ∧ n 0x01 = n 0x10 + n 0x11 + n 0x12 + n 0x13 + n 0x14 + n 0x15
      ∧ n 0x02 = n 0x20 + n 0x04 + n 0x05 + n 0x06 + n 0x07 ∧ n 0x04 = n 0x21 + n 0x22 + n 0x23
      ∧ n 0x05 = n 0x24 + n 0x25 + n 0x26 + n 0x27 ∧ n 0x06 = n 0x28 + n 0x29
      ∧ n 0x07 = n 0x2A + n 0x2B + n 0x2C + n 0x2D + n 0x2E + n 0x2F
      ∧ (∀ k, 0x10 ≤ k → k < 0x40 → n k = s.counter c (p * 256 + k))
      ∧ (∀ k, k < 0x40 → (s.readCtr c (BitVec.ofNat 16 (0x400 + k))).toNat
          = (s.pipeCtr c 0 k + s.pipeCtr c 1 k + s.pipeCtr c 2 k + s.pipeCtr c 3 k) % 2 ^ 64
        ∧ (p < 4 → (s.readCtr c (BitVec.ofNat 16 (256 * p + k))).toNat = s.pipeCtr c p k % 2 ^ 64))
      ∧ ∀ k, 0x40 ≤ k → k < 256 → (s.readCtr c (BitVec.ofNat 16 k)).toNat = s.counter c (1024 + k) % 2 ^ 64

/-- LAUNCH, XKICK, LBINIT, LBARRIVE and LBWAIT (R212 to R214, R222, R223, R227): an object that leaves the scratchpad raises BOUNDS and a
misaligned one ILLEGAL; past their checks, where the gang's effect happens, the request is posted or the work put in flight on the
token, and LBWAIT holds the gang on its barrier. Counts on a barrier add up. -/
def Obligations.LaunchesRequestsAndLandingBarriers : Prop :=
  (∀ (s : State) (u : Cur) (h : Header) (o : FmtE), s.Unstepped u →
    let tok := h.settok.toNat
    let grp := (s.warp u.core u.slot).group
    let x := s.group u.core grp
    let v := fun (i : Instr) (q : Operand) => ((s.seen u i).srcS u.gang 2 q).toNat
    let object := fun (i : Instr) (n : Nat) (k : Nat → Prop) =>
      let a := v i o.srcA % 2 ^ 32
      (x.padBytes < a + n → s.Stops u i (boundsFault (gangMask u.gang)))
      ∧ (a + n ≤ x.padBytes → a % n ≠ 0 → s.Stops u i (illegal u.gang))
      ∧ (a + n ≤ x.padBytes → a % n = 0 → k a)
    let posts := fun (i : Instr) (op : PendOp) => ∃ t, s.Completes u i t ∧ (s.acts u i = true → s.Posts t u tok op)
    (s.Issues u (.launch h o) →
      let i : Instr := .launch h o
      let va := v i o.srcA
      let ls := (s.seen u i).accLanes u.gang h true
      let tr := (s.enter u h).translated u.core (s.warp u.core u.slot).asid { read := true, write := false, watch := 0 } va
      (va % 256 ≠ 0 → s.Stops u i (illegal u.gang))
      ∧ (va % 256 = 0 → ls = [] → ∃ t, s.Completes u i t)
      ∧ (va % 256 = 0 → ls ≠ [] → 2 ^ 57 ≤ va → s.Stops u i (laneTrap 0x09 .h 0 0 (ls.map (fun e => (e.1, e.2, va)))))
      ∧ (∀ pa, va % 256 = 0 → ls ≠ [] → va < 2 ^ 57 → tr = some (.ok pa) → ∃ t, s.Completes u i t
          ∧ s.Posts t u tok (.launch pa (placesS u.gang (Operand.num o.dst)) .start)))
    ∧ (s.Issues u (.xkick h o) → s.upsets = [] → object (.xkick h o) 64 (fun a =>
        (∀ c, x.rqCheck u.gang (rqWords x a) = some c → s.Stops u (.xkick h o) c)
        ∧ (x.rqCheck u.gang (rqWords x a) = none → posts (.xkick h o) (.engine (s.core u.core).nextReq)
          ∧ (s.acts u (.xkick h o) = true → ∃ t r, exec (.xkick h o) s = .next t ∧ (t.core u.core).copyq = (s.core u.core).copyq ++ [r]
            ∧ r.id = (s.core u.core).nextReq ∧ r.slot = u.slot ∧ r.group = grp ∧ r.tok = tok ∧ r.words = rqWords x a ∧ r.started = 0))))
    ∧ (s.Issues u (.lbinit h o) → object (.lbinit h o) 8 (fun a =>
        let n := v (.lbinit h o) o.srcB
        (n = 0 ∨ 2 ^ 30 ≤ n → s.Stops u (.lbinit h o) (illegal u.gang))
        ∧ (0 < n → n < 2 ^ 30 → posts (.lbinit h o) (.lbinit u.core grp a
            (BitVec.ofNat 64 (o.imm.toNat % 2 * 2 ^ 63 + o.subop.toNat % 2 * 2 ^ 62 + n * 2 ^ 32 + n))))))
    ∧ (s.Issues u (.lbarrive h o) → object (.lbarrive h o) 8 (fun a =>
        posts (.lbarrive h o) (.lbarrive u.core grp a (v (.lbarrive h o) o.srcB % 2 ^ 30))))
    ∧ (s.Issues u (.lbwait h o) → object (.lbwait h o) 8 (fun a => ∃ t, s.Completes u (.lbwait h o) t ∧ (s.acts u (.lbwait h o) = true →
        ∀ j ∈ gangSlices u.gang, (t.sliceOf u j).wait = .landing a (decide (o.imm.toNat % 2 = 1))))))
  ∧ (∀ v c d : Nat, lbCount (lbCount v c) d = lbCount v (c + d))
  ∧ ∀ v c : Nat, v < 2 ^ 64 → lbExpect v ≠ 0 → 0 < c → c ≤ lbRemain v →
      lbPhase (lbCount v c) = xor (lbPhase v) (decide (c = lbRemain v)) ∧ lbExpect (lbCount v c) = lbExpect v ∧ lbUnit (lbCount v c) = lbUnit v
      ∧ lbRemain (lbCount v c) = if c = lbRemain v then lbExpect v else lbRemain v - c

/-- Berth rings and workgroup barriers (R224 to R226). A descriptor that R225 refuses raises ILLEGAL. A taking operation that may proceed
advances its own slot number by one and promises its destination the slot's address; one that may not waits, with its token counted. A
putting operation advances its own number at once, or raises ILLEGAL where nothing is to be put. BARR joins its barrier's waiters, and
where the count is met all of them leave and the barrier re-arms. That a BARR with a count above 32 raises ILLEGAL, and does so before
BARPART, is the model's choice (log entry 52). -/
def Obligations.RingsAndBarriersWaitOrProceed : Prop :=
  ∀ (s : State) (u : Cur) (h : Header) (o : FmtE), s.Unstepped u →
    let tok := h.settok.toNat
    let grp := (s.warp u.core u.slot).group
    let x := s.group u.core grp
    let ring := fun (i : Instr) (k : Nat → Prop) =>
      let a := ((s.seen u i).srcS u.gang 2 o.srcA).toNat % 2 ^ 32
      s.Issues u i → s.upsets = [] → s.acts u i = true → a + 32 ≤ x.padBytes → a % 32 = 0 → (s.core u.core).windows = [] →
        (Tab.find grp (s.core u.core).groups).isSome → x.owed = [] →
        (x.ringBad (x.ringDesc a) = true → s.Stops u i (illegal u.gang)) ∧ (x.ringBad (x.ringDesc a) = false → k a)
    let moves := fun (t : State) (a p f c z : Nat) =>
      let d := x.ringDesc a
      let b := (t.group u.core grp).ringDesc a
      ringP b = (ringP d + p) % 65536 ∧ ringF b = (ringF d + f) % 65536 ∧ ringC b = (ringC d + c) % 65536 ∧ ringZ b = (ringZ d + z) % 65536
      ∧ ringBase b = ringBase d ∧ ringSlot b = ringSlot d ∧ ringN b = ringN d
    (∀ free : Bool, let i : Instr := if free then .ringgetFree h o else .ringget h o
      ring i (fun a =>
        let d := x.ringDesc a
        let q := if free then ringP d else ringC d
        let ready := if free then ringDiff (ringP d) (ringZ d) < ringN d else ringC d ≠ ringF d
        (ready → ∃ t, s.Completes u i t ∧ moves t a free.toNat 0 (!free).toNat 0
          ∧ s.Posts t u tok (.regs ((placesS u.gang (Operand.num o.dst)).map
              (fun p => (p, BitVec.ofNat 64 (ringBase d + q % ringN d * ringSlot d)))) 0))
        ∧ (¬ ready → ∃ t, s.Completes u i t ∧ moves t a 0 0 0 0
          ∧ (tok ≠ 0 → Tab.get 0 (t.warp u.core u.slot).tok (tok - 1) = Tab.get 0 (s.warp u.core u.slot).tok (tok - 1) + 1)
          ∧ ∀ j ∈ gangSlices u.gang, (t.sliceOf u j).wait = .ring a free (Operand.num o.dst) tok (s.sliceOf u (gangLeader u.gang)).pc)))
    ∧ ring (.ringput h o) (fun a =>
        let d := x.ringDesc a
        (ringZ d = ringC d → s.Stops u (.ringput h o) (illegal u.gang))
        ∧ (ringZ d ≠ ringC d → ∃ t, s.Completes u (.ringput h o) t ∧ moves t a 0 0 0 1))
    ∧ ring (.ringputFill h o) (fun a =>
        let d := x.ringDesc a
        (ringF d = ringP d → s.Stops u (.ringputFill h o) (illegal u.gang))
        ∧ (ringF d ≠ ringP d → ∃ t, s.Completes u (.ringputFill h o) t ∧ moves t a 0 1 0 0))
    ∧ (s.Issues u (.barr h o) →
      let i : Instr := .barr h o
      let w := s.warp u.core u.slot
      let k := o.imm.toNat % 16
      let n := ((s.seen u i).srcS u.gang 2 o.srcA).toNat
      let part := (s.seen u i).barPart u.gang
      let b := Tab.find k x.bars
      let waiting := (match b with | some q => q.waiting | none => []) ++ [w.idx]
      let differ := ∃ q, b = some q ∧ q.waiting ≠ [] ∧ q.n ≠ n
      (32 < n → s.Stops u i (illegal u.gang))
      ∧ (n ≤ 32 → part = true → s.Stops u i (trapH 0x0D 0 (gangMask u.gang)))
      ∧ (n ≤ 32 → part = false → s.acts u i = false → ∃ t, s.Completes u i t)
      ∧ (n ≤ 32 → part = false → s.acts u i = true → differ → s.Stops u i (trapH 0x0C 0 (gangMask u.gang)))
      ∧ (n ≤ 32 → part = false → s.acts u i = true → ¬ differ →
        let count := if n = 0 then x.slots.length - x.ended.length else n
        ∃ t, s.Completes u i t
          ∧ (waiting.length < count → Tab.find k (t.group u.core grp).bars = some { n := n, waiting := waiting }
            ∧ ∀ j ∈ gangSlices u.gang, (t.sliceOf u j).wait = .barr k n)
          ∧ (count ≤ waiting.length → Tab.find k (t.group u.core grp).bars = none
            ∧ ∀ v ∈ waiting.filterMap (fun m => x.slots[m]?), ∀ j m, ((t.warp u.core v).slice j).wait ≠ .barr k m)))

/-! Units that act on their own -/

/-- Segments on their way to the homes (R177, R180, R262, R263, R266, R380). FORCED_PUBLICATION seals the open segment and asks for
it; SEGMENT_WRITE_DONE gives the oldest segment without a place in the log area its place; FOLD_NOTICE queues a segment's records at
a home; NOTICE_ACK moves the tidemark to the segment and gives up its overlay lines; ROUTED_RECORD_ACK brings a remote record into its
home view. -/
def Obligations.SegmentsReachTheirHomes : Prop :=
  ∀ (s : State) (c : Nat), let k := s.core c
    (k.openLines ≠ [] → s.ReleasesWell c → ∃ t, exec (.forcedPublication c) s = .next t
      ∧ (t.core c).openSeq = k.openSeq + 1 ∧ (t.core c).goal = k.openSeq
      ∧ ∃ g ∈ (t.core c).segs, g.seq = k.openSeq ∧ g.records.map (fun r => (r.line, r.mask, r.data)) = k.openLines.map (fun o => (o.line, o.mask, o.data)))
    ∧ (∀ g, k.segs.find? (fun x => x.at_.isNone) = some g → k.logUsed + segUnits g.records.length ≤ max 64 k.logSize / 64 →
      ∃ t, exec (.segmentWriteDone c) s = .next t ∧ (t.core c).logAt = (k.logAt + segUnits g.records.length) % max 1 (k.logSize / 64)
        ∧ ∃ x ∈ (t.core c).segs, x.seq = g.seq ∧ x.at_ = some k.logAt ∧ x.records = g.records)
    ∧ (∀ g, k.segs.find? (fun x => !x.published) = some g →
      (∀ home ∈ g.waiting, ∃ t, exec (.foldNotice c home) s = .next t
        ∧ t.foldq = s.foldq ++ (g.records.filter (fun r => decide (homeOf (r.line * 64) = home))).map
            (fun r => { home := home, core := c, seq := g.seq, record := { r with order := s.arrivals + 1 } })
        ∧ ∀ x ∈ (t.core c).segs, x.seq = g.seq → home ∉ x.waiting)
      ∧ (g.ntick.isSome → g.waiting = [] → ∃ t, exec (.noticeAck c) s = .next t ∧ (t.pubSlot c).seq = g.seq
          ∧ (∀ o ∈ (t.core c).overlay, o.seg ≠ g.seq) ∧ ∀ x ∈ (t.core c).segs, x.seq = g.seq → x.published = true))
    ∧ ∀ g r, k.segs.find? (fun x => x.routed && x.ntick.isSome) = some g → g.records = [r] → isRemote (r.line * 64) = true → r.void = false →
      s.lost = [] → s.foldq = [] → ∃ t, exec (.routedRecordAck c) s = .next t
        ∧ (∀ i, i < 64 → t.homeByte (r.line * 64 + i) = if r.mask.getLsbD i then lineByte r.data i else s.homeByte (r.line * 64 + i))
        ∧ ∀ x ∈ (t.core c).segs, x.seq = g.seq → x.routed = false

/-- What the homes do for others (R170, R173, R235, R267, R313, R373, R378). HOME_ATOMIC performs a waiting lane of a released atomic
at its local home, once the shoot-down of its line allows a write; an unanswered window leaves a remote lane unknown, whether its home
performed it being free; a replay entry leaves after 50 µs; a unit acknowledges a shoot-down by dropping what derives from its lines;
an application core's write stands in the home view once its shoot-down is complete, and waits till then; a PCIe request is served
where each of its pages translates, poison delivered as such (R348), and aborted where one does not; a transfer between ports is routed
between requesters of one interface alone. That a bound requester's page that does not translate aborts its request, the whole of it over
several pages, with no other effect, is the model's choice (log entry 74). -/
def Obligations.HomesServeAtomicsAndOutsideAgents : Prop :=
  (∀ (s s' : State) (c slot id lane : Nat) (p : Pend) (a : AtomWork) (l : LaneAcc), c < 512 → s.atomLane c slot id lane = some (p, a, l) →
    a.outcome l.lane = .waiting →
    (isRemote l.pa = false → a.turnOf l = true → s.shootdown (l.pa / 64) = (s', true) →
      a.op = 1 ∨ (s.upsets = [] ∧ ∀ x ∈ a.live, a.outcome x.lane = .waiting → s.isPoisoned (x.pa / 64) = false) → a.size = 4 ∨ a.size = 8 →
      ∃ t, exec (.homeAtomic c slot id lane) s = .next t
        ∧ ofBytes (t.homeBytes l.pa a.size)
            = (atomNew a.op a.size (BitVec.ofNat 64 (ofBytes (s.homeBytes l.pa a.size))) l.data l.cmp).toNat % 2 ^ (8 * a.size)
        ∧ ∃ q b, t.pendOf c slot id = some q ∧ q.op.atomWork = some b ∧ b.outcome l.lane = .done
          ∧ ∀ x ∈ b.lanes, x.lane = l.lane → x.cmp = BitVec.ofNat 64 (ofBytes (s.homeBytes l.pa a.size)))
    ∧ (isRemote l.pa = true → a.tick + 50000 ≤ s.tick → s.lost = [] →
      ∃ t q b, exec (.atomunkWindowClose c slot id lane) s = .next t ∧ t.pendOf c slot id = some q ∧ q.op.atomWork = some b
        ∧ b.outcome l.lane = .unknown
        ∧ (t.mem = s.mem ∨ t.mem = (({ s with draws := s.draws + 1 } : State).homeOp a l).1.mem)))
  ∧ (∀ (s : State) (i : Nat) (e : ReplayEntry), s.replay[i]? = some e → e.tick + 50000 ≤ s.tick →
      ∃ t, exec (.replayEntryExpiry i) s = .next t ∧ t = { s with replay := s.replay.eraseIdx i })
  ∧ (∀ (s : State) (c : Nat), let k := s.core c
      let gone := k.tlb.filter (fun e => e.lines.any (fun l => k.shoot.contains l))
      k.shoot ≠ [] → (∀ e ∈ gone, k.loadsOpen e = false ∧ k.pageRecords e = []) →
      ∃ t, exec (.shootdownAck c) s = .next t ∧ (t.core c).shoot = [] ∧ (∀ e, e ∈ (t.core c).tlb ↔ e ∈ k.tlb ∧ ∀ l ∈ e.lines, l ∉ k.shoot)
        ∧ ∀ x ∈ t.shoots, c ∉ x.waiting)
  ∧ (∀ (s s' : State) (pa : Nat) (bs : List Byte) (done : Bool), bs ≠ [] → s.paOk pa = true →
      s.shootAll (linesOf pa bs.length) = (s', done) → ∃ t, exec (.appCoreWrite pa bs) s = .next t
        ∧ (done = true → (∀ i, i < bs.length → t.homeByte (pa + i) = bs.getD i 0)
          ∧ ∀ a, a < pa ∨ pa + bs.length ≤ a → t.homeByte a = s.homeByte a)
        ∧ (done = false → (pa, bs) ∈ t.arriving ∧ ∀ a, t.homeByte a = s.homeByte a))
  ∧ ∀ (s : State) (req va n : Nat) (bs : List Byte), va < 2 ^ 57 →
      let pages := fun (write : Bool) (k : Nat) => s.pciePages req va write 0 (k / 4096 + 2) k
      let left := 4096 - va % 4096
      let aborts := fun (a : PcieAccess) => exec (.pcieRequest req va a) s = .next { s with pcie := s.pcie ++ [.abort] }
      (∀ (write : Bool) (k : Nat), (0 < k → k ≤ left → pages write k = (s.pciePa req va write).map (fun pa => [(pa, 0, k)]))
        ∧ (left < k → k ≤ left + 4096 → pages write k = match s.pciePa req va write, s.pciePa req (va + left) write with
          | some a, some b => some [(a, 0, left), (b, left, k - left)]
          | _, _ => none))
      ∧ (pages false n = none → aborts (.read n)) ∧ (pages true bs.length = none → aborts (.write bs))
      ∧ (∀ ps, pages false n = some ps → s.upsets = [] → ∃ t, exec (.pcieRequest req va (.read n)) s = .next t
        ∧ (∀ a, t.homeByte a = s.homeByte a)
        ∧ ((∀ p ∈ ps, ∀ l ∈ linesOf p.1 p.2.2, s.isPoisoned l = false) →
          t.pcie = s.pcie ++ [.data (ps.flatMap (fun p => s.homeBytes p.1 p.2.2))]))
      ∧ (∀ ps, pages false n = some ps → s.foldq = [] → (∃ p ∈ ps, ∃ l ∈ linesOf p.1 p.2.2, l ∈ s.poison) →
        ∃ t, exec (.pcieRequest req va (.read n)) s = .next t ∧ t.pcie = s.pcie ++ [.poison])
      ∧ (∀ ps, pages true bs.length = some ps → ∃ t, exec (.pcieRequest req va (.write bs)) s = .next t ∧ t.pcie = s.pcie ++ [.written]
        ∧ ∀ p, ps = [p] → s.derived = (fun _ => []) → s.paOk p.1 = true → ∀ i, i < bs.length → t.homeByte (p.1 + i) = bs.getD i 0)
      ∧ ∀ other, match s.bound req, s.bound other with
        | some a, some b => exec (.pcieRequest req va (.peer other)) s
            = .next { s with pcie := s.pcie ++ [if a.1 = b.1 then .routed else .abort] }
        | _, _ => aborts (.peer other)

/-- The undertow and the engines. A held spill lands as the 16 bytes of its row, four of one 64-byte block together (R273); a refill
takes the youngest spilled rows and lowers SPILLTOP as it is issued, and its row lands in its ring row (R30, R331). A chunk of the copy
engine starts with the work of its request and lands its bytes (R220). The matrix engine zeroes regions, copies scales, widens the
elements that MLOAD reads (R206), rounds those that MSTORE writes (R207), and works on a stage's next pairs: output i of pair j at
stride s stands in the row of pair element i, the exact dot (R55) of weight row j*2B+i with the pair's 2B rows, which the last stage
combines with the accumulator under the mode (R57) and an earlier one rounds into its carry (R60, R194, R201). Elements lie in
scratchpad rows bit after bit (R190, R192). The oldest instruction, finished, leaves the engine with its flags in FSTATUS and its token
counted down. -/
def Obligations.UndertowAndEnginesMoveData : Prop :=
  (∀ (s : State) (c slot j : Nat), let w := s.warp c slot
    let sl := w.slice j
    (∀ x rest pa, sl.held = x :: rest → sl.resting = false → s.xlate c (s.tableOf c w.group) x.asid x.va.toNat false true false = .ok pa →
      let n := gathered sl.held
      ∃ t, exec (.spillLanded c slot j) s = .next t ∧ ((t.warp c slot).slice j).held = sl.held.drop n
        ∧ (∀ i, i < n → t.homeBytes (pa + 16 * i) 16 = toBytes 16 (sl.held.getD i x).row.toNat)
        ∧ (n ≠ 4 → n = 1)
        ∧ (n = 4 → x.va.toNat % 64 = 0 ∧ ∀ i, i < 4 → (sl.held.getD i x).va = x.va + BitVec.ofNat 57 (16 * i)))
    ∧ (0 < w.rowB → sl.gates = [] → sl.wantsRefill w.rowB = true → sl.held ≠ [] ∨ sl.resting = true →
      ∃ (t : State) (m : Nat), exec (.undertowRefill c slot j) s = .next t ∧ 0 < m
        ∧ (let b := (t.warp c slot).slice j
           b.low = sl.low - m ∧ b.spillTop = sl.spillTop - BitVec.ofNat 57 (16 * m) ∧ b.rows = sl.rows
           ∧ b.coming = sl.coming ++ (List.range m).map (fun i =>
              { pos := sl.low - 1 - i, va := sl.spillTop - BitVec.ofNat 57 (16 * (i + 1)), asid := w.asid, level := 0 })))
    ∧ (∀ r later pa row, sl.refillTo = none → sl.coming = r :: later → sl.held = [] → sl.resting = false → sl.newSpillTop = none →
      sl.unwound = none → sl.top ≤ r.pos + w.rowB → s.upsets = [] →
      s.xlate c (s.tableOf c w.group) r.asid r.va.toNat true false false = .ok pa →
      s.lostAt pa = false → (s.readHome (pa / 64)).isPoisoned (pa / 64) = false →
      row = BitVec.ofNat 128 (ofBytes (s.homeBytes pa 16)) → Tab.find r.pos sl.spilledRows = some row →
      ∃ t, exec (.undertowRefill c slot j) s = .next t
        ∧ (let b := (t.warp c slot).slice j
           b.coming = later ∧ b.low = sl.low ∧ b.spillTop = sl.spillTop ∧ Tab.get 0 b.rows (r.pos % w.rowB) = row)))
  ∧ (∀ (s s' : State) (c req : Nat) (r r' : CopyReq) (k : ChunkWork), (s.core c).copyq.find? (fun x => x.id = req) = some r →
    s.mayStart c r = true → s.upsets = [] → s.draw1.2.beginChunk c (s.draw1.2.holdTable c r) s.draw1.1 = .ok (s', r', k) → k.stop = none →
    (s'.copyTouch c (s.draw1.2.holdTable c r) k).poison = [] → (s'.copyTouch c (s.draw1.2.holdTable c r) k).upsets = [] →
    ∃ t q, exec (.copyChunkStart c req) s = .next t ∧ (t.core c).chunks = (s'.core c).chunks ++ [q]
      ∧ q.req = req ∧ q.dest = k.dest ∧ q.writes = k.writes ∧ q.bytes = k.bytes ∧ q.last = (k.req.past k.bytes).allStarted)
  ∧ (∀ (s : State) (c : Nat) (q : Chunk) (r : CopyReq) (a : Nat) (bs : List Byte), let k := s.core c
    k.chunks.find? (fun x => x.req = q.req) = some q → k.chunks.find? (fun x => x.id = q.id) = some q →
    k.copyq.find? (fun x => x.id = q.req) = some r → q.dest = .pad → q.writes = [(a, bs)] → q.last = false → rqLben r.words = false →
    (Tab.find r.group k.groups).isSome → k.windows = [] →
    ∃ t, exec (.copyChunkLand c q.id) s = .next t ∧ (t.group c r.group).padRead a bs.length = bs
      ∧ (∀ x, x ∈ (t.core c).chunks ↔ x ∈ k.chunks ∧ x.id ≠ q.id))
  ∧ (∀ (s : State) (c n : Nat) (e : EngInstr), (s.core c).mq.find? (fun x => !x.finished) = some e → (s.group c e.group).saving = none →
    s.upsets = [] → s.slips = [] → (∀ x ∈ (s.core c).windows, x.id = e.id → x.dirt = []) → ∃ t x, exec (.stageChunk c n) s = .next t ∧ x ∈ (t.core c).mq ∧ x.id = e.id
      ∧ (e.kind = .mzero → x.finished = true ∧ ∀ i, i < 4096 * e.count → (t.group c e.group).accWord (4096 * e.acc + i) = 0)
      ∧ (∀ out a b m p z, e.kind = .mscale out → e.x = .pad a b m p z → e.stale = [] → x.finished = true ∧ ∀ i, i < e.count →
          if out then (t.group c e.group).padByte (a + i) = (s.group c e.group).scaleByte (e.off + i)
          else (t.group c e.group).scaleByte (e.off + i) = (s.group c e.group).padByte (a + i))
      ∧ x = ((s.group c e.group).engineWork e n).2 ∧ x.begun = true ∧ (t.group c e.group) = ((s.group c e.group).engineWork e n).1)
  ∧ (∀ (g : Group) (e : EngInstr) (asked j i c : Nat), e.kind = .bfly ∨ e.kind = .bchain →
    let b := e.blk
    let s := e.strides.getD e.t 1
    let n := e.chunkPairs asked
    let q := g.engineWork e asked
    let row := fun u => let el := j / s * (2 * s) + j % s
      if u < b then el * b + u else (el + s) * b + (u - b)
    let d := (exactDot ((List.range (2 * b)).map (fun u =>
      (g.weight e e.t (if e.kind = .bchain then e.t else e.count) (j * (2 * b) + i) u,
        if e.t = 0 then g.activation e (row u) c else e.carried (row u) c)))).1
    e.j ≤ j → j < e.j + n → i < 2 * b → c < e.cols → 0 < s → e.pairs % s = 0 → 2 * b * e.pairs ≤ 128 →
    (e.t + 1 = e.stages →
      let wide := decide (BitVec.field e.fmt 3 0 = 3)
      let F := if wide then fp64 else fp32
      let old := F.decode (g.accElem e.acc (row i) c wide)
      let out := match BitVec.field e.fmt 43 42 with
        | 0 => F.dot 0 [] [d]
        | 1 => F.dot 0 [] [old, d]
        | _ => F.dot 0 [(F.decode e.alpha.toNat, old)] [d]
      q.1.accElem e.acc (row i) c wide = out.bits % 2 ^ (if wide then 64 else 32) ∧ q.2.j = e.j + n ∧ (q.2.finished = true ↔ e.pairs ≤ e.j + n))
    ∧ (e.t + 1 ≠ e.stages → carryCode e.fmt ≠ 15 →
      let v := BitVec.ofNat 64 ((fmtOfCode (carryCode e.fmt)).dot 0 [] [d]).bits
      q.1 = g ∧ (if e.pairs ≤ e.j + n then q.2.t = e.t + 1 ∧ q.2.j = 0 ∧ q.2.carry.getD (row i * e.cols + c) 0 = v
        else q.2.t = e.t ∧ q.2.j = e.j + n ∧ Tab.get 0 q.2.partialOut (row i * e.cols + c) = v)))
  ∧ (∀ (g : Group) (e : EngInstr) (t idx r c base rp tp m p : Nat), e.stale = [] → e.sparse = false →
    let h := 2 * e.blk
    let n := h * e.pairs
    (e.w = .pad base rp tp m p → r < n →
      let len := 32 * 2 ^ BitVec.field e.fmt 5 4
      g.elementIs (BitVec.field e.fmt 3 0)
        (g.scaleByte (BitVec.field e.fmt 20 6 + idx * (n * h / len) + (r * h + c) / len)).toNat (base + 64 * tp * idx + r * rp) c (g.weight e t idx r c))
    ∧ (e.x = .pad base rp tp m p →
      let half := if e.split then n / 2 else n
      r < n → g.elementIs (BitVec.field e.fmt 24 21)
        (g.scaleByte (BitVec.field e.fmt 41 27 + (r * e.cols + c) / (32 * 2 ^ BitVec.field e.fmt 26 25))).toNat
        (if r < half then base + r * rp else p + (r - half) * rp) c (g.activation e r c)))
  ∧ (∀ (g : Group) (e : EngInstr) (asked r c f base rp tp m p : Nat), e.x = .pad base rp tp m p → r < e.h → c < e.wd → e.h ≤ 128 → f < 4 →
    let q := (g.engineWork e asked).1
    let F := fmtOfCode f
    let wide := decide (f = 3)
    let n := elemBits f
    (e.kind = .mload f → e.stale = [] → ∃ raw, raw < 2 ^ n ∧ (∀ k, k < n → raw.testBit k = g.rowBit (base + r * rp) n c k)
      ∧ q.accElem e.acc r c wide = (if f = 0 ∨ f = 3 then (if (F.decode raw).isSnan then F.nanBits else raw)
          else if (F.decode raw).isNan then fp32.nanBits else (fp32.dot 0 [] [F.decode raw]).bits) % 2 ^ (if wide then 64 else 32))
    ∧ (∀ len, e.kind = .mstore f len → rowBytes e.wd f ≤ rp → q.padRead (base + r * rp + c * (n / 8)) (n / 8)
        = toBytes (n / 8) (if f = 0 ∨ f = 3 then g.accElem e.acc r c wide else (F.dot 0 [] [fp32.decode (g.accElem e.acc r c false)]).bits)))
  ∧ (∀ (s : State) (c slot tok : Nat) (g : Mask8) (e : EngInstr) (p : Pend), (s.core c).mq.find? (fun x => x.finished) = some e →
    (∀ x ∈ (s.core c).windows, x.id = e.id → x.dirt = []) → e.members = [(slot, g, tok)] → (s.warp c slot).pend.find? (fun q => q.op = .engine e.id) = some p →
    ∃ t, exec (.stageComplete c) s = .next t ∧ (t.core c).mq = (s.core c).mq.filter (fun x => x.id ≠ e.id) ∧ (∀ q ∈ (t.warp c slot).pend, q.id ≠ p.id)
      ∧ (p.tok ≠ 0 → Tab.get 0 (t.warp c slot).tok (p.tok - 1) = Tab.get 0 (s.warp c slot).tok (p.tok - 1) - 1)
      ∧ ∀ j ∈ gangSlices g, ((t.warp c slot).slice j).fstatus = ((s.warp c slot).slice j).fstatus ||| e.flags)
  ∧ ∀ ps : List (FVal × FVal), (∀ p ∈ ps, (∃ n m e, p.1 = .fin n m e) ∧ ∃ n m e, p.2 = .fin n m e) →
      (exactDot ps).1.rat = (ps.map (fun p => p.1.rat * p.2.rat)).sum ∧ (exactDot ps).2 = 0

/-- Waits and their ends. REGANG, which takes effect for its gang where it does in some slice (the model's reading, log entry 14), waits
where the gang does not hold every live slice, and YIELD behind itself under PREQ (R116, R129); at the regang point all live slices at
one place leave as one gang, and otherwise the last that came takes REGANGERR, the model's reading of the order (log entry 43). A landing
barrier, a berth ring and a workgroup barrier let their waiters go once their condition holds (R223, R225, R226). A walk that finishes gives its translations or its fault, with the
warp's walk over (R306); a line fill brings its line, from the die cache where that holds it (R71, R259); a pending fault leaves its
slice and is delivered to the gang (R308). An issue cycle latches what its choice may issue, or counts an EMPTY slot where the pipe has
no warp (R300, R354); a starved pending warp takes the youngest's place (R301). -/
def Obligations.WaitsBeginAndEnd : Prop :=
  (∀ (s : State) (u : Cur) (h : Header) (o : FmtC), s.Unstepped u →
    (s.Issues u (.regang h o) → ∃ t, exec (.regang h o) s = .next t ∧ s.Keeps t u True True ∧ ∀ j ∈ gangSlices u.gang,
      if s.slicesActing u (.regang h o) ≠ [] ∧ (s.seen u (.regang h o)).live ≠ u.gang then
        (t.sliceOf u j).wait = .regang ∧ (t.sliceOf u j).pc = (s.sliceOf u j).pc ∧ (t.sliceOf u j).waitSince = s.cycle
      else (t.sliceOf u j).wait = (s.sliceOf u j).wait ∧ (t.sliceOf u j).pc = nextSlot (s.sliceOf u j).pc)
    ∧ (s.Issues u (.yield h o) → ∃ t, s.Completes u (.yield h o) t ∧ s.Keeps t u True True ∧ ∀ j ∈ gangSlices u.gang,
      (t.sliceOf u j).wait = if s.slicesActing u (.yield h o) ≠ [] ∧ (s.warp u.core u.slot).preq = true then .yield
        else (s.sliceOf u j).wait))
  ∧ (∀ (s : State) (c slot : Nat), let w := s.warp c slot
    let ld := w.slice (gangLeader w.live)
    let same := ∀ j ∈ gangSlices w.live, (w.slice j).pc = ld.pc ∧ (w.slice j).depth = ld.depth
    w.live ≠ 0 → w.gangs ≠ [] → w.report = none → (∀ j ∈ gangSlices w.live, (w.slice j).wait = .regang) →
    (same → ∃ t, exec (.regangPoint c slot) s = .next t ∧ ∀ j ∈ gangSlices w.live,
      let b := (t.warp c slot).slice j
      b.gang = w.live ∧ b.wait = .ready ∧ b.pc = nextSlot ld.pc)
    ∧ (¬ same → ∃ g ∈ w.gangs, (∀ q ∈ w.gangs, (w.slice (gangLeader q)).waitSince ≤ (w.slice (gangLeader g)).waitSince)
        ∧ exec (.regangPoint c slot) s = .next (s.deliver s c slot g (trapH 0x0E 0 (gangMask g)))))
  ∧ (∀ (s : State) (c slot low : Nat) (g : Mask8), let w := s.warp c slot
    let sl := w.slice low
    w.gangs.find? (fun q => gangLeader q = low) = some g →
    (∀ a ph, sl.wait = .landing a ph → s.upsets = [] → lbPhase (s.lbRead c w.group a) ≠ ph → w.touches c a 8 = false →
      ∃ t, exec (.landingRelease c slot low) s = .next t ∧ ∀ j ∈ gangSlices g, ((t.warp c slot).slice j).wait = .ready)
    ∧ (∀ a free dst tok here, sl.wait = .ring a free dst tok here →
      let d := (s.group c w.group).ringDesc a
      s.upsets = [] → (s.group c w.group).ringBad d = false → ringReady d free = true → (s.core c).windows = [] →
      (Tab.find w.group (s.core c).groups).isSome → ∃ t, exec (.ringSlotTaken c slot low) s = .next t ∧ (∀ j ∈ gangSlices g, ((t.warp c slot).slice j).wait = .ready)
        ∧ (t.warp c slot).pend = w.pend ++ [{ id := w.nextId, tok := tok, gang := g, pc := here, born := w.seed
                                              op := .regs ((placesS g dst).map (fun q => (q, BitVec.ofNat 64 (ringAddr d (ringNext d free))))) 0 }]
        ∧ (let b := (t.group c w.group).ringDesc a
           if free then ringP b = (ringP d + 1) % 65536 else ringC b = (ringC d + 1) % 65536))
    ∧ (∀ pa, s.lineHere c slot g = false → w.walk = none → w.report = none → s.upsets = [] →
      s.underWrite (s.walkEntries c (s.tableOf c w.group) w.asid [sl.pc.toNat]) = false →
      s.xlate c (s.tableOf c w.group) w.asid sl.pc.toNat false false true = .ok pa →
      ∃ t, exec (.fetchLineFill c slot low) s = .next t ∧ Tab.find (icKey w.asid sl.pc.toNat) (t.core c).icache
        = some (match isRemote (pa / 64 * 64), Tab.find (pa / 64) (s.die (c / 64)).lines with
          | false, some l => l.data
          | _, _ => s.homeLine (pa / 64)))
    ∧ (∀ j q rest, s.gangHold c slot g = none → (w.slice (gangLeader g)).handler = none →
      (gangSlices g).find? (fun i => decide ((w.slice i).pending ≠ [])) = some j → (w.slice j).pending = q :: rest →
      let dropped := w.onGang g (fun i x => if i = j then { x with pending := rest } else { x with pending := x.pending.erase q })
      exec (.pendingFaultDelivery c slot low) s = .next ((s.setWarp c slot dropped).deliver s c slot g
        { cause := q.cause, cls := q.cls, sub := q.sub, mask := q.mask &&& gangMask g
          addrs := (setBits 32 (q.mask &&& gangMask g)).map (fun l => (l, q.va)), code := 0, resumeNext := false })))
  ∧ (∀ (s : State) (c g k : Nat) (b : Barrier), let x := s.group c g
    Tab.find k x.bars = some b → x.barrCount b.n ≤ b.waiting.length →
    ∃ t, exec (.barrierRelease c g k) s = .next t ∧ Tab.find k (t.group c g).bars = none
      ∧ ∀ v ∈ b.waiting.filterMap (fun m => x.slots[m]?), ∀ j m, ((t.warp c v).slice j).wait ≠ .barr k m)
  ∧ (∀ (s : State) (c slot : Nat) (k : Walk), let w := s.warp c slot
    let held := s.walkEntries c (s.tableOf c w.group) k.asid (k.lanes.map (fun e => e.2.2.toNat))
    let look := fun e : Nat × Mask32 × VA =>
      (s.modCore c (fun x => { x with tlb := x.tlb ++ held })).xlate c (s.tableOf c w.group) k.asid e.2.2.toNat k.read k.write k.exec
    w.walk = some k →
    (s.underWrite held = true → exec (.translationWalkDone c slot) s = .next s)
    ∧ (s.underWrite held = false → (∀ e ∈ k.lanes, ∃ pa, look e = .ok pa) → ∃ t, exec (.translationWalkDone c slot) s = .next t ∧ (t.warp c slot).walk = none
      ∧ (∀ e ∈ k.lanes, ((t.core c).tlbFind k.asid e.2.2.toNat).isSome) ∧ ∀ j, ((t.warp c slot).slice j).pc = (w.slice j).pc)
    ∧ (∀ e f x, s.underWrite held = false → k.lanes = [e] → look e = .error f → xlatTrapOf k.sub [(e.1, e.2.1, e.2.2.toNat, f)] = some x →
      let done := (s.holdEntries c (s.tableOf c w.group) held).modWarp c slot (fun y => { y with walk := none })
      exec (.translationWalkDone c slot) s = .next (done.deliver done c slot k.gang x)))
  ∧ ∀ (s : State) (c p : Nat), let s1 := ((s.seeSlot c p).keepPipe c p).noteReady c p
    (∀ i g a b, Tab.get 0 (s.core c).seen p ≤ s.cycle → s.slips = [] →
      (s1.choiceOrder c p).findSome? (fun i => (s1.readyGang c i).map (fun q => (i, q.1, q.2))) = some (i, g, .go a b) →
      ∃ t, exec (.issueCycle c p) s = .next t
        ∧ t.ir.map (fun f => (f.cur.core, f.cur.slot, f.cur.gang, f.instr)) = (a :: b.toList).map (fun x => (c, i, g, x)))
    ∧ (Tab.get 0 (s.core c).seen p ≤ s.cycle → (∀ e ∈ (s.core c).warps, e.2.pipe ≠ p) → (s.core c).frozen = false →
      ∃ t, exec (.issueCycle c p) s = .next t
        ∧ t.counter c (p * 256 + 0x03) = s.counter c (p * 256 + 0x03) + (s.cycle - Tab.get 0 (s.core c).seen p) + 1
        ∧ Tab.get 0 (t.core c).seen p = s.cycle + 1)
    ∧ ∀ i o, ((s.core c).pipeWarps p false).find? (fun i => match (s.warp c i).readySince with
          | some t => decide (t + 4096 ≤ s.cycle)
          | none => false) = some i → ((s.core c).pipeWarps p true).getLast? = some o → i ≠ o →
        ∃ t, exec (.pendingStarvation c p) s = .next t ∧ (t.warp c o).active = false ∧ (t.warp c i).active = true ∧ (t.warp c i).swap = 2

/-- The distributor (R227, R282, R288 to R296, R374). SUBMIT, after boot, counts and answers its status (2 for a block whose address is
misaligned or that comes poisoned is the model's choice, log entries 61 and 121), and an accepted block waits last in its queue; DISPATCH_TURN dispatches the next
workgroup of the eligible queue of least pass, and where no early condition fails it stands on the chosen core in that core's first free
slots, started; CLASS_HOLD gives the class to the queue that has starved; DEPENDENCE_MET notes a condition that holds; a workgroup that is
done asks for its publication, its counters for another, and it frees its place once both stand; FDRELEASE ends a domain's hold. -/
def Obligations.TheDistributorPlacesWork : Prop :=
  (∀ (s : State) (v va : Nat), v < 64 → va < 2 ^ 57 → s.security.started = true →
    let x := s.vi v
    ∃ t, exec (.submit v va) s = .next t ∧ (t.vi v).subseq = x.subseq + 1
      ∧ (va % 256 ≠ 0 → (t.vi v).substat = 2 ∧ t.launches = s.launches)
      ∧ ∀ e pa r blk, va % 256 = 0 → s.walk { at_ := x.asidtab, base := x.asidbase, count := x.asidcnt } (BitVec.ofNat 16 x.asidbase) va = .ok e →
          s.permit e va true false false = .ok pa →
          let b := ofBytes (s.homeBytes pa 256)
          let idx := bitsAt b 192 16
          (s.poisonIn pa 256 = true → (t.vi v).substat = 2 ∧ t.launches = s.launches)
          ∧ (s.poisonIn pa 256 = false → x.regcnt ≤ idx → (t.vi v).substat = 3 ∧ t.launches = s.launches)
          ∧ (s.poisonIn pa 256 = false → idx < x.regcnt → s.regionOf v idx = some r → parseLaunch b = some blk → r.ctxArea ≠ 0 →
            (s.launches.filter (fun l => l.region.queue = r.queue && l.undispatched)).length < 256 →
            (t.vi v).substat = 0 ∧ ∃ l, t.launches = s.launches ++ [l] ∧ l.region = r ∧ l.block = blk ∧ l.placed = 0))
  ∧ (∀ (s : State) (cls key c : Nat) (l : Launch), let q := s.refreshQueues
    let elig := q.queueKeys.filter (fun k => (q.queue k).eligible)
    s.security.started = true → s.saved = [] → (∀ k ∈ elig, cls ≤ q.queueClass k) →
    (∀ k ∈ q.queueKeys, (q.queue k).holds = false) → q.leastPass (elig.filter (fun e => decide (q.queueClass e = cls))) = some key →
    q.queuePlace key = some c → q.headOf key = some l →
    let step := fun x : Launch => (x.handle, x.next, x.placed, x.requeued)
    ∃ t, exec (.dispatchTurn cls) s = .next t
      ∧ t.launches.map step = s.launches.map (fun x => if x.handle = l.handle then step l.dispatched else step x)
      ∧ (q.earlyFails l l.nextLinear = [] → ∃ g x, Tab.find g (t.core c).groups = some x ∧ x.launch = l.handle ∧ x.linear = l.nextLinear
        ∧ x.core = c ∧ x.region = l.region ∧ x.waiting = false ∧ x.slots = (q.freeSlots c).take l.block.warpRoles.length
        ∧ ∀ i ∈ x.slots, ∃ w, Tab.find i (t.core c).warps = some w ∧ w.group = g ∧ w.started = true))
  ∧ (∀ (s : State) (v idx since : Nat), let q := s.refreshQueues
    let key := v * 65536 + idx
    (q.queue key).since = some since → since + 65536 ≤ s.tick →
    q.leastPass (q.queueKeys.filter (fun k => decide (q.queueClass k = q.queueClass key))) = some key →
    ∃ t, exec (.classHold v idx) s = .next t ∧ (t.queue key).holds = true)
  ∧ (∀ (s : State) (handle n i : Nat) (l : Launch), s.launches.find? (fun x => x.handle = handle) = some l → i < l.block.deps.length →
    n < l.block.total → s.depMet l n i = true →
    ∃ t, exec (.dependenceMet handle n i) s = .next t ∧ ∀ x ∈ t.launches, x.handle = handle → (n, i) ∈ x.met)
  ∧ (∀ (s : State) (c g : Nat) (x : Group), Tab.find g (s.core c).groups = some x → x.waiting = false → x.saving = none → s.groupDone c g = true →
    (x.ending = none → ∃ (t : State) (n : Nat), exec (.workgroupEnd c g) s = .next t ∧ (t.group c g).ending = some n ∧ n = (t.core c).openSeq - 1)
    ∧ (∀ seq, x.ending = some seq → s.publishedFor c 4 seq = true →
        (∀ l, s.launches.find? (fun y => y.handle = x.launch) = some l → x.counting = none →
          ∃ (t : State) (n : Nat), exec (.workgroupEnd c g) s = .next t ∧ (t.group c g).counting = some n ∧ n = (t.core c).openSeq - 1)
        ∧ ((∀ l, s.launches.find? (fun y => y.handle = x.launch) = some l → ∃ n, x.counting = some n ∧ s.publishedFor c 3 n = true
            ∧ ∀ a ∈ s.countLines l, s.derived a = [] ∧ ∀ o ∈ (s.core c).overlays a, o.mask = 0) →
        ∃ t, exec (.workgroupEnd c g) s = .next t ∧ Tab.find g (t.core c).groups = none ∧ ∀ i ∈ x.slots, Tab.find i (t.core c).warps = none)))
  ∧ ∀ (s : State) (v : Nat) (value : W64), v < 64 → BitVec.field value 63 12 = 0 →
      ∃ t, exec (.fdrelease v value) s = .next t ∧ ∀ f, f ∈ (t.vi v).holds ↔ f ∈ (s.vi v).holds ∧ f ≠ value.toNat

/-- Pre-emption and the debug window (R129, R261, R316 to R318, R320 to R324, R355, R376, R377). A request sets PREQ in every warp of the
workgroup and starts its deadline, whether it runs or waits in its place, or is reported where a warp is halted; a save stops the
workgroup once all its slices stand at YIELD, or its deadline has passed, or a gang has waited 2^26 cycles; what the application cores
have served may re-enter. RESUME and STEP end a halt; KILL ends the launch, with its resident and saved workgroups, and voids their
unpublished records. Every register of Table 21.7 of a halted warp is read into DDATA and written from it; another number, a read-only
register's write, a row that is not resident and a warp that is not halted set ERR. A frozen core does not count. A slot's window answers
only the interface whose workgroup occupies it, and reads zero for the others; the freeze word answers interface 0. -/
def Obligations.PreemptionAndTheDebugWindow : Prop :=
  (∀ (s : State) (c g : Nat) (x : Group), Tab.find g (s.core c).groups = some x → x.saving = none →
    (s.preqSet c g = false → (s.haltedSlots c g = [] → ∃ t, exec (.preemptRequest c g) s = .next t
        ∧ (∀ i ∈ x.slots, (t.warp c i).preq = true) ∧ (t.group c g).deadline = some (s.cycle + x.region.deadline))
      ∧ (s.haltedSlots c g ≠ [] → ∃ t, exec (.preemptRequest c g) s = .next t ∧ (∀ i ∈ x.slots, (t.warp c i).preq = true)
          ∧ (t.group c g).deadline = x.deadline ∧ t.msis.length = s.msis.length + 1))
    ∧ (s.preqSet c g = true → s.allYield c g = true → ∃ t, exec (.yieldSave c g) s = .next t
        ∧ (t.group c g).saving = some (0, x.slots.headD 0))
    ∧ (∀ d, x.deadline = some d → d ≤ s.cycle → s.haltedSlots c g = [] → ∃ t, exec (.forcedSave c g) s = .next t
        ∧ (t.group c g).saving = some (1, x.slots.headD 0)))
  ∧ (∀ (s : State) (c slot low sub : Nat) (q : Mask8), let w := s.warp c slot
    w.gangs.find? (fun a => gangLeader a = low) = some q → (w.slice low).wait.watched = some sub → w.report = none →
    (s.group c w.group).saving = none → (w.slice low).waitSince + 2 ^ 26 ≤ s.cycle →
    ((w.slice low).handler = none → ∃ t, exec (.watchdog c slot low) s = .next t ∧ (t.group c w.group).saving = some (3, slot)
      ∧ (t.group c w.group).fault = some { cause := 0x14, cls := .w, sub := sub, mask := gangMask q, va := 0 })
    ∧ ((w.slice low).handler.isSome = true → exec (.watchdog c slot low) s = .next (s.takeH s c slot q (trapH 0x14 sub (gangMask q)))))
  ∧ (∀ (s : State) (id : Nat), let freed := fun (kind : Nat) (t : State) => ∀ x ∈ t.saved, x.id = id → x.kind = kind → x.released = true
    (∃ t, exec (.faultServed id) s = .next t ∧ freed 2 t ∧ t.saved.map (·.id) = s.saved.map (·.id))
    ∧ ∃ t, exec (.watchdogRelease id) s = .next t ∧ freed 3 t ∧ t.saved.map (·.id) = s.saved.map (·.id))
  ∧ (∀ (s : State) (vi c slot : Nat), let w := s.warp c slot
    w.report.isSome = true → s.windowOpen vi c slot = true →
    ((∀ j, slotAligned (w.slice j).pc.toNat = true) →
      (∃ t, exec (.debugResume ⟨vi, c⟩ slot) s = .next t ∧ (t.warp c slot).report = none ∧ (t.warp c slot).stepping = none)
      ∧ ∃ t, exec (.debugStep ⟨vi, c⟩ slot) s = .next t ∧ (t.warp c slot).report = none ∧ (t.warp c slot).stepping.isSome = true)
    ∧ (let h := (s.group c w.group).launch
       ∃ t, exec (.debugKill ⟨vi, c⟩ slot) s = .next t ∧ (∀ l ∈ t.launches, l.handle ≠ h) ∧ (∀ x ∈ t.saved, x.launch ≠ h)
        ∧ t.msis.length = s.msis.length + 1 ∧ (∀ d, ∀ e ∈ (t.core d).groups, e.2.launch ≠ h)
        ∧ ∀ d g x, Tab.find g (s.core d).groups = some x → x.launch = h →
          (∀ o ∈ (t.core d).overlay, o.slot = g → o.seg ≠ (s.core d).openSeq)
          ∧ ∀ q ∈ (t.core d).segs, q.ntick = none → ∀ r ∈ q.records, r.owner = (x.launch, x.linear) → r.void = true)
    ∧ (∀ j l, j < 8 → l < 32 →
      let sl := w.slice j
      let v := Tab.get 0 (s.core c).ddata slot
      let err := fun (t : State) => (Tab.get 0 (t.core c).dacc slot).getLsbD 61
      let answers := fun (n : Nat) (p : W64 → Prop) => ∃ t, exec (.daccRead ⟨vi, c⟩ slot j l n) s = .next t ∧ err t = false
        ∧ p (Tab.get 0 (t.core c).ddata slot)
      let takes := fun (n : Nat) (p : State → Prop) => ∃ t, exec (.daccWrite ⟨vi, c⟩ slot j l n) s = .next t ∧ err t = false ∧ p t
      let refuses := fun (i : Instr) => ∃ t, exec i s = .next t ∧ err t = true ∧ (t.core c).ddata = (s.core c).ddata
        ∧ (t.core c).warps = (s.core c).warps
      let gang := if sl.gang = 0 then BitVec.ofNat 8 (2 ^ j) else sl.gang
      let resident := fun (n : Nat) => n < w.rowB ∧ ∃ q, sl.low ≤ q ∧ q < sl.top ∧ q % w.rowB = n
      (∀ n, n < 0x1000 → if n = 6 then answers n (· = BitVec.ofNat 64 (4 * j + l % 4)) else if n ≤ 0x0B ∨ (0x10 ≤ n ∧ n ≤ 0x19) then
          answers n (· = s.sysRead c slot j n) else refuses (.daccRead ⟨vi, c⟩ slot j l n))
      ∧ (∀ n, n < 0x1000 → n ∉ [0x03, 0x04, 0x13, 0x18, 0x19] → refuses (.daccWrite ⟨vi, c⟩ slot j l n))
      ∧ (∀ n, n < 32 → answers (0x1000 + n) (· = Tab.get 0 sl.s n)
        ∧ takes (0x1000 + n) (fun t => Tab.get 0 ((t.warp c slot).slice j).s n = v))
      ∧ (∀ n, n < 16 → answers (0x1020 + 2 * n) (· = BitVec.truncate 64 (Tab.get 0 sl.b n))
        ∧ answers (0x1021 + 2 * n) (· = BitVec.truncate 64 (Tab.get 0 sl.b n >>> 64))
        ∧ takes (0x1020 + 2 * n) (fun t => BitVec.truncate 64 (Tab.get 0 ((t.warp c slot).slice j).b n) = v)
        ∧ takes (0x1021 + 2 * n) (fun t => BitVec.truncate 64 (Tab.get 0 ((t.warp c slot).slice j).b n >>> 64) = v))
      ∧ (∀ n, n < 8 → answers (0x1040 + n) (fun x => ∀ k, k < 64 →
            x.getLsbD k = (gang.getLsbD (k / 4) && (Tab.get 0 (w.slice (k / 4)).m n).getLsbD (k % 4)))
        ∧ takes (0x1040 + n) (fun t => ∀ q, q < 8 → gang.getLsbD q = true → ∀ k, k < 4 →
            (Tab.get 0 ((t.warp c slot).slice q).m n).getLsbD k = v.getLsbD (4 * q + k)))
      ∧ answers 0x1048 (fun x => ∀ k, k < 8 → x.getLsbD k = (decide (k = 7) || sl.predNow k (l % 4)))
      ∧ takes 0x1048 (fun t => ∀ k, k < 7 → ((t.warp c slot).slice j).predNow k (l % 4) = v.getLsbD k)
      ∧ (∀ n, n < 6 → answers (0x1050 + n) (· = BitVec.ofNat 64 (Tab.get 0 w.tok n))
        ∧ takes (0x1050 + n) (fun t => Tab.get 0 (t.warp c slot).tok n = v.toNat % 64))
      ∧ (∀ n, n < 8 → answers (0x1058 + n) (· = BitVec.zeroExtend 64 (Tab.get 0 w.bs n))
        ∧ takes (0x1058 + n) (fun t => Tab.get 0 (t.warp c slot).bs n = BitVec.truncate 16 v))
      ∧ answers 0x1060 (· = w.mteam) ∧ takes 0x1060 (fun t => (t.warp c slot).mteam = v)
      ∧ (∀ n, n < 512 → (resident n → answers (0x2000 + n) (· = w.placeNow (.row j n (l % 4)))
          ∧ takes (0x2000 + n) (fun t => (t.warp c slot).placeNow (.row j n (l % 4)) = BitVec.zeroExtend 64 (BitVec.truncate 32 v)))
        ∧ (¬ resident n → refuses (.daccRead ⟨vi, c⟩ slot j l (0x2000 + n)) ∧ refuses (.daccWrite ⟨vi, c⟩ slot j l (0x2000 + n))))
      ∧ (∀ n, n < 16 → answers (0x2200 + n) (· = w.placeNow (.hrow j n (l % 4)))
        ∧ takes (0x2200 + n) (fun t => (t.warp c slot).placeNow (.hrow j n (l % 4)) = BitVec.zeroExtend 64 (BitVec.truncate 32 v)))
      ∧ ∀ n, n < 0x10000 → n ∈ [0x1056, 0x1057] ∨ (0x1049 ≤ n ∧ n < 0x1050) ∨ (0x1061 ≤ n ∧ n < 0x2000) ∨ 0x2210 ≤ n →
          refuses (.daccRead ⟨vi, c⟩ slot j l n) ∧ refuses (.daccWrite ⟨vi, c⟩ slot j l n)))
  ∧ (∀ (s : State) (vi c slot j l n : Nat), (s.warp c slot).report = none → s.windowOpen vi c slot = true →
      ∃ t, exec (.daccRead ⟨vi, c⟩ slot j l n) s = .next t ∧ (Tab.get 0 (t.core c).dacc slot).getLsbD 61 = true ∧ (t.core c).ddata = (s.core c).ddata)
  ∧ (∀ (s : State) (vi c slot j l n : Nat), s.windowOpen vi c slot = false →
      (∀ off, off < 256 → slot < 128 → s.debugWord vi c (slot * 256 + off) = 0) ∧ ∀ i ∈ ([.debugResume ⟨vi, c⟩ slot, .debugStep ⟨vi, c⟩ slot, .debugKill ⟨vi, c⟩ slot, .daccRead ⟨vi, c⟩ slot j l n
        , .daccWrite ⟨vi, c⟩ slot j l n] : List Instr), exec i s = .next s)
  ∧ ∀ (s : State) (vi c key n : Nat) (hold : Bool), (vi ≠ 0 → exec (.counterFreeze ⟨vi, c⟩ hold) s = .next s)
      ∧ ∃ t, exec (.counterFreeze ⟨0, c⟩ hold) s = .next t ∧ (t.core c).frozen = hold
      ∧ (hold = true → (t.count c key n).counter c key = t.counter c key)

/-- Reliability, power and trace (R350 to R353, R358, R359, R368, R369). A SYNC follows 65,536 ticks after the last; a LOSS follows once
2,048 bytes are free, with its SYNC, whose entries show the gangs as they stood when the tick began. A scrub read advances its stack's cursor and records what it corrects or poisons; a wear refresh
keeps its word, and reports when WARN becomes set. The stop gates every clock, and a restart lets them go on. A power window over the
limit takes one kind of islands a step down, and one under it a step up; 95 °C takes an island down a step, 110 °C and standby remove
power, of which only the fuses are kept; boot starts the dies where every image is good, under the limit of 3,200 W or of the board
that declares another. The model's choices: that one kind moves by one step a
window, the step back up, and that the fuses alone survive the removal of power (log entry 75), and that a restart clears STOPTICK (log
entry 71). -/
def Obligations.ReliabilityPowerAndTrace : Prop :=
  (∀ (s : State) (c : Nat), let k := s.core c
    let r := k.trace
    let n := 16 * ((if r.startTick = s.tick then r.atStart else k.gangMarks).filter (fun q => r.covers q.slot)).length
    r.en = true → r.size ≠ 0 → r.read.toNat ≤ r.write.toNat → r.write.toNat + 2 ^ 16 < 2 ^ 64 → n ≤ 2000 →
    (r.dropped = 0 → r.owed = false → r.syncTick + 65536 ≤ s.tick →
      (k.tracesWarp = false → ∃ t, exec (.tracePeriodicSync c) s = .next t ∧ (t.core c).trace = { r with owed := true })
      ∧ (k.tracesWarp = true → 10 + n ≤ r.room → ∃ t, exec (.tracePeriodicSync c) s = .next t ∧ (t.core c).trace.syncTick = s.tick
          ∧ (t.core c).trace.write.toNat = r.write.toNat + 10 + n ∧ (t.core c).trace.sync = r.write))
    ∧ (r.dropped ≠ 0 → 2048 ≤ r.room → ∃ t, exec (.traceLoss c) s = .next t ∧ (t.core c).trace.dropped = 0
        ∧ (t.core c).trace.syncTick = s.tick ∧ (t.core c).trace.write.toNat = r.write.toNat + 31 + n))
  ∧ (∀ (s : State) (stack : Nat) (found : ScrubFinding), stack < 16 → s.upsets = [] →
    let q := Tab.get Scrubber.reset s.scrub stack
    let line := stackSeek stack 512 q.next
    ∃ t, exec (.scrubRead stack found) s = .next t
      ∧ (let b := Tab.get Scrubber.reset t.scrub stack
         let next := stackSeek stack 512 (line + 1)
         if 2 ^ 34 ≤ next then b.next = 0 ∧ b.passes = q.passes + 1 else b.next = next ∧ b.passes = q.passes)
      ∧ (found = .corrected → ∃ e, t.errors = s.errors ++ [e] ∧ e.outcome = 0 ∧ e.loc = line)
      ∧ (found = .uncorrectable → line ∈ t.poison ∧ ∃ e, t.errors = s.errors ++ [e] ∧ e.outcome = 1 ∧ e.loc = line))
  ∧ (∀ (s : State) (i : Nat) (word : W64), i < 28 → ∃ t, exec (.wearRefresh i word) s = .next t
    ∧ (let w := (t.island i).wear
       bitsAt w.toNat 16 48 = bitsAt word.toNat 16 48 ∧ bitsAt w.toNat 8 8 = i ∧ (w.getLsbD 0 = true ↔ bitsAt word.toNat 48 16 < 90)
       ∧ t.msis.length = s.msis.length + if w.getLsbD 0 && !(s.island i).wear.getLsbD 0 then 1 else 0))
  ∧ (∀ s : State, (s.gated = false → s.stopTick ≠ 0 → s.stopTick.toNat ≤ s.tick → exec .stoptick s = .next { s with gated := true })
    ∧ (s.gated = true → exec .clockRestart s = .next { s with gated := false, stopTick := 0 }))
  ∧ (∀ (s : State) (draw : Nat), let m := fun (x : State) => x.kindSteps 0 + x.kindSteps 1 + x.kindSteps 2
    ∃ t, exec (.powerWindow draw) s = .next t ∧ t.draw = draw ∧ (s.limit < draw → m t = m s + 1)
      ∧ (draw ≤ s.limit → m t = m s - if s.kindSteps 0 = 0 then 0 else 1))
  ∧ (∀ (s : State) (i celsius : Nat),
    (i < 28 → 95 ≤ celsius → ∃ t, exec (.thermalStep i celsius) s = .next t ∧ (t.island i).hot = (s.island i).hot + 1
      ∧ ∀ j, j ≠ i → t.island j = s.island j)
    ∧ (110 ≤ celsius → ∃ t, exec (.thermalShutdown i celsius) s = .next t ∧ t.power = .shutdown i ∧ t.cores = State.reset.cores
        ∧ t.tick = 0 ∧ t.mem = State.reset.mem ∧ t.security.fuse = s.security.fuse ∧ t.security.started = false)
    ∧ ∃ t, exec .standby s = .next t ∧ t.power = .standby ∧ t.cores = State.reset.cores ∧ t.tick = 0 ∧ t.mem = State.reset.mem
        ∧ t.security.fuse = s.security.fuse ∧ t.security.started = false)
  ∧ ∀ (s : State) (images : List BootImage) (board : Option Nat), s.security.started = false → images ≠ [] →
    let good := ∀ b ∈ images, b.main.passes s.security.fuse = true ∨ b.alternate.passes s.security.fuse = true
    (good → ∃ t, exec (.powerOnBoot ⟨images, board⟩) s = .next t ∧ t.power = .running ∧ t.security.started = true ∧ t.limit = board.getD 3200
      ∧ t.security.loaded.length = images.length)
    ∧ (¬ good → ∃ t, exec (.powerOnBoot ⟨images, board⟩) s = .next t ∧ t.security.started = false ∧ t.security.management = false)

/-- Registers, links and security (R374 to R376, R379 to R384). Interface registers and the configuration block keep what is written
where they are writable; a write to OVF clears it; the domain word is written only with every port down. A port trains once VALID is set
and the peer is another package; a flit in turn with a good CRC is taken, a record into its home's fold queue and an atomic to its home,
any other asked for again; a peer that no port has heard for 200 µs is lost. An image that passes its checks is loaded, and nothing runs
under a service's ASID while none has; a commit raises the fuse count to its image's, never down; a report holds its
nonce, the fuses and the images; a refused access is counted. A core's watch registers and the requester table answer interface 0
alone. The model's choices: EVBASE and REGTAB keep misaligned values as written (log entry 73), and every fetch under a service's
ASID raises PROT while no image of it has passed (log entry 117). -/
def Obligations.RegistersLinksAndSecurity : Prop :=
  (∀ (s : State) (v : Nat) (value : W64), v < 64 → let x := s.vi v
    (∃ t, exec (.ovfClear v) s = .next t ∧ (t.vi v) = { x with ovf := false })
    ∧ (∀ off, ∃ t, exec (.configBlockWrite v off value) s = .next t ∧ (∀ w, w ≠ v → t.vi w = s.vi w)
      ∧ (off = 0x00 → (t.vi v).dies = BitVec.truncate 8 value) ∧ (off = 0x08 → (t.vi v).regtab = BitVec.field value 51 0)
      ∧ (off = 0x10 → (t.vi v).regcnt = BitVec.field value 15 0)
      ∧ (off = 0x18 → (t.vi v).asidbase = BitVec.field value 15 0 ∧ (t.vi v).asidcnt = BitVec.field value 31 16)
      ∧ (off = 0x20 → (t.vi v).asidtab = BitVec.field value 51 0))
    ∧ (∀ off, ∃ t, exec (.registerWrite (.vi v off) value) s = .next t
      ∧ (off = 0x028 → (t.vi v).msiaddr.toNat = BitVec.field value 51 0) ∧ (off = 0x030 → (t.vi v).msidata = BitVec.truncate 32 value)
      ∧ (off = 0x038 → (t.vi v).evbase = BitVec.field value 51 0)
      ∧ (off = 0x040 → (t.vi v).ovf = (x.ovf && !value.getLsbD 63) ∧ (t.vi v).evhead.toNat = BitVec.field value 31 16
          ∧ (t.vi v).evsize.toNat = BitVec.field value 15 0 ∧ (t.vi v).evtail = x.evtail)
      ∧ (off ∈ [0x000, 0x008, 0x010, 0x018, 0x020, 0x050] → t.vi v = x)))
  ∧ (∀ (s : State) (value : W64) (c i : Nat), c < 512 → i < 4 →
    (∃ t, exec (.registerWrite (.debug 0 c (0x8100 + 16 * i)) value) s = .next t
      ∧ (Tab.get { va := 0, ctl := 0 } (t.core c).watch i).va = value)
    ∧ (∀ vi, vi ≠ 0 → exec (.registerWrite (.debug vi c (0x8100 + 16 * i)) value) s = .next s
      ∧ exec (.registerWrite (.requester vi i) value) s = .next s)
    ∧ (∃ t, exec (.registerWrite .stopTick value) s = .next t ∧ t = { s with stopTick := value })
    ∧ ∃ t, exec (.registerWrite (.requester 0 i) value) s = .next t ∧ Tab.find i t.requesters = some (value.toNat % 65536))
  ∧ (∀ (s : State) (value : W64), ∃ t, exec (.domainWordWrite value) s = .next t
    ∧ ((∀ e ∈ s.ports, e.2.up = false) → t.domainWord = value &&& 0x800000000000003F)
    ∧ ((∃ e ∈ s.ports, e.2.up = true) → t = s))
  ∧ (∀ (s : State) (p peer : Nat), p < 24 → s.domainWord.getLsbD 63 = true → ∃ t, exec (.linkTraining p peer) s = .next t
    ∧ (t.port p).peer = peer % 64 ∧ (t.port p).up = decide (peer % 64 ≠ s.package) ∧ (t.port p).clash = decide (peer % 64 = s.package))
  ∧ (∀ (s : State) (p seq : Nat) (body : FlitBody) (ok : Bool), (s.port p).up = true → ∃ t, exec (.flitReceive p ⟨seq, body⟩ ok) s = .next t
    ∧ (ok = true → seq = (s.port p).expect → match body with
      | .record line mask data => bitsAt (line * 64) 50 2 = 0 → ∃ f, t.foldq = s.foldq ++ [f] ∧ f.home = homeOf (line * 64)
          ∧ f.record.line = line ∧ f.record.mask = mask ∧ f.record.data = data ∧ f.record.void = false
      | .atomic .. => t.inbound = s.inbound ++ [{ port := p, source := (s.port p).peer, body := body }]
      | .other => t.foldq = s.foldq ∧ t.inbound = s.inbound)
    ∧ if ok = true ∧ seq = (s.port p).expect then (t.port p).expect = (s.port p).expect + 1 ∧ (t.port p).retries = (s.port p).retries
      else (t.port p).expect = (s.port p).expect ∧ (t.port p).retries = (s.port p).retries + 1)
  ∧ (∀ (s : State) (peer : Nat), (∃ e ∈ s.ports, e.2.up = true ∧ e.2.peer = peer) → peer ∉ s.lost →
    (∀ e ∈ s.ports, e.2.up = true → e.2.peer = peer → e.2.lastAck + 200000 ≤ s.tick) → ∃ t, exec (.peerLost peer) s = .next t
      ∧ t.lost = s.lost ++ [peer] ∧ (∀ e ∈ t.ports, e.2.peer = peer → e.2.up = false) ∧ t.msis.length = s.msis.length + 1)
  ∧ (∀ (s : State) (image : Image) (asid : BitVec 16), let good := image.passes s.security.fuse
    ∃ t, exec (.imageLoad ⟨image, asid⟩) s = .next t
    ∧ t.security.loaded = s.security.loaded ++ (if good then [image] else [])
    ∧ (image.kind = 4 → good = true → asid ∉ t.security.barred ∧ asid ∈ t.security.services)
    ∧ (image.kind = 4 → good = false → asid ∉ s.security.services → asid ∈ t.security.barred
      ∧ ∀ e va r w, e.asid = asid → t.permit e va r w true = .error .prot)
    ∧ (image.kind ≠ 4 → t.security.barred = s.security.barred ∧ t.security.services = s.security.services))
  ∧ (∀ (s : State) (v i n : Nat), ∃ t, exec (.fuseCommit v i n) s = .next t ∧ s.security.fuse ≤ t.security.fuse
    ∧ (∀ m, v = 0 → s.security.loaded[i]? = some m → m.svn.toNat ≤ n → t.security.fuse = max s.security.fuse m.svn.toNat)
    ∧ (v ≠ 0 → t = s))
  ∧ (∀ (s : State) (nonce : List Byte), nonce.length = 48 → ∃ t r, exec (.attestationReport nonce) s = .next t
    ∧ t.security.reports = s.security.reports ++ [r] ∧ r.nonce = nonce ∧ r.fuse = s.security.fuse ∧ r.refused = s.security.refused
    ∧ r.images = s.security.loaded.map (fun m => (m.kind, m.svn, m.digest)))
  ∧ ∀ (s : State) (pa : Nat), let open' := bitsAt pa 50 2 = 3 ∨ Config.firmwareRegion.1 ≤ pa ∧ pa < Config.firmwareRegion.1 + Config.firmwareRegion.2
    (open' → exec (.filterRefusal pa) s = .next s)
    ∧ (¬ open' → ∃ t, exec (.filterRefusal pa) s = .next t ∧ t.security.refused = s.security.refused + 1)

/-! A step -/

/-- A step runs the decoded instruction (R65, R66, R69, R86): where the cycle's next pipe has a resident warp and its issue cycle latches
one instruction for a gang, the step is that instruction's `exec` for the gang, with the latch empty after it; what it latches, when the
gang is free to issue and its line is at hand with no mark, good parity and no poison, is what the decoder reads from the 96 bits of its slot. An
event that comes next is performed by its `exec`. -/
def Obligations.StepRunsTheDecodedInstruction : Prop :=
  (∀ (s t : State) (f : Fetched) (n : Nat), s.nextEvent = none → s.power = .running → s.gated = false →
    s.busyPipes.find? (fun p => decide (s.turn ≤ p)) = some n →
    exec (.issueCycle (n / 4) (n % 4)) { s with turn := n + 1, ir := [], cur := none } = .next t → t.ir = [f] →
    step s = restIssue (exec f.instr { t with ir := [], cur := some f.cur }))
  ∧ (∀ (s : State) (c slot : Nat) (g : Mask8) (l : LineBits) (i : Instr), let ld := (s.warp c slot).slice (gangLeader g)
    let n := ld.pc.toNat % 64 / 12
    s.gangHold c slot g = none → s.deliverPending c slot g = none → Tab.find (icKey (s.warp c slot).asid ld.pc.toNat) (s.core c).icache = some l →
    (∀ j ∈ gangSlices g, (s.warp c slot |>.slice j).mark = false) → parityOk l n = true →
    (s.core c).icBad.contains (icKey (s.warp c slot).asid ld.pc.toNat) = false → lwReserved l = false → pairBit l n = false →
    decodeSlot (lineSlot l n) = .ok i → s.instrHold c slot g i = none →
    s.front c slot g = .go i none)
  ∧ ∀ (s t : State) (e : Instr) (r : List Instr), s.nextEvent = some (e, r) → isEvent e = true → latches e = false →
    exec e { s with agenda := r, ir := [], cur := none } = .next t → step s = .next t.atRest

end Statements
end

