-- ==== Sys2Proof/Laws/Tab.lean ====
section
/-! SUPPORT. Laws of sparse tables: what is read after a write, at the key and elsewhere, and that the canonical form is
kept. -/

namespace Sys2Proof.Machine

variable {α : Type}

@[simp] theorem Tab.find_nil (k : Nat) : Tab.find k ([] : Tab α) = none := rfl

@[simp] theorem Tab.find_put_same (t : Tab α) (k : Nat) (v : α) : Tab.find k (Tab.put t k v) = some v := by
  induction t with
  | nil => simp [Tab.put, Tab.find]
  | cons e r ih =>
    obtain ⟨a, w⟩ := e
    simp only [Tab.put]
    split
    · simp [Tab.find]
    · split
      · simp [Tab.find]
      · simp [Tab.find, *]

theorem Tab.find_put_other (t : Tab α) {k j : Nat} (v : α) (h : j ≠ k) :
    Tab.find j (Tab.put t k v) = Tab.find j t := by
  induction t with
  | nil => simp [Tab.put, Tab.find, h.symm]
  | cons e r ih =>
    obtain ⟨a, w⟩ := e
    simp only [Tab.put]
    split
    · simp [Tab.find, h.symm]
    · split
      · next hak => subst hak; simp [Tab.find, h.symm]
      · simp [Tab.find, ih]

@[simp] theorem Tab.find_del_same (t : Tab α) (k : Nat) : Tab.find k (Tab.del t k) = none := by
  induction t with
  | nil => rfl
  | cons e r ih =>
    obtain ⟨a, w⟩ := e
    simp only [Tab.del]
    split
    · exact ih
    · simp [Tab.find, *]

theorem Tab.find_del_other (t : Tab α) {k j : Nat} (h : j ≠ k) : Tab.find j (Tab.del t k) = Tab.find j t := by
  induction t with
  | nil => rfl
  | cons e r ih =>
    obtain ⟨a, w⟩ := e
    simp only [Tab.del]
    split
    · next hak => subst hak; simp [Tab.find, h.symm, ih]
    · simp [Tab.find, ih]

/-- A table whose entries are each changed by one function. -/
theorem Tab.find_map {β : Type} (f : α → β) (t : Tab α) (k : Nat) :
    Tab.find k (t.map (fun e => (e.1, f e.2)) : Tab β) = (Tab.find k t).map f := by
  induction t with
  | nil => rfl
  | cons e r ih =>
    obtain ⟨j, v⟩ := e
    simp only [List.map_cons, Tab.find]
    split
    · rfl
    · exact ih

theorem Tab.get_map (f : α → α) (d : α) (t : Tab α) (k : Nat) (h : f d = d) :
    Tab.get d (t.map (fun e => (e.1, f e.2)) : Tab α) k = f (Tab.get d t k) := by
  simp only [Tab.get, Tab.find_map]
  cases Tab.find k t <;> simp [h]

@[simp] theorem Tab.get_put_same (d : α) (t : Tab α) (k : Nat) (v : α) : Tab.get d (Tab.put t k v) k = v := by
  simp [Tab.get]

theorem Tab.get_put_other (d : α) (t : Tab α) {k j : Nat} (v : α) (h : j ≠ k) :
    Tab.get d (Tab.put t k v) j = Tab.get d t j := by
  simp [Tab.get, Tab.find_put_other t v h]

/-! The canonical form -/

/-- Every key of the table is above `a`. -/
def Tab.above (a : Nat) (t : Tab α) : Prop := ∀ e ∈ t, a < e.1

theorem Tab.sorted_cons (a : Nat) (v : α) (t : Tab α) (h : Tab.sorted ((a, v) :: t) = true) :
    Tab.above a t ∧ Tab.sorted t = true := by
  induction t generalizing a v with
  | nil => exact ⟨by simp [Tab.above], rfl⟩
  | cons e r ih =>
    obtain ⟨b, w⟩ := e
    simp only [Tab.sorted, Bool.and_eq_true, decide_eq_true_eq] at h
    refine ⟨?_, h.2⟩
    intro x hx
    rcases List.mem_cons.mp hx with rfl | hx
    · exact h.1
    · exact lt_trans h.1 ((ih b w h.2).1 x hx)

theorem Tab.sorted_of_above (a : Nat) (v : α) (t : Tab α) (h : Tab.above a t) (hs : Tab.sorted t = true) :
    Tab.sorted ((a, v) :: t) = true := by
  cases t with
  | nil => rfl
  | cons e r =>
    obtain ⟨b, w⟩ := e
    simp only [Tab.sorted, Bool.and_eq_true, decide_eq_true_eq]
    exact ⟨h (b, w) (by simp), hs⟩

/-- An entry after a write is the new one, or was there before. -/
theorem Tab.mem_put {t : Tab α} {k : Nat} {v : α} {e : Nat × α} (h : e ∈ Tab.put t k v) : e = (k, v) ∨ e ∈ t := by
  induction t with
  | nil => simpa [Tab.put] using h
  | cons x r ih =>
    unfold Tab.put at h
    by_cases below : k < x.1
    · simpa [below] using h
    · by_cases here : x.1 = k
      · rw [if_neg below, if_pos here, List.mem_cons] at h
        exact h.imp_right (List.mem_cons_of_mem x)
      · simp only [below, here, if_false, List.mem_cons] at h ⊢
        tauto

theorem Tab.mem_del {t : Tab α} {k : Nat} {e : Nat × α} (h : e ∈ Tab.del t k) : e ∈ t := by
  induction t with
  | nil => simp [Tab.del] at h
  | cons x r ih =>
    obtain ⟨a, w⟩ := x
    simp only [Tab.del] at h
    split at h
    · exact List.mem_cons_of_mem _ (ih h)
    · rcases List.mem_cons.mp h with h | h
      · exact h ▸ List.mem_cons_self ..
      · exact List.mem_cons_of_mem _ (ih h)

theorem Tab.sorted_put (t : Tab α) (k : Nat) (v : α) (h : Tab.sorted t = true) : Tab.sorted (Tab.put t k v) = true := by
  induction t with
  | nil => rfl
  | cons x r ih =>
    obtain ⟨a, w⟩ := x
    obtain ⟨hr, hs⟩ := Tab.sorted_cons a w r h
    simp only [Tab.put]
    split
    · next hk => simp only [Tab.sorted, Bool.and_eq_true, decide_eq_true_eq]; exact ⟨hk, h⟩
    · split
      · next hk => subst hk; exact Tab.sorted_of_above a v r hr hs
      · refine Tab.sorted_of_above a w _ ?_ (ih hs)
        intro e he
        rcases Tab.mem_put he with rfl | he
        · show a < k
          omega
        · exact hr e he

theorem Tab.sorted_del (t : Tab α) (k : Nat) (h : Tab.sorted t = true) : Tab.sorted (Tab.del t k) = true := by
  induction t with
  | nil => rfl
  | cons x r ih =>
    obtain ⟨a, w⟩ := x
    obtain ⟨hr, hs⟩ := Tab.sorted_cons a w r h
    simp only [Tab.del]
    split
    · exact ih hs
    · exact Tab.sorted_of_above a w _ (fun e he => hr e (Tab.mem_del he)) (ih hs)

variable [DecidableEq α]

@[simp] theorem Tab.get_set_same (d : α) (t : Tab α) (k : Nat) (v : α) : Tab.get d (Tab.set d t k v) k = v := by
  unfold Tab.set
  split
  · next h => simp [Tab.get, h]
  · simp

theorem Tab.get_set_other (d : α) (t : Tab α) {k j : Nat} (v : α) (h : j ≠ k) :
    Tab.get d (Tab.set d t k v) j = Tab.get d t j := by
  unfold Tab.set
  split
  · simp [Tab.get, Tab.find_del_other t h]
  · exact Tab.get_put_other d t v h

/-- A write that changes nothing elsewhere, as one equation. -/
theorem Tab.get_set (d : α) (t : Tab α) (k j : Nat) (v : α) :
    Tab.get d (Tab.set d t k v) j = if j = k then v else Tab.get d t j := by
  split
  · next h => subst h; simp
  · next h => exact Tab.get_set_other d t v h

/-- A write keeps the canonical form. -/
theorem Tab.wf_set (d : α) (t : Tab α) (k : Nat) (v : α) (h : Tab.wf d t = true) : Tab.wf d (Tab.set d t k v) = true := by
  simp only [Tab.wf, Bool.and_eq_true, List.all_eq_true, decide_eq_true_eq] at h ⊢
  unfold Tab.set
  split
  · exact ⟨Tab.sorted_del t k h.1, fun e he => h.2 e (Tab.mem_del he)⟩
  · next hv =>
    refine ⟨Tab.sorted_put t k v h.1, fun e he => ?_⟩
    rcases Tab.mem_put he with rfl | he
    · exact hv
    · exact h.2 e he

end Sys2Proof.Machine
end

