-- ==== Sys2Proof/Laws/State.lean ====
section
/-! SUPPORT. What each update of a part of the state leaves as it was, one lemma for each field, and what is read after
it. -/

namespace Sys2Proof.Machine

/-! Fields that an update of a core, a warp, a workgroup or an interface leaves as they were -/

@[simp] theorem State.setCore_cur (s : State) (c : Nat) (k : Core) : (s.setCore c k).cur = s.cur := rfl
@[simp] theorem State.setCore_ir (s : State) (c : Nat) (k : Core) : (s.setCore c k).ir = s.ir := rfl
@[simp] theorem State.setCore_probe (s : State) (c : Nat) (k : Core) : (s.setCore c k).probe = s.probe := rfl
@[simp] theorem State.setCore_agenda (s : State) (c : Nat) (k : Core) : (s.setCore c k).agenda = s.agenda := rfl
@[simp] theorem State.setCore_turn (s : State) (c : Nat) (k : Core) : (s.setCore c k).turn = s.turn := rfl
@[simp] theorem State.setCore_cycle (s : State) (c : Nat) (k : Core) : (s.setCore c k).cycle = s.cycle := rfl
@[simp] theorem State.setCore_quanta (s : State) (c : Nat) (k : Core) : (s.setCore c k).quanta = s.quanta := rfl
@[simp] theorem State.setCore_draws (s : State) (c : Nat) (k : Core) : (s.setCore c k).draws = s.draws := rfl
@[simp] theorem State.setCore_mem (s : State) (c : Nat) (k : Core) : (s.setCore c k).mem = s.mem := rfl
@[simp] theorem State.setCore_poison (s : State) (c : Nat) (k : Core) : (s.setCore c k).poison = s.poison := rfl
@[simp] theorem State.setCore_dies (s : State) (c : Nat) (k : Core) : (s.setCore c k).dies = s.dies := rfl
@[simp] theorem State.setCore_lineMeta (s : State) (c : Nat) (k : Core) : (s.setCore c k).lineMeta = s.lineMeta := rfl
@[simp] theorem State.setCore_upsets (s : State) (c : Nat) (k : Core) : (s.setCore c k).upsets = s.upsets := rfl
@[simp] theorem State.setCore_slips (s : State) (c : Nat) (k : Core) : (s.setCore c k).slips = s.slips := rfl
@[simp] theorem State.setCore_found (s : State) (c : Nat) (k : Core) : (s.setCore c k).found = s.found := rfl
@[simp] theorem State.setCore_inbound (s : State) (c : Nat) (k : Core) : (s.setCore c k).inbound = s.inbound := rfl
@[simp] theorem State.setCore_leaves (s : State) (c : Nat) (k : Core) : (s.setCore c k).leaves = s.leaves := rfl
@[simp] theorem State.setCore_charged (s : State) (c : Nat) (k : Core) : (s.setCore c k).charged = s.charged := rfl
@[simp] theorem State.setCore_arrivals (s : State) (c : Nat) (k : Core) : (s.setCore c k).arrivals = s.arrivals := rfl
@[simp] theorem State.setCore_answers (s : State) (c : Nat) (k : Core) : (s.setCore c k).answers = s.answers := rfl
@[simp] theorem State.setCore_foldq (s : State) (c : Nat) (k : Core) : (s.setCore c k).foldq = s.foldq := rfl
@[simp] theorem State.setCore_pub (s : State) (c : Nat) (k : Core) : (s.setCore c k).pub = s.pub := rfl
@[simp] theorem State.setCore_replay (s : State) (c : Nat) (k : Core) : (s.setCore c k).replay = s.replay := rfl
@[simp] theorem State.setCore_shoots (s : State) (c : Nat) (k : Core) : (s.setCore c k).shoots = s.shoots := rfl
@[simp] theorem State.setCore_arriving (s : State) (c : Nat) (k : Core) : (s.setCore c k).arriving = s.arriving := rfl
@[simp] theorem State.setCore_vis (s : State) (c : Nat) (k : Core) : (s.setCore c k).vis = s.vis := rfl
@[simp] theorem State.setCore_launches (s : State) (c : Nat) (k : Core) : (s.setCore c k).launches = s.launches := rfl
@[simp] theorem State.setCore_queues (s : State) (c : Nat) (k : Core) : (s.setCore c k).queues = s.queues := rfl
@[simp] theorem State.setCore_saved (s : State) (c : Nat) (k : Core) : (s.setCore c k).saved = s.saved := rfl
@[simp] theorem State.setCore_nextHandle (s : State) (c : Nat) (k : Core) : (s.setCore c k).nextHandle = s.nextHandle := rfl
@[simp] theorem State.setCore_errors (s : State) (c : Nat) (k : Core) : (s.setCore c k).errors = s.errors := rfl
@[simp] theorem State.setCore_msis (s : State) (c : Nat) (k : Core) : (s.setCore c k).msis = s.msis := rfl
@[simp] theorem State.setCore_islands (s : State) (c : Nat) (k : Core) : (s.setCore c k).islands = s.islands := rfl
@[simp] theorem State.setCore_scrub (s : State) (c : Nat) (k : Core) : (s.setCore c k).scrub = s.scrub := rfl
@[simp] theorem State.setCore_draw (s : State) (c : Nat) (k : Core) : (s.setCore c k).draw = s.draw := rfl
@[simp] theorem State.setCore_limit (s : State) (c : Nat) (k : Core) : (s.setCore c k).limit = s.limit := rfl
@[simp] theorem State.setCore_power (s : State) (c : Nat) (k : Core) : (s.setCore c k).power = s.power := rfl
@[simp] theorem State.setCore_stopTick (s : State) (c : Nat) (k : Core) : (s.setCore c k).stopTick = s.stopTick := rfl
@[simp] theorem State.setCore_gated (s : State) (c : Nat) (k : Core) : (s.setCore c k).gated = s.gated := rfl
@[simp] theorem State.setCore_domainWord (s : State) (c : Nat) (k : Core) : (s.setCore c k).domainWord = s.domainWord := rfl
@[simp] theorem State.setCore_ports (s : State) (c : Nat) (k : Core) : (s.setCore c k).ports = s.ports := rfl
@[simp] theorem State.setCore_lost (s : State) (c : Nat) (k : Core) : (s.setCore c k).lost = s.lost := rfl
@[simp] theorem State.setCore_requesters (s : State) (c : Nat) (k : Core) : (s.setCore c k).requesters = s.requesters := rfl
@[simp] theorem State.setCore_pcie (s : State) (c : Nat) (k : Core) : (s.setCore c k).pcie = s.pcie := rfl
@[simp] theorem State.setCore_security (s : State) (c : Nat) (k : Core) : (s.setCore c k).security = s.security := rfl

@[simp] theorem State.modCore_cur (s : State) (c : Nat) (f : Core → Core) : (s.modCore c f).cur = s.cur := rfl
@[simp] theorem State.modCore_ir (s : State) (c : Nat) (f : Core → Core) : (s.modCore c f).ir = s.ir := rfl
@[simp] theorem State.modCore_probe (s : State) (c : Nat) (f : Core → Core) : (s.modCore c f).probe = s.probe := rfl
@[simp] theorem State.modCore_agenda (s : State) (c : Nat) (f : Core → Core) : (s.modCore c f).agenda = s.agenda := rfl
@[simp] theorem State.modCore_turn (s : State) (c : Nat) (f : Core → Core) : (s.modCore c f).turn = s.turn := rfl
@[simp] theorem State.modCore_cycle (s : State) (c : Nat) (f : Core → Core) : (s.modCore c f).cycle = s.cycle := rfl
@[simp] theorem State.modCore_quanta (s : State) (c : Nat) (f : Core → Core) : (s.modCore c f).quanta = s.quanta := rfl
@[simp] theorem State.modCore_draws (s : State) (c : Nat) (f : Core → Core) : (s.modCore c f).draws = s.draws := rfl
@[simp] theorem State.modCore_mem (s : State) (c : Nat) (f : Core → Core) : (s.modCore c f).mem = s.mem := rfl
@[simp] theorem State.modCore_poison (s : State) (c : Nat) (f : Core → Core) : (s.modCore c f).poison = s.poison := rfl
@[simp] theorem State.modCore_dies (s : State) (c : Nat) (f : Core → Core) : (s.modCore c f).dies = s.dies := rfl
@[simp] theorem State.modCore_lineMeta (s : State) (c : Nat) (f : Core → Core) : (s.modCore c f).lineMeta = s.lineMeta := rfl
@[simp] theorem State.modCore_upsets (s : State) (c : Nat) (f : Core → Core) : (s.modCore c f).upsets = s.upsets := rfl
@[simp] theorem State.modCore_slips (s : State) (c : Nat) (f : Core → Core) : (s.modCore c f).slips = s.slips := rfl
@[simp] theorem State.modCore_found (s : State) (c : Nat) (f : Core → Core) : (s.modCore c f).found = s.found := rfl
@[simp] theorem State.modCore_inbound (s : State) (c : Nat) (f : Core → Core) : (s.modCore c f).inbound = s.inbound := rfl
@[simp] theorem State.modCore_leaves (s : State) (c : Nat) (f : Core → Core) : (s.modCore c f).leaves = s.leaves := rfl
@[simp] theorem State.modCore_charged (s : State) (c : Nat) (f : Core → Core) : (s.modCore c f).charged = s.charged := rfl
@[simp] theorem State.modCore_arrivals (s : State) (c : Nat) (f : Core → Core) : (s.modCore c f).arrivals = s.arrivals := rfl
@[simp] theorem State.modCore_answers (s : State) (c : Nat) (f : Core → Core) : (s.modCore c f).answers = s.answers := rfl
@[simp] theorem State.modCore_foldq (s : State) (c : Nat) (f : Core → Core) : (s.modCore c f).foldq = s.foldq := rfl
@[simp] theorem State.modCore_pub (s : State) (c : Nat) (f : Core → Core) : (s.modCore c f).pub = s.pub := rfl
@[simp] theorem State.modCore_replay (s : State) (c : Nat) (f : Core → Core) : (s.modCore c f).replay = s.replay := rfl
@[simp] theorem State.modCore_shoots (s : State) (c : Nat) (f : Core → Core) : (s.modCore c f).shoots = s.shoots := rfl
@[simp] theorem State.modCore_arriving (s : State) (c : Nat) (f : Core → Core) : (s.modCore c f).arriving = s.arriving := rfl
@[simp] theorem State.modCore_vis (s : State) (c : Nat) (f : Core → Core) : (s.modCore c f).vis = s.vis := rfl
@[simp] theorem State.modCore_launches (s : State) (c : Nat) (f : Core → Core) : (s.modCore c f).launches = s.launches := rfl
@[simp] theorem State.modCore_queues (s : State) (c : Nat) (f : Core → Core) : (s.modCore c f).queues = s.queues := rfl
@[simp] theorem State.modCore_saved (s : State) (c : Nat) (f : Core → Core) : (s.modCore c f).saved = s.saved := rfl
@[simp] theorem State.modCore_nextHandle (s : State) (c : Nat) (f : Core → Core) : (s.modCore c f).nextHandle = s.nextHandle := rfl
@[simp] theorem State.modCore_errors (s : State) (c : Nat) (f : Core → Core) : (s.modCore c f).errors = s.errors := rfl
@[simp] theorem State.modCore_msis (s : State) (c : Nat) (f : Core → Core) : (s.modCore c f).msis = s.msis := rfl
@[simp] theorem State.modCore_islands (s : State) (c : Nat) (f : Core → Core) : (s.modCore c f).islands = s.islands := rfl
@[simp] theorem State.modCore_scrub (s : State) (c : Nat) (f : Core → Core) : (s.modCore c f).scrub = s.scrub := rfl
@[simp] theorem State.modCore_draw (s : State) (c : Nat) (f : Core → Core) : (s.modCore c f).draw = s.draw := rfl
@[simp] theorem State.modCore_limit (s : State) (c : Nat) (f : Core → Core) : (s.modCore c f).limit = s.limit := rfl
@[simp] theorem State.modCore_power (s : State) (c : Nat) (f : Core → Core) : (s.modCore c f).power = s.power := rfl
@[simp] theorem State.modCore_stopTick (s : State) (c : Nat) (f : Core → Core) : (s.modCore c f).stopTick = s.stopTick := rfl
@[simp] theorem State.modCore_gated (s : State) (c : Nat) (f : Core → Core) : (s.modCore c f).gated = s.gated := rfl
@[simp] theorem State.modCore_domainWord (s : State) (c : Nat) (f : Core → Core) : (s.modCore c f).domainWord = s.domainWord := rfl
@[simp] theorem State.modCore_ports (s : State) (c : Nat) (f : Core → Core) : (s.modCore c f).ports = s.ports := rfl
@[simp] theorem State.modCore_lost (s : State) (c : Nat) (f : Core → Core) : (s.modCore c f).lost = s.lost := rfl
@[simp] theorem State.modCore_requesters (s : State) (c : Nat) (f : Core → Core) : (s.modCore c f).requesters = s.requesters := rfl
@[simp] theorem State.modCore_pcie (s : State) (c : Nat) (f : Core → Core) : (s.modCore c f).pcie = s.pcie := rfl
@[simp] theorem State.modCore_security (s : State) (c : Nat) (f : Core → Core) : (s.modCore c f).security = s.security := rfl

@[simp] theorem State.setWarp_cur (s : State) (c w : Nat) (x : Warp) : (s.setWarp c w x).cur = s.cur := rfl
@[simp] theorem State.setWarp_ir (s : State) (c w : Nat) (x : Warp) : (s.setWarp c w x).ir = s.ir := rfl
@[simp] theorem State.setWarp_probe (s : State) (c w : Nat) (x : Warp) : (s.setWarp c w x).probe = s.probe := rfl
@[simp] theorem State.setWarp_agenda (s : State) (c w : Nat) (x : Warp) : (s.setWarp c w x).agenda = s.agenda := rfl
@[simp] theorem State.setWarp_turn (s : State) (c w : Nat) (x : Warp) : (s.setWarp c w x).turn = s.turn := rfl
@[simp] theorem State.setWarp_cycle (s : State) (c w : Nat) (x : Warp) : (s.setWarp c w x).cycle = s.cycle := rfl
@[simp] theorem State.setWarp_quanta (s : State) (c w : Nat) (x : Warp) : (s.setWarp c w x).quanta = s.quanta := rfl
@[simp] theorem State.setWarp_draws (s : State) (c w : Nat) (x : Warp) : (s.setWarp c w x).draws = s.draws := rfl
@[simp] theorem State.setWarp_mem (s : State) (c w : Nat) (x : Warp) : (s.setWarp c w x).mem = s.mem := rfl
@[simp] theorem State.setWarp_poison (s : State) (c w : Nat) (x : Warp) : (s.setWarp c w x).poison = s.poison := rfl
@[simp] theorem State.setWarp_dies (s : State) (c w : Nat) (x : Warp) : (s.setWarp c w x).dies = s.dies := rfl
@[simp] theorem State.setWarp_lineMeta (s : State) (c w : Nat) (x : Warp) : (s.setWarp c w x).lineMeta = s.lineMeta := rfl
@[simp] theorem State.setWarp_upsets (s : State) (c w : Nat) (x : Warp) : (s.setWarp c w x).upsets = s.upsets := rfl
@[simp] theorem State.setWarp_slips (s : State) (c w : Nat) (x : Warp) : (s.setWarp c w x).slips = s.slips := rfl
@[simp] theorem State.setWarp_found (s : State) (c w : Nat) (x : Warp) : (s.setWarp c w x).found = s.found := rfl
@[simp] theorem State.setWarp_inbound (s : State) (c w : Nat) (x : Warp) : (s.setWarp c w x).inbound = s.inbound := rfl
@[simp] theorem State.setWarp_leaves (s : State) (c w : Nat) (x : Warp) : (s.setWarp c w x).leaves = s.leaves := rfl
@[simp] theorem State.setWarp_charged (s : State) (c w : Nat) (x : Warp) : (s.setWarp c w x).charged = s.charged := rfl
@[simp] theorem State.setWarp_arrivals (s : State) (c w : Nat) (x : Warp) : (s.setWarp c w x).arrivals = s.arrivals := rfl
@[simp] theorem State.setWarp_answers (s : State) (c w : Nat) (x : Warp) : (s.setWarp c w x).answers = s.answers := rfl
@[simp] theorem State.setWarp_foldq (s : State) (c w : Nat) (x : Warp) : (s.setWarp c w x).foldq = s.foldq := rfl
@[simp] theorem State.setWarp_pub (s : State) (c w : Nat) (x : Warp) : (s.setWarp c w x).pub = s.pub := rfl
@[simp] theorem State.setWarp_replay (s : State) (c w : Nat) (x : Warp) : (s.setWarp c w x).replay = s.replay := rfl
@[simp] theorem State.setWarp_shoots (s : State) (c w : Nat) (x : Warp) : (s.setWarp c w x).shoots = s.shoots := rfl
@[simp] theorem State.setWarp_arriving (s : State) (c w : Nat) (x : Warp) : (s.setWarp c w x).arriving = s.arriving := rfl
@[simp] theorem State.setWarp_vis (s : State) (c w : Nat) (x : Warp) : (s.setWarp c w x).vis = s.vis := rfl
@[simp] theorem State.setWarp_launches (s : State) (c w : Nat) (x : Warp) : (s.setWarp c w x).launches = s.launches := rfl
@[simp] theorem State.setWarp_queues (s : State) (c w : Nat) (x : Warp) : (s.setWarp c w x).queues = s.queues := rfl
@[simp] theorem State.setWarp_saved (s : State) (c w : Nat) (x : Warp) : (s.setWarp c w x).saved = s.saved := rfl
@[simp] theorem State.setWarp_nextHandle (s : State) (c w : Nat) (x : Warp) : (s.setWarp c w x).nextHandle = s.nextHandle := rfl
@[simp] theorem State.setWarp_errors (s : State) (c w : Nat) (x : Warp) : (s.setWarp c w x).errors = s.errors := rfl
@[simp] theorem State.setWarp_msis (s : State) (c w : Nat) (x : Warp) : (s.setWarp c w x).msis = s.msis := rfl
@[simp] theorem State.setWarp_islands (s : State) (c w : Nat) (x : Warp) : (s.setWarp c w x).islands = s.islands := rfl
@[simp] theorem State.setWarp_scrub (s : State) (c w : Nat) (x : Warp) : (s.setWarp c w x).scrub = s.scrub := rfl
@[simp] theorem State.setWarp_draw (s : State) (c w : Nat) (x : Warp) : (s.setWarp c w x).draw = s.draw := rfl
@[simp] theorem State.setWarp_limit (s : State) (c w : Nat) (x : Warp) : (s.setWarp c w x).limit = s.limit := rfl
@[simp] theorem State.setWarp_power (s : State) (c w : Nat) (x : Warp) : (s.setWarp c w x).power = s.power := rfl
@[simp] theorem State.setWarp_stopTick (s : State) (c w : Nat) (x : Warp) : (s.setWarp c w x).stopTick = s.stopTick := rfl
@[simp] theorem State.setWarp_gated (s : State) (c w : Nat) (x : Warp) : (s.setWarp c w x).gated = s.gated := rfl
@[simp] theorem State.setWarp_domainWord (s : State) (c w : Nat) (x : Warp) : (s.setWarp c w x).domainWord = s.domainWord := rfl
@[simp] theorem State.setWarp_ports (s : State) (c w : Nat) (x : Warp) : (s.setWarp c w x).ports = s.ports := rfl
@[simp] theorem State.setWarp_lost (s : State) (c w : Nat) (x : Warp) : (s.setWarp c w x).lost = s.lost := rfl
@[simp] theorem State.setWarp_requesters (s : State) (c w : Nat) (x : Warp) : (s.setWarp c w x).requesters = s.requesters := rfl
@[simp] theorem State.setWarp_pcie (s : State) (c w : Nat) (x : Warp) : (s.setWarp c w x).pcie = s.pcie := rfl
@[simp] theorem State.setWarp_security (s : State) (c w : Nat) (x : Warp) : (s.setWarp c w x).security = s.security := rfl

@[simp] theorem State.modWarp_cur (s : State) (c w : Nat) (f : Warp → Warp) : (s.modWarp c w f).cur = s.cur := rfl
@[simp] theorem State.modWarp_ir (s : State) (c w : Nat) (f : Warp → Warp) : (s.modWarp c w f).ir = s.ir := rfl
@[simp] theorem State.modWarp_probe (s : State) (c w : Nat) (f : Warp → Warp) : (s.modWarp c w f).probe = s.probe := rfl
@[simp] theorem State.modWarp_agenda (s : State) (c w : Nat) (f : Warp → Warp) : (s.modWarp c w f).agenda = s.agenda := rfl
@[simp] theorem State.modWarp_turn (s : State) (c w : Nat) (f : Warp → Warp) : (s.modWarp c w f).turn = s.turn := rfl
@[simp] theorem State.modWarp_cycle (s : State) (c w : Nat) (f : Warp → Warp) : (s.modWarp c w f).cycle = s.cycle := rfl
@[simp] theorem State.modWarp_quanta (s : State) (c w : Nat) (f : Warp → Warp) : (s.modWarp c w f).quanta = s.quanta := rfl
@[simp] theorem State.modWarp_draws (s : State) (c w : Nat) (f : Warp → Warp) : (s.modWarp c w f).draws = s.draws := rfl
@[simp] theorem State.modWarp_mem (s : State) (c w : Nat) (f : Warp → Warp) : (s.modWarp c w f).mem = s.mem := rfl
@[simp] theorem State.modWarp_poison (s : State) (c w : Nat) (f : Warp → Warp) : (s.modWarp c w f).poison = s.poison := rfl
@[simp] theorem State.modWarp_dies (s : State) (c w : Nat) (f : Warp → Warp) : (s.modWarp c w f).dies = s.dies := rfl
@[simp] theorem State.modWarp_lineMeta (s : State) (c w : Nat) (f : Warp → Warp) : (s.modWarp c w f).lineMeta = s.lineMeta := rfl
@[simp] theorem State.modWarp_upsets (s : State) (c w : Nat) (f : Warp → Warp) : (s.modWarp c w f).upsets = s.upsets := rfl
@[simp] theorem State.modWarp_slips (s : State) (c w : Nat) (f : Warp → Warp) : (s.modWarp c w f).slips = s.slips := rfl
@[simp] theorem State.modWarp_found (s : State) (c w : Nat) (f : Warp → Warp) : (s.modWarp c w f).found = s.found := rfl
@[simp] theorem State.modWarp_inbound (s : State) (c w : Nat) (f : Warp → Warp) : (s.modWarp c w f).inbound = s.inbound := rfl
@[simp] theorem State.modWarp_leaves (s : State) (c w : Nat) (f : Warp → Warp) : (s.modWarp c w f).leaves = s.leaves := rfl
@[simp] theorem State.modWarp_charged (s : State) (c w : Nat) (f : Warp → Warp) : (s.modWarp c w f).charged = s.charged := rfl
@[simp] theorem State.modWarp_arrivals (s : State) (c w : Nat) (f : Warp → Warp) : (s.modWarp c w f).arrivals = s.arrivals := rfl
@[simp] theorem State.modWarp_answers (s : State) (c w : Nat) (f : Warp → Warp) : (s.modWarp c w f).answers = s.answers := rfl
@[simp] theorem State.modWarp_foldq (s : State) (c w : Nat) (f : Warp → Warp) : (s.modWarp c w f).foldq = s.foldq := rfl
@[simp] theorem State.modWarp_pub (s : State) (c w : Nat) (f : Warp → Warp) : (s.modWarp c w f).pub = s.pub := rfl
@[simp] theorem State.modWarp_replay (s : State) (c w : Nat) (f : Warp → Warp) : (s.modWarp c w f).replay = s.replay := rfl
@[simp] theorem State.modWarp_shoots (s : State) (c w : Nat) (f : Warp → Warp) : (s.modWarp c w f).shoots = s.shoots := rfl
@[simp] theorem State.modWarp_arriving (s : State) (c w : Nat) (f : Warp → Warp) : (s.modWarp c w f).arriving = s.arriving := rfl
@[simp] theorem State.modWarp_vis (s : State) (c w : Nat) (f : Warp → Warp) : (s.modWarp c w f).vis = s.vis := rfl
@[simp] theorem State.modWarp_launches (s : State) (c w : Nat) (f : Warp → Warp) : (s.modWarp c w f).launches = s.launches := rfl
@[simp] theorem State.modWarp_queues (s : State) (c w : Nat) (f : Warp → Warp) : (s.modWarp c w f).queues = s.queues := rfl
@[simp] theorem State.modWarp_saved (s : State) (c w : Nat) (f : Warp → Warp) : (s.modWarp c w f).saved = s.saved := rfl
@[simp] theorem State.modWarp_nextHandle (s : State) (c w : Nat) (f : Warp → Warp) : (s.modWarp c w f).nextHandle = s.nextHandle := rfl
@[simp] theorem State.modWarp_errors (s : State) (c w : Nat) (f : Warp → Warp) : (s.modWarp c w f).errors = s.errors := rfl
@[simp] theorem State.modWarp_msis (s : State) (c w : Nat) (f : Warp → Warp) : (s.modWarp c w f).msis = s.msis := rfl
@[simp] theorem State.modWarp_islands (s : State) (c w : Nat) (f : Warp → Warp) : (s.modWarp c w f).islands = s.islands := rfl
@[simp] theorem State.modWarp_scrub (s : State) (c w : Nat) (f : Warp → Warp) : (s.modWarp c w f).scrub = s.scrub := rfl
@[simp] theorem State.modWarp_draw (s : State) (c w : Nat) (f : Warp → Warp) : (s.modWarp c w f).draw = s.draw := rfl
@[simp] theorem State.modWarp_limit (s : State) (c w : Nat) (f : Warp → Warp) : (s.modWarp c w f).limit = s.limit := rfl
@[simp] theorem State.modWarp_power (s : State) (c w : Nat) (f : Warp → Warp) : (s.modWarp c w f).power = s.power := rfl
@[simp] theorem State.modWarp_stopTick (s : State) (c w : Nat) (f : Warp → Warp) : (s.modWarp c w f).stopTick = s.stopTick := rfl
@[simp] theorem State.modWarp_gated (s : State) (c w : Nat) (f : Warp → Warp) : (s.modWarp c w f).gated = s.gated := rfl
@[simp] theorem State.modWarp_domainWord (s : State) (c w : Nat) (f : Warp → Warp) : (s.modWarp c w f).domainWord = s.domainWord := rfl
@[simp] theorem State.modWarp_ports (s : State) (c w : Nat) (f : Warp → Warp) : (s.modWarp c w f).ports = s.ports := rfl
@[simp] theorem State.modWarp_lost (s : State) (c w : Nat) (f : Warp → Warp) : (s.modWarp c w f).lost = s.lost := rfl
@[simp] theorem State.modWarp_requesters (s : State) (c w : Nat) (f : Warp → Warp) : (s.modWarp c w f).requesters = s.requesters := rfl
@[simp] theorem State.modWarp_pcie (s : State) (c w : Nat) (f : Warp → Warp) : (s.modWarp c w f).pcie = s.pcie := rfl
@[simp] theorem State.modWarp_security (s : State) (c w : Nat) (f : Warp → Warp) : (s.modWarp c w f).security = s.security := rfl

@[simp] theorem State.setGroup_cur (s : State) (c g : Nat) (x : Group) : (s.setGroup c g x).cur = s.cur := rfl
@[simp] theorem State.setGroup_ir (s : State) (c g : Nat) (x : Group) : (s.setGroup c g x).ir = s.ir := rfl
@[simp] theorem State.setGroup_probe (s : State) (c g : Nat) (x : Group) : (s.setGroup c g x).probe = s.probe := rfl
@[simp] theorem State.setGroup_agenda (s : State) (c g : Nat) (x : Group) : (s.setGroup c g x).agenda = s.agenda := rfl
@[simp] theorem State.setGroup_turn (s : State) (c g : Nat) (x : Group) : (s.setGroup c g x).turn = s.turn := rfl
@[simp] theorem State.setGroup_cycle (s : State) (c g : Nat) (x : Group) : (s.setGroup c g x).cycle = s.cycle := rfl
@[simp] theorem State.setGroup_quanta (s : State) (c g : Nat) (x : Group) : (s.setGroup c g x).quanta = s.quanta := rfl
@[simp] theorem State.setGroup_draws (s : State) (c g : Nat) (x : Group) : (s.setGroup c g x).draws = s.draws := rfl
@[simp] theorem State.setGroup_mem (s : State) (c g : Nat) (x : Group) : (s.setGroup c g x).mem = s.mem := rfl
@[simp] theorem State.setGroup_poison (s : State) (c g : Nat) (x : Group) : (s.setGroup c g x).poison = s.poison := rfl
@[simp] theorem State.setGroup_dies (s : State) (c g : Nat) (x : Group) : (s.setGroup c g x).dies = s.dies := rfl
@[simp] theorem State.setGroup_lineMeta (s : State) (c g : Nat) (x : Group) : (s.setGroup c g x).lineMeta = s.lineMeta := rfl
@[simp] theorem State.setGroup_upsets (s : State) (c g : Nat) (x : Group) : (s.setGroup c g x).upsets = s.upsets := rfl
@[simp] theorem State.setGroup_slips (s : State) (c g : Nat) (x : Group) : (s.setGroup c g x).slips = s.slips := rfl
@[simp] theorem State.setGroup_found (s : State) (c g : Nat) (x : Group) : (s.setGroup c g x).found = s.found := rfl
@[simp] theorem State.setGroup_inbound (s : State) (c g : Nat) (x : Group) : (s.setGroup c g x).inbound = s.inbound := rfl
@[simp] theorem State.setGroup_leaves (s : State) (c g : Nat) (x : Group) : (s.setGroup c g x).leaves = s.leaves := rfl
@[simp] theorem State.setGroup_charged (s : State) (c g : Nat) (x : Group) : (s.setGroup c g x).charged = s.charged := rfl
@[simp] theorem State.setGroup_arrivals (s : State) (c g : Nat) (x : Group) : (s.setGroup c g x).arrivals = s.arrivals := rfl
@[simp] theorem State.setGroup_answers (s : State) (c g : Nat) (x : Group) : (s.setGroup c g x).answers = s.answers := rfl
@[simp] theorem State.setGroup_foldq (s : State) (c g : Nat) (x : Group) : (s.setGroup c g x).foldq = s.foldq := rfl
@[simp] theorem State.setGroup_pub (s : State) (c g : Nat) (x : Group) : (s.setGroup c g x).pub = s.pub := rfl
@[simp] theorem State.setGroup_replay (s : State) (c g : Nat) (x : Group) : (s.setGroup c g x).replay = s.replay := rfl
@[simp] theorem State.setGroup_shoots (s : State) (c g : Nat) (x : Group) : (s.setGroup c g x).shoots = s.shoots := rfl
@[simp] theorem State.setGroup_arriving (s : State) (c g : Nat) (x : Group) : (s.setGroup c g x).arriving = s.arriving := rfl
@[simp] theorem State.setGroup_vis (s : State) (c g : Nat) (x : Group) : (s.setGroup c g x).vis = s.vis := rfl
@[simp] theorem State.setGroup_launches (s : State) (c g : Nat) (x : Group) : (s.setGroup c g x).launches = s.launches := rfl
@[simp] theorem State.setGroup_queues (s : State) (c g : Nat) (x : Group) : (s.setGroup c g x).queues = s.queues := rfl
@[simp] theorem State.setGroup_saved (s : State) (c g : Nat) (x : Group) : (s.setGroup c g x).saved = s.saved := rfl
@[simp] theorem State.setGroup_nextHandle (s : State) (c g : Nat) (x : Group) : (s.setGroup c g x).nextHandle = s.nextHandle := rfl
@[simp] theorem State.setGroup_errors (s : State) (c g : Nat) (x : Group) : (s.setGroup c g x).errors = s.errors := rfl
@[simp] theorem State.setGroup_msis (s : State) (c g : Nat) (x : Group) : (s.setGroup c g x).msis = s.msis := rfl
@[simp] theorem State.setGroup_islands (s : State) (c g : Nat) (x : Group) : (s.setGroup c g x).islands = s.islands := rfl
@[simp] theorem State.setGroup_scrub (s : State) (c g : Nat) (x : Group) : (s.setGroup c g x).scrub = s.scrub := rfl
@[simp] theorem State.setGroup_draw (s : State) (c g : Nat) (x : Group) : (s.setGroup c g x).draw = s.draw := rfl
@[simp] theorem State.setGroup_limit (s : State) (c g : Nat) (x : Group) : (s.setGroup c g x).limit = s.limit := rfl
@[simp] theorem State.setGroup_power (s : State) (c g : Nat) (x : Group) : (s.setGroup c g x).power = s.power := rfl
@[simp] theorem State.setGroup_stopTick (s : State) (c g : Nat) (x : Group) : (s.setGroup c g x).stopTick = s.stopTick := rfl
@[simp] theorem State.setGroup_gated (s : State) (c g : Nat) (x : Group) : (s.setGroup c g x).gated = s.gated := rfl
@[simp] theorem State.setGroup_domainWord (s : State) (c g : Nat) (x : Group) : (s.setGroup c g x).domainWord = s.domainWord := rfl
@[simp] theorem State.setGroup_ports (s : State) (c g : Nat) (x : Group) : (s.setGroup c g x).ports = s.ports := rfl
@[simp] theorem State.setGroup_lost (s : State) (c g : Nat) (x : Group) : (s.setGroup c g x).lost = s.lost := rfl
@[simp] theorem State.setGroup_requesters (s : State) (c g : Nat) (x : Group) : (s.setGroup c g x).requesters = s.requesters := rfl
@[simp] theorem State.setGroup_pcie (s : State) (c g : Nat) (x : Group) : (s.setGroup c g x).pcie = s.pcie := rfl
@[simp] theorem State.setGroup_security (s : State) (c g : Nat) (x : Group) : (s.setGroup c g x).security = s.security := rfl

@[simp] theorem State.modGroup_cur (s : State) (c g : Nat) (f : Group → Group) : (s.modGroup c g f).cur = s.cur := rfl
@[simp] theorem State.modGroup_ir (s : State) (c g : Nat) (f : Group → Group) : (s.modGroup c g f).ir = s.ir := rfl
@[simp] theorem State.modGroup_probe (s : State) (c g : Nat) (f : Group → Group) : (s.modGroup c g f).probe = s.probe := rfl
@[simp] theorem State.modGroup_agenda (s : State) (c g : Nat) (f : Group → Group) : (s.modGroup c g f).agenda = s.agenda := rfl
@[simp] theorem State.modGroup_turn (s : State) (c g : Nat) (f : Group → Group) : (s.modGroup c g f).turn = s.turn := rfl
@[simp] theorem State.modGroup_cycle (s : State) (c g : Nat) (f : Group → Group) : (s.modGroup c g f).cycle = s.cycle := rfl
@[simp] theorem State.modGroup_quanta (s : State) (c g : Nat) (f : Group → Group) : (s.modGroup c g f).quanta = s.quanta := rfl
@[simp] theorem State.modGroup_draws (s : State) (c g : Nat) (f : Group → Group) : (s.modGroup c g f).draws = s.draws := rfl
@[simp] theorem State.modGroup_mem (s : State) (c g : Nat) (f : Group → Group) : (s.modGroup c g f).mem = s.mem := rfl
@[simp] theorem State.modGroup_poison (s : State) (c g : Nat) (f : Group → Group) : (s.modGroup c g f).poison = s.poison := rfl
@[simp] theorem State.modGroup_dies (s : State) (c g : Nat) (f : Group → Group) : (s.modGroup c g f).dies = s.dies := rfl
@[simp] theorem State.modGroup_lineMeta (s : State) (c g : Nat) (f : Group → Group) : (s.modGroup c g f).lineMeta = s.lineMeta := rfl
@[simp] theorem State.modGroup_upsets (s : State) (c g : Nat) (f : Group → Group) : (s.modGroup c g f).upsets = s.upsets := rfl
@[simp] theorem State.modGroup_slips (s : State) (c g : Nat) (f : Group → Group) : (s.modGroup c g f).slips = s.slips := rfl
@[simp] theorem State.modGroup_found (s : State) (c g : Nat) (f : Group → Group) : (s.modGroup c g f).found = s.found := rfl
@[simp] theorem State.modGroup_inbound (s : State) (c g : Nat) (f : Group → Group) : (s.modGroup c g f).inbound = s.inbound := rfl
@[simp] theorem State.modGroup_leaves (s : State) (c g : Nat) (f : Group → Group) : (s.modGroup c g f).leaves = s.leaves := rfl
@[simp] theorem State.modGroup_charged (s : State) (c g : Nat) (f : Group → Group) : (s.modGroup c g f).charged = s.charged := rfl
@[simp] theorem State.modGroup_arrivals (s : State) (c g : Nat) (f : Group → Group) : (s.modGroup c g f).arrivals = s.arrivals := rfl
@[simp] theorem State.modGroup_answers (s : State) (c g : Nat) (f : Group → Group) : (s.modGroup c g f).answers = s.answers := rfl
@[simp] theorem State.modGroup_foldq (s : State) (c g : Nat) (f : Group → Group) : (s.modGroup c g f).foldq = s.foldq := rfl
@[simp] theorem State.modGroup_pub (s : State) (c g : Nat) (f : Group → Group) : (s.modGroup c g f).pub = s.pub := rfl
@[simp] theorem State.modGroup_replay (s : State) (c g : Nat) (f : Group → Group) : (s.modGroup c g f).replay = s.replay := rfl
@[simp] theorem State.modGroup_shoots (s : State) (c g : Nat) (f : Group → Group) : (s.modGroup c g f).shoots = s.shoots := rfl
@[simp] theorem State.modGroup_arriving (s : State) (c g : Nat) (f : Group → Group) : (s.modGroup c g f).arriving = s.arriving := rfl
@[simp] theorem State.modGroup_vis (s : State) (c g : Nat) (f : Group → Group) : (s.modGroup c g f).vis = s.vis := rfl
@[simp] theorem State.modGroup_launches (s : State) (c g : Nat) (f : Group → Group) : (s.modGroup c g f).launches = s.launches := rfl
@[simp] theorem State.modGroup_queues (s : State) (c g : Nat) (f : Group → Group) : (s.modGroup c g f).queues = s.queues := rfl
@[simp] theorem State.modGroup_saved (s : State) (c g : Nat) (f : Group → Group) : (s.modGroup c g f).saved = s.saved := rfl
@[simp] theorem State.modGroup_nextHandle (s : State) (c g : Nat) (f : Group → Group) : (s.modGroup c g f).nextHandle = s.nextHandle := rfl
@[simp] theorem State.modGroup_errors (s : State) (c g : Nat) (f : Group → Group) : (s.modGroup c g f).errors = s.errors := rfl
@[simp] theorem State.modGroup_msis (s : State) (c g : Nat) (f : Group → Group) : (s.modGroup c g f).msis = s.msis := rfl
@[simp] theorem State.modGroup_islands (s : State) (c g : Nat) (f : Group → Group) : (s.modGroup c g f).islands = s.islands := rfl
@[simp] theorem State.modGroup_scrub (s : State) (c g : Nat) (f : Group → Group) : (s.modGroup c g f).scrub = s.scrub := rfl
@[simp] theorem State.modGroup_draw (s : State) (c g : Nat) (f : Group → Group) : (s.modGroup c g f).draw = s.draw := rfl
@[simp] theorem State.modGroup_limit (s : State) (c g : Nat) (f : Group → Group) : (s.modGroup c g f).limit = s.limit := rfl
@[simp] theorem State.modGroup_power (s : State) (c g : Nat) (f : Group → Group) : (s.modGroup c g f).power = s.power := rfl
@[simp] theorem State.modGroup_stopTick (s : State) (c g : Nat) (f : Group → Group) : (s.modGroup c g f).stopTick = s.stopTick := rfl
@[simp] theorem State.modGroup_gated (s : State) (c g : Nat) (f : Group → Group) : (s.modGroup c g f).gated = s.gated := rfl
@[simp] theorem State.modGroup_domainWord (s : State) (c g : Nat) (f : Group → Group) : (s.modGroup c g f).domainWord = s.domainWord := rfl
@[simp] theorem State.modGroup_ports (s : State) (c g : Nat) (f : Group → Group) : (s.modGroup c g f).ports = s.ports := rfl
@[simp] theorem State.modGroup_lost (s : State) (c g : Nat) (f : Group → Group) : (s.modGroup c g f).lost = s.lost := rfl
@[simp] theorem State.modGroup_requesters (s : State) (c g : Nat) (f : Group → Group) : (s.modGroup c g f).requesters = s.requesters := rfl
@[simp] theorem State.modGroup_pcie (s : State) (c g : Nat) (f : Group → Group) : (s.modGroup c g f).pcie = s.pcie := rfl
@[simp] theorem State.modGroup_security (s : State) (c g : Nat) (f : Group → Group) : (s.modGroup c g f).security = s.security := rfl

@[simp] theorem State.modVi_cores (s : State) (v : Nat) (f : VI → VI) : (s.modVi v f).cores = s.cores := rfl
@[simp] theorem State.modVi_cur (s : State) (v : Nat) (f : VI → VI) : (s.modVi v f).cur = s.cur := rfl
@[simp] theorem State.modVi_ir (s : State) (v : Nat) (f : VI → VI) : (s.modVi v f).ir = s.ir := rfl
@[simp] theorem State.modVi_probe (s : State) (v : Nat) (f : VI → VI) : (s.modVi v f).probe = s.probe := rfl
@[simp] theorem State.modVi_agenda (s : State) (v : Nat) (f : VI → VI) : (s.modVi v f).agenda = s.agenda := rfl
@[simp] theorem State.modVi_turn (s : State) (v : Nat) (f : VI → VI) : (s.modVi v f).turn = s.turn := rfl
@[simp] theorem State.modVi_cycle (s : State) (v : Nat) (f : VI → VI) : (s.modVi v f).cycle = s.cycle := rfl
@[simp] theorem State.modVi_quanta (s : State) (v : Nat) (f : VI → VI) : (s.modVi v f).quanta = s.quanta := rfl
@[simp] theorem State.modVi_draws (s : State) (v : Nat) (f : VI → VI) : (s.modVi v f).draws = s.draws := rfl
@[simp] theorem State.modVi_mem (s : State) (v : Nat) (f : VI → VI) : (s.modVi v f).mem = s.mem := rfl
@[simp] theorem State.modVi_poison (s : State) (v : Nat) (f : VI → VI) : (s.modVi v f).poison = s.poison := rfl
@[simp] theorem State.modVi_dies (s : State) (v : Nat) (f : VI → VI) : (s.modVi v f).dies = s.dies := rfl
@[simp] theorem State.modVi_lineMeta (s : State) (v : Nat) (f : VI → VI) : (s.modVi v f).lineMeta = s.lineMeta := rfl
@[simp] theorem State.modVi_upsets (s : State) (v : Nat) (f : VI → VI) : (s.modVi v f).upsets = s.upsets := rfl
@[simp] theorem State.modVi_slips (s : State) (v : Nat) (f : VI → VI) : (s.modVi v f).slips = s.slips := rfl
@[simp] theorem State.modVi_found (s : State) (v : Nat) (f : VI → VI) : (s.modVi v f).found = s.found := rfl
@[simp] theorem State.modVi_inbound (s : State) (v : Nat) (f : VI → VI) : (s.modVi v f).inbound = s.inbound := rfl
@[simp] theorem State.modVi_leaves (s : State) (v : Nat) (f : VI → VI) : (s.modVi v f).leaves = s.leaves := rfl
@[simp] theorem State.modVi_charged (s : State) (v : Nat) (f : VI → VI) : (s.modVi v f).charged = s.charged := rfl
@[simp] theorem State.modVi_arrivals (s : State) (v : Nat) (f : VI → VI) : (s.modVi v f).arrivals = s.arrivals := rfl
@[simp] theorem State.modVi_answers (s : State) (v : Nat) (f : VI → VI) : (s.modVi v f).answers = s.answers := rfl
@[simp] theorem State.modVi_foldq (s : State) (v : Nat) (f : VI → VI) : (s.modVi v f).foldq = s.foldq := rfl
@[simp] theorem State.modVi_pub (s : State) (v : Nat) (f : VI → VI) : (s.modVi v f).pub = s.pub := rfl
@[simp] theorem State.modVi_replay (s : State) (v : Nat) (f : VI → VI) : (s.modVi v f).replay = s.replay := rfl
@[simp] theorem State.modVi_shoots (s : State) (v : Nat) (f : VI → VI) : (s.modVi v f).shoots = s.shoots := rfl
@[simp] theorem State.modVi_arriving (s : State) (v : Nat) (f : VI → VI) : (s.modVi v f).arriving = s.arriving := rfl
@[simp] theorem State.modVi_launches (s : State) (v : Nat) (f : VI → VI) : (s.modVi v f).launches = s.launches := rfl
@[simp] theorem State.modVi_queues (s : State) (v : Nat) (f : VI → VI) : (s.modVi v f).queues = s.queues := rfl
@[simp] theorem State.modVi_saved (s : State) (v : Nat) (f : VI → VI) : (s.modVi v f).saved = s.saved := rfl
@[simp] theorem State.modVi_nextHandle (s : State) (v : Nat) (f : VI → VI) : (s.modVi v f).nextHandle = s.nextHandle := rfl
@[simp] theorem State.modVi_errors (s : State) (v : Nat) (f : VI → VI) : (s.modVi v f).errors = s.errors := rfl
@[simp] theorem State.modVi_msis (s : State) (v : Nat) (f : VI → VI) : (s.modVi v f).msis = s.msis := rfl
@[simp] theorem State.modVi_islands (s : State) (v : Nat) (f : VI → VI) : (s.modVi v f).islands = s.islands := rfl
@[simp] theorem State.modVi_scrub (s : State) (v : Nat) (f : VI → VI) : (s.modVi v f).scrub = s.scrub := rfl
@[simp] theorem State.modVi_draw (s : State) (v : Nat) (f : VI → VI) : (s.modVi v f).draw = s.draw := rfl
@[simp] theorem State.modVi_limit (s : State) (v : Nat) (f : VI → VI) : (s.modVi v f).limit = s.limit := rfl
@[simp] theorem State.modVi_power (s : State) (v : Nat) (f : VI → VI) : (s.modVi v f).power = s.power := rfl
@[simp] theorem State.modVi_stopTick (s : State) (v : Nat) (f : VI → VI) : (s.modVi v f).stopTick = s.stopTick := rfl
@[simp] theorem State.modVi_gated (s : State) (v : Nat) (f : VI → VI) : (s.modVi v f).gated = s.gated := rfl
@[simp] theorem State.modVi_domainWord (s : State) (v : Nat) (f : VI → VI) : (s.modVi v f).domainWord = s.domainWord := rfl
@[simp] theorem State.modVi_ports (s : State) (v : Nat) (f : VI → VI) : (s.modVi v f).ports = s.ports := rfl
@[simp] theorem State.modVi_lost (s : State) (v : Nat) (f : VI → VI) : (s.modVi v f).lost = s.lost := rfl
@[simp] theorem State.modVi_requesters (s : State) (v : Nat) (f : VI → VI) : (s.modVi v f).requesters = s.requesters := rfl
@[simp] theorem State.modVi_pcie (s : State) (v : Nat) (f : VI → VI) : (s.modVi v f).pcie = s.pcie := rfl
@[simp] theorem State.modVi_security (s : State) (v : Nat) (f : VI → VI) : (s.modVi v f).security = s.security := rfl

/-! Reading after an update -/

@[simp] theorem State.core_setCore (s : State) (c : Nat) (k : Core) : (s.setCore c k).core c = k := by
  simp [State.core, State.setCore]

theorem State.core_setCore_other (s : State) {c d : Nat} (k : Core) (h : d ≠ c) : (s.setCore c k).core d = s.core d := by
  simp [State.core, State.setCore, Tab.get_put_other _ _ k h]

@[simp] theorem State.core_modCore (s : State) (c : Nat) (f : Core → Core) : (s.modCore c f).core c = f (s.core c) := by
  simp [State.modCore]

theorem State.core_modCore_other (s : State) {c d : Nat} (f : Core → Core) (h : d ≠ c) :
    (s.modCore c f).core d = s.core d := State.core_setCore_other s _ h

@[simp] theorem State.core_setWarp (s : State) (c w : Nat) (x : Warp) :
    (s.setWarp c w x).core c = { s.core c with warps := Tab.put (s.core c).warps w x } := by
  simp [State.setWarp]

theorem State.core_setWarp_other (s : State) {c d : Nat} (w : Nat) (x : Warp) (h : d ≠ c) :
    (s.setWarp c w x).core d = s.core d := State.core_modCore_other s _ h

@[simp] theorem State.warp_setWarp (s : State) (c w : Nat) (x : Warp) : (s.setWarp c w x).warp c w = x := by
  simp [State.warp]

theorem State.warp_setWarp_other (s : State) {c w d v : Nat} (x : Warp) (h : ¬ (d = c ∧ v = w)) :
    (s.setWarp c w x).warp d v = s.warp d v := by
  by_cases hd : d = c
  · subst hd
    have hv : v ≠ w := fun e => h ⟨rfl, e⟩
    simp [State.warp, Tab.get_put_other _ _ x hv]
  · simp [State.warp, State.core_setWarp_other s w x hd]

@[simp] theorem State.warp_modWarp (s : State) (c w : Nat) (f : Warp → Warp) :
    (s.modWarp c w f).warp c w = f (s.warp c w) := by simp [State.modWarp]

theorem State.warp_modWarp_other (s : State) {c w d v : Nat} (f : Warp → Warp) (h : ¬ (d = c ∧ v = w)) :
    (s.modWarp c w f).warp d v = s.warp d v := State.warp_setWarp_other s _ h

@[simp] theorem State.group_setWarp (s : State) (c w : Nat) (x : Warp) (d g : Nat) :
    (s.setWarp c w x).group d g = s.group d g := by
  by_cases hd : d = c
  · subst hd; simp [State.group]
  · simp [State.group, State.core_setWarp_other s w x hd]

@[simp] theorem State.group_modWarp (s : State) (c w : Nat) (f : Warp → Warp) (d g : Nat) :
    (s.modWarp c w f).group d g = s.group d g := State.group_setWarp ..

@[simp] theorem State.core_setGroup (s : State) (c g : Nat) (x : Group) :
    (s.setGroup c g x).core c = { s.core c with groups := Tab.put (s.core c).groups g x } := by
  simp [State.setGroup]

theorem State.core_setGroup_other (s : State) {c d : Nat} (g : Nat) (x : Group) (h : d ≠ c) :
    (s.setGroup c g x).core d = s.core d := State.core_modCore_other s _ h

@[simp] theorem State.group_setGroup (s : State) (c g : Nat) (x : Group) : (s.setGroup c g x).group c g = x := by
  simp [State.group]

theorem State.group_setGroup_other (s : State) {c g d f : Nat} (x : Group) (h : ¬ (d = c ∧ f = g)) :
    (s.setGroup c g x).group d f = s.group d f := by
  by_cases hd : d = c
  · subst hd
    have hv : f ≠ g := fun e => h ⟨rfl, e⟩
    simp [State.group, Tab.get_put_other _ _ x hv]
  · simp [State.group, State.core_setGroup_other s g x hd]

@[simp] theorem State.group_modGroup (s : State) (c g : Nat) (f : Group → Group) :
    (s.modGroup c g f).group c g = f (s.group c g) := by simp [State.modGroup]

@[simp] theorem State.warp_setGroup (s : State) (c g : Nat) (x : Group) (d w : Nat) :
    (s.setGroup c g x).warp d w = s.warp d w := by
  by_cases hd : d = c
  · subst hd; simp [State.warp]
  · simp [State.warp, State.core_setGroup_other s g x hd]

@[simp] theorem State.warp_modGroup (s : State) (c g : Nat) (f : Group → Group) (d w : Nat) :
    (s.modGroup c g f).warp d w = s.warp d w := State.warp_setGroup ..

/-- A change of a core that leaves its warps leaves every warp. -/
theorem State.warp_modCore_same (s : State) (c : Nat) (f : Core → Core) (h : (f (s.core c)).warps = (s.core c).warps)
    (d w : Nat) : (s.modCore c f).warp d w = s.warp d w := by
  by_cases hd : d = c
  · subst hd; simp [State.warp, h]
  · simp [State.warp, State.core_modCore_other s f hd]

/-- A change of a core that leaves its workgroups leaves every workgroup. -/
theorem State.group_modCore_same (s : State) (c : Nat) (f : Core → Core) (h : (f (s.core c)).groups = (s.core c).groups)
    (d g : Nat) : (s.modCore c f).group d g = s.group d g := by
  by_cases hd : d = c
  · subst hd; simp [State.group, h]
  · simp [State.group, State.core_modCore_other s f hd]

/-! Counters -/

@[simp] theorem State.warp_count (s : State) (c key n d w : Nat) : (s.count c key n).warp d w = s.warp d w := by
  unfold State.count
  split
  · rfl
  · exact State.warp_modCore_same s c _ rfl d w

@[simp] theorem State.group_count (s : State) (c key n d g : Nat) : (s.count c key n).group d g = s.group d g := by
  unfold State.count
  split
  · rfl
  · exact State.group_modCore_same s c _ rfl d g

@[simp] theorem State.count_cur (s : State) (c key n : Nat) : (s.count c key n).cur = s.cur := by unfold State.count; split <;> rfl
@[simp] theorem State.count_ir (s : State) (c key n : Nat) : (s.count c key n).ir = s.ir := by unfold State.count; split <;> rfl
@[simp] theorem State.count_probe (s : State) (c key n : Nat) : (s.count c key n).probe = s.probe := by unfold State.count; split <;> rfl
@[simp] theorem State.count_agenda (s : State) (c key n : Nat) : (s.count c key n).agenda = s.agenda := by unfold State.count; split <;> rfl
@[simp] theorem State.count_turn (s : State) (c key n : Nat) : (s.count c key n).turn = s.turn := by unfold State.count; split <;> rfl
@[simp] theorem State.count_cycle (s : State) (c key n : Nat) : (s.count c key n).cycle = s.cycle := by unfold State.count; split <;> rfl
@[simp] theorem State.count_quanta (s : State) (c key n : Nat) : (s.count c key n).quanta = s.quanta := by unfold State.count; split <;> rfl
@[simp] theorem State.count_draws (s : State) (c key n : Nat) : (s.count c key n).draws = s.draws := by unfold State.count; split <;> rfl
@[simp] theorem State.count_mem (s : State) (c key n : Nat) : (s.count c key n).mem = s.mem := by unfold State.count; split <;> rfl
@[simp] theorem State.count_poison (s : State) (c key n : Nat) : (s.count c key n).poison = s.poison := by unfold State.count; split <;> rfl
@[simp] theorem State.count_dies (s : State) (c key n : Nat) : (s.count c key n).dies = s.dies := by unfold State.count; split <;> rfl
@[simp] theorem State.count_lineMeta (s : State) (c key n : Nat) : (s.count c key n).lineMeta = s.lineMeta := by unfold State.count; split <;> rfl
@[simp] theorem State.count_upsets (s : State) (c key n : Nat) : (s.count c key n).upsets = s.upsets := by unfold State.count; split <;> rfl
@[simp] theorem State.count_slips (s : State) (c key n : Nat) : (s.count c key n).slips = s.slips := by unfold State.count; split <;> rfl
@[simp] theorem State.count_found (s : State) (c key n : Nat) : (s.count c key n).found = s.found := by unfold State.count; split <;> rfl
@[simp] theorem State.count_inbound (s : State) (c key n : Nat) : (s.count c key n).inbound = s.inbound := by unfold State.count; split <;> rfl
@[simp] theorem State.count_leaves (s : State) (c key n : Nat) : (s.count c key n).leaves = s.leaves := by unfold State.count; split <;> rfl
@[simp] theorem State.count_charged (s : State) (c key n : Nat) : (s.count c key n).charged = s.charged := by unfold State.count; split <;> rfl
@[simp] theorem State.count_arrivals (s : State) (c key n : Nat) : (s.count c key n).arrivals = s.arrivals := by unfold State.count; split <;> rfl
@[simp] theorem State.count_answers (s : State) (c key n : Nat) : (s.count c key n).answers = s.answers := by unfold State.count; split <;> rfl
@[simp] theorem State.count_foldq (s : State) (c key n : Nat) : (s.count c key n).foldq = s.foldq := by unfold State.count; split <;> rfl
@[simp] theorem State.count_pub (s : State) (c key n : Nat) : (s.count c key n).pub = s.pub := by unfold State.count; split <;> rfl
@[simp] theorem State.count_replay (s : State) (c key n : Nat) : (s.count c key n).replay = s.replay := by unfold State.count; split <;> rfl
@[simp] theorem State.count_shoots (s : State) (c key n : Nat) : (s.count c key n).shoots = s.shoots := by unfold State.count; split <;> rfl
@[simp] theorem State.count_arriving (s : State) (c key n : Nat) : (s.count c key n).arriving = s.arriving := by unfold State.count; split <;> rfl
@[simp] theorem State.count_vis (s : State) (c key n : Nat) : (s.count c key n).vis = s.vis := by unfold State.count; split <;> rfl
@[simp] theorem State.count_launches (s : State) (c key n : Nat) : (s.count c key n).launches = s.launches := by unfold State.count; split <;> rfl
@[simp] theorem State.count_queues (s : State) (c key n : Nat) : (s.count c key n).queues = s.queues := by unfold State.count; split <;> rfl
@[simp] theorem State.count_saved (s : State) (c key n : Nat) : (s.count c key n).saved = s.saved := by unfold State.count; split <;> rfl
@[simp] theorem State.count_nextHandle (s : State) (c key n : Nat) : (s.count c key n).nextHandle = s.nextHandle := by unfold State.count; split <;> rfl
@[simp] theorem State.count_errors (s : State) (c key n : Nat) : (s.count c key n).errors = s.errors := by unfold State.count; split <;> rfl
@[simp] theorem State.count_msis (s : State) (c key n : Nat) : (s.count c key n).msis = s.msis := by unfold State.count; split <;> rfl
@[simp] theorem State.count_islands (s : State) (c key n : Nat) : (s.count c key n).islands = s.islands := by unfold State.count; split <;> rfl
@[simp] theorem State.count_scrub (s : State) (c key n : Nat) : (s.count c key n).scrub = s.scrub := by unfold State.count; split <;> rfl
@[simp] theorem State.count_draw (s : State) (c key n : Nat) : (s.count c key n).draw = s.draw := by unfold State.count; split <;> rfl
@[simp] theorem State.count_limit (s : State) (c key n : Nat) : (s.count c key n).limit = s.limit := by unfold State.count; split <;> rfl
@[simp] theorem State.count_power (s : State) (c key n : Nat) : (s.count c key n).power = s.power := by unfold State.count; split <;> rfl
@[simp] theorem State.count_stopTick (s : State) (c key n : Nat) : (s.count c key n).stopTick = s.stopTick := by unfold State.count; split <;> rfl
@[simp] theorem State.count_gated (s : State) (c key n : Nat) : (s.count c key n).gated = s.gated := by unfold State.count; split <;> rfl
@[simp] theorem State.count_domainWord (s : State) (c key n : Nat) : (s.count c key n).domainWord = s.domainWord := by unfold State.count; split <;> rfl
@[simp] theorem State.count_ports (s : State) (c key n : Nat) : (s.count c key n).ports = s.ports := by unfold State.count; split <;> rfl
@[simp] theorem State.count_lost (s : State) (c key n : Nat) : (s.count c key n).lost = s.lost := by unfold State.count; split <;> rfl
@[simp] theorem State.count_requesters (s : State) (c key n : Nat) : (s.count c key n).requesters = s.requesters := by unfold State.count; split <;> rfl
@[simp] theorem State.count_pcie (s : State) (c key n : Nat) : (s.count c key n).pcie = s.pcie := by unfold State.count; split <;> rfl
@[simp] theorem State.count_security (s : State) (c key n : Nat) : (s.count c key n).security = s.security := by unfold State.count; split <;> rfl

/-! Slices of a warp -/

@[simp] theorem Warp.slice_setSlice (w : Warp) (j : Nat) (sl : Slice) : (w.setSlice j sl).slice j = sl := by
  simp [Warp.slice, Warp.setSlice]

theorem Warp.slice_setSlice_other (w : Warp) {j i : Nat} (sl : Slice) (h : i ≠ j) :
    (w.setSlice j sl).slice i = w.slice i := by
  simp [Warp.slice, Warp.setSlice, Tab.get_put_other _ _ sl h]

theorem Warp.slice_setSlice_ite (w : Warp) (j i : Nat) (sl : Slice) :
    (w.setSlice j sl).slice i = if i = j then sl else w.slice i := by
  split
  · next h => subst h; simp
  · next h => exact Warp.slice_setSlice_other w sl h

@[simp] theorem Warp.setSlice_group (w : Warp) (j : Nat) (sl : Slice) : (w.setSlice j sl).group = w.group := rfl
@[simp] theorem Warp.setSlice_idx (w : Warp) (j : Nat) (sl : Slice) : (w.setSlice j sl).idx = w.idx := rfl
@[simp] theorem Warp.setSlice_rowB (w : Warp) (j : Nat) (sl : Slice) : (w.setSlice j sl).rowB = w.rowB := rfl
@[simp] theorem Warp.setSlice_pipe (w : Warp) (j : Nat) (sl : Slice) : (w.setSlice j sl).pipe = w.pipe := rfl
@[simp] theorem Warp.setSlice_age (w : Warp) (j : Nat) (sl : Slice) : (w.setSlice j sl).age = w.age := rfl
@[simp] theorem Warp.setSlice_active (w : Warp) (j : Nat) (sl : Slice) : (w.setSlice j sl).active = w.active := rfl
@[simp] theorem Warp.setSlice_swap (w : Warp) (j : Nat) (sl : Slice) : (w.setSlice j sl).swap = w.swap := rfl
@[simp] theorem Warp.setSlice_readySince (w : Warp) (j : Nat) (sl : Slice) : (w.setSlice j sl).readySince = w.readySince := rfl
@[simp] theorem Warp.setSlice_hint (w : Warp) (j : Nat) (sl : Slice) : (w.setSlice j sl).hint = w.hint := rfl
@[simp] theorem Warp.setSlice_last (w : Warp) (j : Nat) (sl : Slice) : (w.setSlice j sl).last = w.last := rfl
@[simp] theorem Warp.setSlice_tok (w : Warp) (j : Nat) (sl : Slice) : (w.setSlice j sl).tok = w.tok := rfl
@[simp] theorem Warp.setSlice_bs (w : Warp) (j : Nat) (sl : Slice) : (w.setSlice j sl).bs = w.bs := rfl
@[simp] theorem Warp.setSlice_mteam (w : Warp) (j : Nat) (sl : Slice) : (w.setSlice j sl).mteam = w.mteam := rfl
@[simp] theorem Warp.setSlice_asid (w : Warp) (j : Nat) (sl : Slice) : (w.setSlice j sl).asid = w.asid := rfl
@[simp] theorem Warp.setSlice_domain (w : Warp) (j : Nat) (sl : Slice) : (w.setSlice j sl).domain = w.domain := rfl
@[simp] theorem Warp.setSlice_preq (w : Warp) (j : Nat) (sl : Slice) : (w.setSlice j sl).preq = w.preq := rfl
@[simp] theorem Warp.setSlice_handler (w : Warp) (j : Nat) (sl : Slice) : (w.setSlice j sl).handler = w.handler := rfl
@[simp] theorem Warp.setSlice_start (w : Warp) (j : Nat) (sl : Slice) : (w.setSlice j sl).start = w.start := rfl
@[simp] theorem Warp.setSlice_pend (w : Warp) (j : Nat) (sl : Slice) : (w.setSlice j sl).pend = w.pend := rfl
@[simp] theorem Warp.setSlice_nextId (w : Warp) (j : Nat) (sl : Slice) : (w.setSlice j sl).nextId = w.nextId := rfl
@[simp] theorem Warp.setSlice_report (w : Warp) (j : Nat) (sl : Slice) : (w.setSlice j sl).report = w.report := rfl
@[simp] theorem Warp.setSlice_walk (w : Warp) (j : Nat) (sl : Slice) : (w.setSlice j sl).walk = w.walk := rfl
@[simp] theorem Warp.setSlice_stepping (w : Warp) (j : Nat) (sl : Slice) : (w.setSlice j sl).stepping = w.stepping := rfl
@[simp] theorem Warp.setSlice_started (w : Warp) (j : Nat) (sl : Slice) : (w.setSlice j sl).started = w.started := rfl
@[simp] theorem Warp.setSlice_waited (w : Warp) (j : Nat) (sl : Slice) : (w.setSlice j sl).waited = w.waited := rfl
@[simp] theorem Warp.setSlice_heldHalt (w : Warp) (j : Nat) (sl : Slice) : (w.setSlice j sl).heldHalt = w.heldHalt := rfl
@[simp] theorem Warp.setSlice_seed (w : Warp) (j : Nat) (sl : Slice) : (w.setSlice j sl).seed = w.seed := rfl

/-- The slices of a gang, each once. -/
theorem gangSlices_nodup (g : Mask8) : (gangSlices g).Nodup := List.Nodup.filter _ List.nodup_range

theorem mem_gangSlices (g : Mask8) (j : Nat) : j ∈ gangSlices g ↔ j < 8 ∧ g.getLsbD j = true := by
  simp [gangSlices, setBits]

/-- What a change of a list of slices, each once, leaves in every slice. -/
theorem Warp.slice_foldl (l : List Nat) (hl : l.Nodup) (f : Nat → Slice → Slice) (w : Warp) (i : Nat) :
    (l.foldl (fun w j => w.setSlice j (f j (w.slice j))) w).slice i = if i ∈ l then f i (w.slice i) else w.slice i := by
  induction l generalizing w with
  | nil => simp
  | cons j r ih =>
    obtain ⟨hj, hr⟩ := List.nodup_cons.mp hl
    rw [List.foldl_cons, ih hr]
    by_cases hij : i = j
    · subst hij
      simp [hj]
    · simp [hij, Warp.slice_setSlice_other w _ hij]

/-- What a change of every slice of a gang leaves in every slice. -/
theorem Warp.slice_onGang (w : Warp) (g : Mask8) (f : Nat → Slice → Slice) (i : Nat) :
    (w.onGang g f).slice i = if i ∈ gangSlices g then f i (w.slice i) else w.slice i :=
  Warp.slice_foldl _ (gangSlices_nodup g) f w i

@[simp] theorem Warp.onGang_group (w : Warp) (g : Mask8) (h : Nat → Slice → Slice) : (w.onGang g h).group = w.group :=
  List.foldlRecOn (motive := fun v : Warp => v.group = w.group) _ _ rfl (fun _ hb _ _ => hb)
@[simp] theorem Warp.onGang_idx (w : Warp) (g : Mask8) (h : Nat → Slice → Slice) : (w.onGang g h).idx = w.idx :=
  List.foldlRecOn (motive := fun v : Warp => v.idx = w.idx) _ _ rfl (fun _ hb _ _ => hb)
@[simp] theorem Warp.onGang_rowB (w : Warp) (g : Mask8) (h : Nat → Slice → Slice) : (w.onGang g h).rowB = w.rowB :=
  List.foldlRecOn (motive := fun v : Warp => v.rowB = w.rowB) _ _ rfl (fun _ hb _ _ => hb)
@[simp] theorem Warp.onGang_pipe (w : Warp) (g : Mask8) (h : Nat → Slice → Slice) : (w.onGang g h).pipe = w.pipe :=
  List.foldlRecOn (motive := fun v : Warp => v.pipe = w.pipe) _ _ rfl (fun _ hb _ _ => hb)
@[simp] theorem Warp.onGang_age (w : Warp) (g : Mask8) (h : Nat → Slice → Slice) : (w.onGang g h).age = w.age :=
  List.foldlRecOn (motive := fun v : Warp => v.age = w.age) _ _ rfl (fun _ hb _ _ => hb)
@[simp] theorem Warp.onGang_active (w : Warp) (g : Mask8) (h : Nat → Slice → Slice) : (w.onGang g h).active = w.active :=
  List.foldlRecOn (motive := fun v : Warp => v.active = w.active) _ _ rfl (fun _ hb _ _ => hb)
@[simp] theorem Warp.onGang_swap (w : Warp) (g : Mask8) (h : Nat → Slice → Slice) : (w.onGang g h).swap = w.swap :=
  List.foldlRecOn (motive := fun v : Warp => v.swap = w.swap) _ _ rfl (fun _ hb _ _ => hb)
@[simp] theorem Warp.onGang_readySince (w : Warp) (g : Mask8) (h : Nat → Slice → Slice) : (w.onGang g h).readySince = w.readySince :=
  List.foldlRecOn (motive := fun v : Warp => v.readySince = w.readySince) _ _ rfl (fun _ hb _ _ => hb)
@[simp] theorem Warp.onGang_hint (w : Warp) (g : Mask8) (h : Nat → Slice → Slice) : (w.onGang g h).hint = w.hint :=
  List.foldlRecOn (motive := fun v : Warp => v.hint = w.hint) _ _ rfl (fun _ hb _ _ => hb)
@[simp] theorem Warp.onGang_last (w : Warp) (g : Mask8) (h : Nat → Slice → Slice) : (w.onGang g h).last = w.last :=
  List.foldlRecOn (motive := fun v : Warp => v.last = w.last) _ _ rfl (fun _ hb _ _ => hb)
@[simp] theorem Warp.onGang_tok (w : Warp) (g : Mask8) (h : Nat → Slice → Slice) : (w.onGang g h).tok = w.tok :=
  List.foldlRecOn (motive := fun v : Warp => v.tok = w.tok) _ _ rfl (fun _ hb _ _ => hb)
@[simp] theorem Warp.onGang_bs (w : Warp) (g : Mask8) (h : Nat → Slice → Slice) : (w.onGang g h).bs = w.bs :=
  List.foldlRecOn (motive := fun v : Warp => v.bs = w.bs) _ _ rfl (fun _ hb _ _ => hb)
@[simp] theorem Warp.onGang_mteam (w : Warp) (g : Mask8) (h : Nat → Slice → Slice) : (w.onGang g h).mteam = w.mteam :=
  List.foldlRecOn (motive := fun v : Warp => v.mteam = w.mteam) _ _ rfl (fun _ hb _ _ => hb)
@[simp] theorem Warp.onGang_asid (w : Warp) (g : Mask8) (h : Nat → Slice → Slice) : (w.onGang g h).asid = w.asid :=
  List.foldlRecOn (motive := fun v : Warp => v.asid = w.asid) _ _ rfl (fun _ hb _ _ => hb)
@[simp] theorem Warp.onGang_domain (w : Warp) (g : Mask8) (h : Nat → Slice → Slice) : (w.onGang g h).domain = w.domain :=
  List.foldlRecOn (motive := fun v : Warp => v.domain = w.domain) _ _ rfl (fun _ hb _ _ => hb)
@[simp] theorem Warp.onGang_preq (w : Warp) (g : Mask8) (h : Nat → Slice → Slice) : (w.onGang g h).preq = w.preq :=
  List.foldlRecOn (motive := fun v : Warp => v.preq = w.preq) _ _ rfl (fun _ hb _ _ => hb)
@[simp] theorem Warp.onGang_handler (w : Warp) (g : Mask8) (h : Nat → Slice → Slice) : (w.onGang g h).handler = w.handler :=
  List.foldlRecOn (motive := fun v : Warp => v.handler = w.handler) _ _ rfl (fun _ hb _ _ => hb)
@[simp] theorem Warp.onGang_start (w : Warp) (g : Mask8) (h : Nat → Slice → Slice) : (w.onGang g h).start = w.start :=
  List.foldlRecOn (motive := fun v : Warp => v.start = w.start) _ _ rfl (fun _ hb _ _ => hb)
@[simp] theorem Warp.onGang_pend (w : Warp) (g : Mask8) (h : Nat → Slice → Slice) : (w.onGang g h).pend = w.pend :=
  List.foldlRecOn (motive := fun v : Warp => v.pend = w.pend) _ _ rfl (fun _ hb _ _ => hb)
@[simp] theorem Warp.onGang_nextId (w : Warp) (g : Mask8) (h : Nat → Slice → Slice) : (w.onGang g h).nextId = w.nextId :=
  List.foldlRecOn (motive := fun v : Warp => v.nextId = w.nextId) _ _ rfl (fun _ hb _ _ => hb)
@[simp] theorem Warp.onGang_report (w : Warp) (g : Mask8) (h : Nat → Slice → Slice) : (w.onGang g h).report = w.report :=
  List.foldlRecOn (motive := fun v : Warp => v.report = w.report) _ _ rfl (fun _ hb _ _ => hb)
@[simp] theorem Warp.onGang_walk (w : Warp) (g : Mask8) (h : Nat → Slice → Slice) : (w.onGang g h).walk = w.walk :=
  List.foldlRecOn (motive := fun v : Warp => v.walk = w.walk) _ _ rfl (fun _ hb _ _ => hb)
@[simp] theorem Warp.onGang_stepping (w : Warp) (g : Mask8) (h : Nat → Slice → Slice) : (w.onGang g h).stepping = w.stepping :=
  List.foldlRecOn (motive := fun v : Warp => v.stepping = w.stepping) _ _ rfl (fun _ hb _ _ => hb)
@[simp] theorem Warp.onGang_started (w : Warp) (g : Mask8) (h : Nat → Slice → Slice) : (w.onGang g h).started = w.started :=
  List.foldlRecOn (motive := fun v : Warp => v.started = w.started) _ _ rfl (fun _ hb _ _ => hb)
@[simp] theorem Warp.onGang_waited (w : Warp) (g : Mask8) (h : Nat → Slice → Slice) : (w.onGang g h).waited = w.waited :=
  List.foldlRecOn (motive := fun v : Warp => v.waited = w.waited) _ _ rfl (fun _ hb _ _ => hb)
@[simp] theorem Warp.onGang_heldHalt (w : Warp) (g : Mask8) (h : Nat → Slice → Slice) : (w.onGang g h).heldHalt = w.heldHalt :=
  List.foldlRecOn (motive := fun v : Warp => v.heldHalt = w.heldHalt) _ _ rfl (fun _ hb _ _ => hb)
@[simp] theorem Warp.onGang_seed (w : Warp) (g : Mask8) (h : Nat → Slice → Slice) : (w.onGang g h).seed = w.seed :=
  List.foldlRecOn (motive := fun v : Warp => v.seed = w.seed) _ _ rfl (fun _ hb _ _ => hb)

end Sys2Proof.Machine
end

