-- ==== Sys2Proof/Laws/Memory.lean ====
section
/-! SUPPORT. Laws of home memory: what a byte reads as after bytes are written, and that every operation on memory keeps
its canonical form. -/

namespace Sys2Proof.Machine

/-- A byte after one byte is written. -/
theorem Memory.get_set (m : List Host.Cell) (a b : Nat) (v : Byte) :
    Tab.get memDefault (Tab.set memDefault m a v) b = if b = a then v else Tab.get memDefault m b :=
  Tab.get_set memDefault m a b v

/-- Bytes below the first one written stay. -/
theorem Memory.get_write_below (bs : List Byte) (m : List Host.Cell) (a b : Nat) (h : b < a) :
    Tab.get memDefault (Memory.write m a bs) b = Tab.get memDefault m b := by
  induction bs generalizing m a with
  | nil => rfl
  | cons x r ih => rw [Memory.write, ih _ (a + 1) (by omega), Memory.get_set]; simp [Nat.ne_of_lt h]

/-- A byte after bytes are written from an address upward. -/
theorem Memory.get_write (bs : List Byte) (m : List Host.Cell) (a b : Nat) :
    Tab.get memDefault (Memory.write m a bs) b
      = if a ≤ b ∧ b < a + bs.length then bs.getD (b - a) 0 else Tab.get memDefault m b := by
  induction bs generalizing m a with
  | nil => simp [Memory.write]
  | cons x r ih =>
    rw [Memory.write, ih]
    rcases Nat.lt_trichotomy b a with h | h | h
    · have h1 : ¬ (a + 1 ≤ b ∧ b < a + 1 + r.length) := by omega
      have h2 : ¬ (a ≤ b ∧ b < a + (x :: r).length) := by omega
      rw [if_neg h1, if_neg h2, Memory.get_set, if_neg (by omega)]
    · subst h
      simp
    · have h3 : b - a = (b - (a + 1)) + 1 := by omega
      have h4 : (a + 1 ≤ b ∧ b < a + 1 + r.length) ↔ (a ≤ b ∧ b < a + (x :: r).length) := by
        simp only [List.length_cons]; omega
      by_cases h5 : a + 1 ≤ b ∧ b < a + 1 + r.length
      · rw [if_pos h5, if_pos (h4.mp h5), h3]; simp
      · rw [if_neg h5, if_neg (fun h => h5 (h4.mpr h)), Memory.get_set, if_neg (by omega)]

/-! The canonical form -/

theorem Memory.wf_set (m : List Host.Cell) (a : Nat) (v : Byte) (h : Memory.wf m = true) :
    Memory.wf (Tab.set memDefault m a v) = true := Tab.wf_set memDefault m a v h

theorem Memory.wf_write (bs : List Byte) (m : List Host.Cell) (a : Nat) (h : Memory.wf m = true) :
    Memory.wf (Memory.write m a bs) = true := by
  induction bs generalizing m a with
  | nil => exact h
  | cons b r ih => exact ih _ _ (Memory.wf_set m a b h)

/-- Single bytes written one after the other keep the canonical form. -/
theorem Memory.wf_foldl {β : Type} (l : List β) (at_ : β → Nat) (v : β → Byte) (m : List Host.Cell)
    (h : Memory.wf m = true) : Memory.wf (l.foldl (fun m x => Tab.set memDefault m (at_ x) (v x)) m) = true := by
  induction l generalizing m with
  | nil => exact h
  | cons x r ih => exact ih _ (Memory.wf_set m _ _ h)

/-- A run of changes of the state, each keeping memory canonical, keeps it. -/
theorem State.wf_foldl {β : Type} (l : List β) (f : State → β → State) (s : State) (h : Memory.wf s.mem = true)
    (hf : ∀ s x, Memory.wf s.mem = true → Memory.wf (f s x).mem = true) : Memory.wf (l.foldl f s).mem = true := by
  induction l generalizing s with
  | nil => exact h
  | cons x r ih => exact ih _ (hf s x h)

/-! What only looks at memory, or keeps account of it -/

@[simp] theorem State.stamp_mem (s : State) (l : Nat) : (s.stamp l).mem = s.mem := by unfold State.stamp; split <;> rfl

@[simp] theorem State.seeWords_mem (s : State) (l : Nat) : (s.seeWords l).mem = s.mem := rfl

@[simp] theorem State.dropCopies_mem (s : State) (l : Nat) : (s.dropCopies l).mem = s.mem := rfl

@[simp] theorem State.poisonLine_mem (s : State) (l st c : Nat) : (s.poisonLine l st c).mem = s.mem := rfl

@[simp] theorem State.detect_mem (s : State) (p : UpsetAt) (st c l : Nat) : (s.detect p st c l).1.mem = s.mem := by
  unfold State.detect
  split
  · rfl
  · dsimp only
    split <;> rfl

@[simp] theorem State.detectLine_mem (s : State) (l : Nat) : (s.detectLine l).mem = s.mem := by
  unfold State.detectLine
  split
  · rfl
  · refine List.foldlRecOn (motive := fun t : State => t.mem = s.mem) _ _ rfl (fun t ht st _ => ?_)
    dsimp only
    split <;> simp [ht]

@[simp] theorem State.stamp_cores (s : State) (l : Nat) : (s.stamp l).cores = s.cores := by unfold State.stamp; split <;> rfl

@[simp] theorem State.detect_cores (s : State) (p : UpsetAt) (st c l : Nat) : (s.detect p st c l).1.cores = s.cores := by
  unfold State.detect
  split
  · rfl
  · dsimp only
    split <;> rfl

/-! Folds and writes keep the canonical form -/

theorem State.wf_applyRecord (s : State) (r : Record) (h : Memory.wf s.mem = true) :
    Memory.wf (s.applyRecord r).mem = true := by
  unfold State.applyRecord
  split
  · exact h
  · simpa using Memory.wf_foldl _ _ _ _ h

theorem State.wf_applyFold (s : State) (f : FoldRec) (h : Memory.wf s.mem = true) :
    Memory.wf (s.applyFold f).mem = true := by
  have k := State.wf_applyRecord (s.detect (.record f.core f.seq f.record.line) 6 f.core f.record.line).1 f.record (by simpa using h)
  unfold State.applyFold
  dsimp only
  split
  · simpa using k
  · exact k

theorem State.wf_foldLine (s : State) (line : Nat) (h : Memory.wf s.mem = true) :
    Memory.wf (s.foldLine line).mem = true := by
  unfold State.foldLine
  dsimp only
  split
  · exact h
  · exact State.wf_foldl _ (fun s (r : FoldRec) => s.applyFold r) s h State.wf_applyFold

theorem State.wf_readHome (s : State) (line : Nat) (h : Memory.wf s.mem = true) : Memory.wf (s.readHome line).mem = true := by
  simpa [State.readHome] using State.wf_foldLine s line h

/-- What follows a write of lines at their homes changes no byte. -/
theorem State.mem_account (l : List Nat) (s : State) : (l.foldl (fun s l => (s.stamp l).seeWords l) s).mem = s.mem :=
  List.foldlRecOn (motive := fun t : State => t.mem = s.mem) _ _ rfl (fun t ht l _ => by simpa using ht)

/-- The folds and invalidations before a write in place. -/
theorem State.wf_folded (l : List Nat) (s : State) (h : Memory.wf s.mem = true) :
    Memory.wf (l.foldl (fun s l => (s.foldLine l).dropCopies l) s).mem = true :=
  State.wf_foldl _ (fun s l => (s.foldLine l).dropCopies l) s h (fun s l h => by simpa using State.wf_foldLine s l h)

theorem State.wf_homeWrite (s : State) (a : Nat) (bs : List Byte) (h : Memory.wf s.mem = true) :
    Memory.wf (s.homeWrite a bs).mem = true := by
  unfold State.homeWrite
  rw [State.mem_account]
  exact Memory.wf_write _ _ _ (State.wf_folded _ _ h)

theorem State.wf_writeSegment (s : State) (c : Nat) (g : Segment) (h : Memory.wf s.mem = true) :
    Memory.wf (s.writeSegment c g).mem = true := by
  unfold State.writeSegment
  split
  · exact h
  · exact Memory.wf_foldl _ _ _ _ h

/-! What the homes and the security block note beside memory -/

@[simp] theorem State.notePage_mem (s : State) (v : AsidTable) (a : BitVec 16) (va : Nat) : (s.notePage v a va).mem = s.mem := by
  unfold State.notePage; split <;> [split <;> rfl; rfl]

@[simp] theorem State.notePage_cores (s : State) (v : AsidTable) (a : BitVec 16) (va : Nat) : (s.notePage v a va).cores = s.cores := by
  unfold State.notePage; split <;> [split <;> rfl; rfl]

@[simp] theorem State.barService_mem (s : State) (a : BitVec 16) : (s.barService a).mem = s.mem := by
  unfold State.barService; split <;> rfl

/-- After it, an ASID that no image has passed for is barred. -/
theorem State.barService_barred (s : State) (a : BitVec 16) (h : a ∉ s.security.services) : a ∈ (s.barService a).security.barred := by
  unfold State.barService
  split
  · next q => simpa [h] using q
  · simp

end Sys2Proof.Machine
end

