-- ==== Sys2Proof/Laws/Issue.lean ====
section
/-! SUPPORT. Laws of issuing: what `issue` answers when an instruction issues, and what retiring it leaves in every warp. -/

namespace Sys2Proof.Machine

/-! What an observer's packets, shadows and marks leave -/

theorem State.warp_of_cores (s t : State) (h : t.cores = s.cores) (d v : Nat) : t.warp d v = s.warp d v := by
  simp [State.warp, State.core, h]

@[simp] theorem State.freshWords_mem (s : State) (ps : List UpsetAt) : (s.freshWords ps).mem = s.mem := by
  unfold State.freshWords; split <;> rfl

@[simp] theorem State.freshWords_cores (s : State) (ps : List UpsetAt) : (s.freshWords ps).cores = s.cores := by
  unfold State.freshWords; split <;> rfl

/-- A packet waits for the end of its tick, and changes no warp. -/
@[simp] theorem State.warp_tracePacket (s : State) (c slot : Nat) (g : Mask8) (ty : Byte) (bs : List Byte) (d v : Nat) :
    (s.tracePacket c slot g ty bs).warp d v = s.warp d v := by
  unfold State.tracePacket
  split
  · rw [State.warp_modCore_same _ _ _ rfl]
  · rfl

@[simp] theorem State.warp_traceMask (s pre : State) (c slot : Nat) (g : Mask8) (d v : Nat) :
    (s.traceMask pre c slot g).warp d v = s.warp d v := by
  unfold State.traceMask
  dsimp only
  split <;> simp

@[simp] theorem State.warp_freeOutputs (s : State) (c : Nat) (w : StageWindow) (dirt : List (Nat × Nat)) (d v : Nat) :
    (s.freeOutputs c w dirt).warp d v = s.warp d v := by
  unfold State.freeOutputs
  simp [State.draw1]
  rfl

@[simp] theorem State.warp_taint (s : State) (c id key n d v : Nat) : (s.taint c id key n).warp d v = s.warp d v := by
  unfold State.taint
  dsimp only
  have k : ∀ f : Core → Core, (f (s.core c)).warps = (s.core c).warps → (s.modCore c f).warp d v = s.warp d v :=
    fun f hf => by rw [State.warp_modCore_same _ _ _ hf]
  split
  · exact k _ rfl
  · split
    · exact (State.warp_freeOutputs ..).trans (k _ rfl)
    · exact k _ rfl

@[simp] theorem State.warp_taintRows (s : State) (c slot d v : Nat) : (s.taintRows c slot).warp d v = s.warp d v :=
  List.foldlRecOn (motive := fun t : State => t.warp d v = s.warp d v) _ _ rfl
    (fun t ht q _ => (State.warp_taint t c q.1 q.2 16 d v).trans ht)

@[simp] theorem State.warp_freshRows (s : State) (c slot d v : Nat) : (s.freshRows c slot).warp d v = s.warp d v := by
  unfold State.freshRows
  split
  · rfl
  · exact State.warp_of_cores _ _ (State.freshWords_cores ..) d v

@[simp] theorem State.spoilSpilled_mem (s : State) (pa n : Nat) : (s.spoilSpilled pa n).mem = s.mem := by
  unfold State.spoilSpilled
  exact List.foldlRecOn (motive := fun t : State => t.mem = s.mem) _ _ rfl (fun _ h _ _ => h)

/-! Issuing -/

/-- An instruction that issues does what its own entry and the shared end of every issue give. -/
theorem State.issue_next {s : State} {u : Cur} {i : Instr} (h : s.Issues u i) (eff : State → Cur → Eff) :
    s.issue i eff = .next (s.finish u i (eff (s.enter u (Instr.header i)) u)) := by
  have hb : s.before u i = none := by
    simp [State.before, h.free, h.calm, h.legal, h.ready, h.steady]
  simp [State.issue, State.enact, h.cur, h.stands, h.place, h.sound, hb]

/-- What an instruction that only changes registers of its warp does when it issues. -/
theorem State.issueReg_next {s : State} {u : Cur} {i : Instr} (h : s.Issues u i) (f : Warp → Mask8 → Warp) :
    s.issueReg i f = .next ((((s.enter u (Instr.header i)).modWarp u.core u.slot (fun w => f w u.gang)).advance u).retire
      s u i false) := State.issue_next h _

/-! Retiring -/

@[simp] theorem State.warp_enter_other (s : State) (u : Cur) (h : Header) {d v : Nat} (hv : ¬ (d = u.core ∧ v = u.slot)) :
    (s.enter u h).warp d v = s.warp d v := by
  unfold State.enter
  rw [State.warp_modWarp_other _ _ hv]
  rfl

theorem State.seen_eq (s : State) (u : Cur) (i : Instr) : (s.enter u (Instr.header i)).warp u.core u.slot = s.seen u i := rfl

@[simp] theorem Slice.still_noteIdle (sl : Slice) (seed : Nat) (lat : Option Nat) (tok : Nat) (k : RegKind) (x : Nat) :
    (sl.noteIdle seed lat tok k x).still = sl.still := by
  unfold Slice.noteIdle
  split <;> rfl

/-- A run of changes that each leave a slice's registers leaves them. -/
theorem Slice.still_foldl {β : Type} (l : List β) (f : Slice → β → Slice) (h : ∀ sl x, (f sl x).still = sl.still) (sl : Slice) :
    (l.foldl f sl).still = sl.still := by
  induction l generalizing sl with
  | nil => rfl
  | cons x r ih => rw [List.foldl_cons, ih, h]

/-- A change of a gang's slices that leaves their registers leaves every slice's. -/
theorem Warp.still_onGang (w : Warp) (g : Mask8) (f : Nat → Slice → Slice) (h : ∀ j sl, (f j sl).still = sl.still) (j : Nat) :
    ((w.onGang g f).slice j).still = (w.slice j).still := by
  rw [Warp.slice_onGang]
  split
  · exact h _ _
  · rfl

/-- The warp that `u` names keeps in `t` the registers of its slices, and whether it is stepped, as in `s`; the other warps
are as they were. -/
structure State.KeepsRegs (s t : State) (u : Cur) : Prop where
  others : ∀ d v, ¬ (d = u.core ∧ v = u.slot) → t.warp d v = s.warp d v
  slices : ∀ j, (t.sliceOf u j).still = (s.sliceOf u j).still
  stepping : (t.warp u.core u.slot).stepping = (s.warp u.core u.slot).stepping
  rowB : (t.warp u.core u.slot).rowB = (s.warp u.core u.slot).rowB

theorem State.KeepsRegs.refl (s : State) (u : Cur) : s.KeepsRegs s u := ⟨fun _ _ _ => rfl, fun _ => rfl, rfl, rfl⟩

theorem State.KeepsRegs.trans {s t r : State} {u : Cur} (h : s.KeepsRegs t u) (k : t.KeepsRegs r u) : s.KeepsRegs r u :=
  ⟨fun d v hv => (k.others d v hv).trans (h.others d v hv), fun j => (k.slices j).trans (h.slices j),
    k.stepping.trans h.stepping, k.rowB.trans h.rowB⟩

/-- A state with the same warps. -/
theorem State.KeepsRegs.of_warps {s t : State} {u : Cur} (h : ∀ d v, t.warp d v = s.warp d v) : s.KeepsRegs t u :=
  ⟨fun d v _ => h d v, fun j => by simp [State.sliceOf, h], by rw [h], by rw [h]⟩

/-- A change of the warp itself. -/
theorem State.KeepsRegs.of_modWarp (s : State) (u : Cur) (f : Warp → Warp)
    (hj : ∀ w j, ((f w).slice j).still = (w.slice j).still) (hs : ∀ w, (f w).stepping = w.stepping)
    (hb : ∀ w, (f w).rowB = w.rowB) : s.KeepsRegs (s.modWarp u.core u.slot f) u :=
  ⟨fun _ _ hv => State.warp_modWarp_other s f hv, fun j => by simp [State.sliceOf, hj], by simp [hs], by simp [hb]⟩

theorem State.keepsRegs_noteIdle (s pre : State) (u : Cur) (i : Instr) : s.KeepsRegs (s.noteIdle pre u i) u := by
  unfold State.noteIdle
  dsimp only
  split
  · exact .refl s u
  · refine .of_modWarp s u _ (fun w j => Warp.still_onGang _ _ _ (fun j sl => ?_) j) (by simp) (by simp)
    split
    · rfl
    · exact Slice.still_foldl _ _ (fun sl r => Slice.still_noteIdle ..) sl

theorem State.keepsRegs_addPend (s : State) (u : Cur) (tok : Nat) (op : PendOp) : s.KeepsRegs (s.addPend u tok op) u :=
  .of_modWarp s u _ (fun _ _ => rfl) (fun _ => rfl) (fun _ => rfl)

theorem State.keepsRegs_countToken (s : State) (u : Cur) (h : Header) : s.KeepsRegs (s.countToken u h) u := by
  unfold State.countToken
  split
  · exact .refl s u
  · refine (State.keepsRegs_addPend s u h.settok.toNat (.regs [] 0)).trans ?_
    refine .of_modWarp _ u _ (fun w j => ?_) (fun w => ?_) (fun w => ?_)
    · exact Warp.still_onGang _ _ _ (fun j sl => by rfl) j
    · exact Warp.onGang_stepping ..
    · exact Warp.onGang_rowB ..

theorem State.keepsRegs_retireToken (s : State) (u : Cur) (h : Header) (counted : Bool) :
    s.KeepsRegs (s.retireToken u h counted) u := by
  unfold State.retireToken
  split
  · exact .refl s u
  · exact State.keepsRegs_countToken s u h

theorem State.keepsRegs_retireTurn (s pre : State) (u : Cur) (h : Header) : s.KeepsRegs (s.retireTurn pre u h) u := by
  unfold State.retireTurn
  refine .of_modWarp s u _ (fun w j => ?_) (fun w => ?_) (fun w => ?_)
  · exact (Warp.still_onGang _ _ _ (fun j sl => by rfl) j).trans rfl
  · exact Warp.onGang_stepping ..
  · exact Warp.onGang_rowB ..

/-- A slice whose rows written have been looked at. -/
theorem Warp.still_looked (w : Warp) (j : Nat) : (w.looked.slice j).still = (w.slice j).still := by
  simp only [Warp.slice, Warp.looked]
  rw [Tab.get_map (fun x : Slice => { x with touched := [] }) Slice.empty w.slices j rfl]
  rfl

theorem State.keepsRegs_shadowRows (s : State) (u : Cur) : s.KeepsRegs (s.shadowRows u.core u.slot) u := by
  have k : s.KeepsRegs (s.modWarp u.core u.slot Warp.looked) u :=
    .of_modWarp s u _ Warp.still_looked (fun _ => rfl) (fun _ => rfl)
  unfold State.shadowRows
  dsimp only
  split
  · exact .refl s u
  · split
    · exact k
    · split
      · exact k
      · exact k.trans (.of_warps (fun d v => State.warp_setGroup ..))

theorem State.keepsRegs_retireSeen (s pre : State) (u : Cur) : s.KeepsRegs (s.retireSeen pre u) u := by
  unfold State.retireSeen State.rowsSeen
  exact (State.KeepsRegs.of_warps (fun d v => by simp)).trans (State.keepsRegs_shadowRows _ u)

theorem State.keepsRegs_stepHalt (s : State) (u : Cur) (h : (s.warp u.core u.slot).stepping = none) :
    s.KeepsRegs (s.stepHalt u) u := by
  unfold State.stepHalt
  simp only [h]
  exact .refl s u

/-- Retiring an instruction of a warp that is not stepped leaves every register. -/
theorem State.keepsRegs_retire (s pre : State) (u : Cur) (i : Instr) (counted : Bool)
    (hstep : (s.warp u.core u.slot).stepping = none) : s.KeepsRegs (s.retire pre u i counted) u := by
  have h1 := State.keepsRegs_noteIdle s pre u i
  have h2 := h1.trans (State.keepsRegs_retireToken _ u (Instr.header i) counted)
  have h3 := h2.trans (State.keepsRegs_retireTurn _ pre u (Instr.header i))
  have h4 := h3.trans (State.KeepsRegs.of_warps (u := u) (fun d v => State.warp_count _ u.core (coreCtr 0x40) 1 d v))
  have h5 := h4.trans (State.keepsRegs_retireSeen _ pre u)
  exact h5.trans (State.keepsRegs_stepHalt _ u (h5.stepping.trans hstep))

/-- What an instruction that only changes registers of its warp does when it issues and the warp is not stepped: the other
warps stay, and each slice's registers are those its own meaning `f` gives, at the next slot in the slices of the gang. -/
theorem State.issueReg_spec {s : State} {u : Cur} {i : Instr} (h : s.Issues u i) (f : Warp → Mask8 → Warp)
    (hs : (f (s.seen u i) u.gang).stepping = none) :
    ∃ t, s.issueReg i f = .next t
      ∧ (∀ d v, ¬ (d = u.core ∧ v = u.slot) → t.warp d v = s.warp d v)
      ∧ (t.warp u.core u.slot).rowB = (f (s.seen u i) u.gang).rowB
      ∧ ∀ j, (t.sliceOf u j).still
          = if j ∈ gangSlices u.gang then
              ({ (f (s.seen u i) u.gang).slice j with pc := nextSlot ((f (s.seen u i) u.gang).slice j).pc } : Slice).still
            else ((f (s.seen u i) u.gang).slice j).still := by
  refine ⟨_, State.issueReg_next h f, ?_, ?_, ?_⟩
  all_goals
    have k := State.keepsRegs_retire (((s.enter u (Instr.header i)).modWarp u.core u.slot (fun w => f w u.gang)).advance u)
      s u i false (by simp [State.advance, State.seen_eq, hs])
  · intro d v hv
    rw [k.others d v hv]
    simp [State.advance, State.warp_modWarp_other _ _ hv, State.warp_enter_other _ _ _ hv]
  · rw [k.rowB]; simp [State.advance, State.seen_eq]
  · intro j
    rw [k.slices j]
    simp only [State.sliceOf, State.advance, State.warp_modWarp, State.seen_eq, Warp.slice_onGang]
    split <;> rfl

/-- An instruction whose own entry takes its effect, in a warp that is not stepped: the machine goes on, in a state in which
the warp holds the registers that the effect leaves. -/
theorem State.issue_done {s : State} {u : Cur} {i : Instr} (h : s.Issues u i) {eff : State → Cur → Eff} {r : State}
    {counted : Bool} (he : eff (s.enter u (Instr.header i)) u = .done r counted)
    (hs : (r.warp u.core u.slot).stepping = none) :
    ∃ t, s.issue i eff = .next t ∧ r.KeepsRegs t u :=
  ⟨_, (State.issue_next h eff).trans (by rw [he]; rfl), State.keepsRegs_retire r s u i counted hs⟩

/-! Work in flight -/

/-- The warp that `u` names keeps in `t` its work in flight and its tokens as in `s`. -/
structure State.KeepsWork (s t : State) (u : Cur) : Prop where
  pend : (t.warp u.core u.slot).pend = (s.warp u.core u.slot).pend
  tok : (t.warp u.core u.slot).tok = (s.warp u.core u.slot).tok
  nextId : (t.warp u.core u.slot).nextId = (s.warp u.core u.slot).nextId

theorem State.KeepsWork.trans {s t r : State} {u : Cur} (h : s.KeepsWork t u) (k : t.KeepsWork r u) : s.KeepsWork r u :=
  ⟨k.pend.trans h.pend, k.tok.trans h.tok, k.nextId.trans h.nextId⟩

theorem State.KeepsWork.of_warps {s t : State} {u : Cur} (h : ∀ d v, t.warp d v = s.warp d v) : s.KeepsWork t u :=
  ⟨by rw [h], by rw [h], by rw [h]⟩

theorem State.keepsWork_noteIdle (s pre : State) (u : Cur) (i : Instr) : s.KeepsWork (s.noteIdle pre u i) u := by
  unfold State.noteIdle
  dsimp only
  split
  · exact .of_warps (fun _ _ => rfl)
  · constructor <;> simp

theorem State.keepsWork_shadowRows (s : State) (u : Cur) : s.KeepsWork (s.shadowRows u.core u.slot) u := by
  have k : s.KeepsWork (s.modWarp u.core u.slot Warp.looked) u := by constructor <;> simp [Warp.looked]
  unfold State.shadowRows
  dsimp only
  split
  · exact .of_warps (fun _ _ => rfl)
  · split
    · exact k
    · split
      · exact k
      · exact k.trans (.of_warps (fun d v => State.warp_setGroup ..))

theorem State.keepsWork_retireSeen (s pre : State) (u : Cur) : s.KeepsWork (s.retireSeen pre u) u := by
  unfold State.retireSeen State.rowsSeen
  exact (State.KeepsWork.of_warps (fun d v => by simp)).trans (State.keepsWork_shadowRows _ u)

theorem State.keepsWork_stepHalt (s : State) (u : Cur) (h : (s.warp u.core u.slot).stepping = none) :
    s.KeepsWork (s.stepHalt u) u := by
  unfold State.stepHalt
  simp only [h]
  exact .of_warps (fun _ _ => rfl)

/-- Retiring an instruction that has put its own result on its token adds no other work. -/
theorem State.keepsWork_retire (s pre : State) (u : Cur) (i : Instr) (hstep : (s.warp u.core u.slot).stepping = none) :
    s.KeepsWork (s.retire pre u i true) u := by
  have h1 := State.keepsWork_noteIdle s pre u i
  have k1 := State.keepsRegs_noteIdle s pre u i
  have h3 : (s.noteIdle pre u i).KeepsWork ((s.noteIdle pre u i).retireTurn pre u (Instr.header i)) u := by
    unfold State.retireTurn
    constructor <;> simp
  have k3 := k1.trans (State.keepsRegs_retireTurn _ pre u (Instr.header i))
  have h4 := (h1.trans h3).trans (State.KeepsWork.of_warps (fun d v => State.warp_count _ u.core (coreCtr 0x40) 1 d v))
  have k4 := k3.trans (State.KeepsRegs.of_warps (u := u) (fun d v => State.warp_count _ u.core (coreCtr 0x40) 1 d v))
  have h5 := h4.trans (State.keepsWork_retireSeen _ pre u)
  have k5 := k4.trans (State.keepsRegs_retireSeen _ pre u)
  exact h5.trans (State.keepsWork_stepHalt _ u (k5.stepping.trans hstep))

end Sys2Proof.Machine
end

