-- ==== Sys2Proof/Laws/PerInstr.lean ====
section
/-! SUPPORT. Two families of lemmas with one member per constructor: what the encoder makes of each instruction, by its
format, and that every opcode it uses is one of Table 3.15. -/

namespace Sys2Proof.Laws

/-! The slot of an instruction by its format -/

/-- The slot of an instruction's parts. -/
def Packed.slot : Machine.Parts → Option Nat
  | .a op h o => some (packA op h o)
  | .b op h o => some (packB op h o)
  | .c op h o => some (packC op h o)
  | .d op h o => some (packD op h o)
  | .e op h o => some (packE op h o)
  | .g op h o => some (packG op h o)
  | .event => none

/-- The encoder packs an instruction's parts. -/
def Packed.Statement (i : Instr) : Prop := encode i = Packed.slot (Machine.Instr.parts i)

theorem Packed.nop (h) (o) : Packed.Statement (.nop h o) := rfl
theorem Packed.mov (h) (o) : Packed.Statement (.mov h o) := rfl
theorem Packed.movi (h) (o) : Packed.Statement (.movi h o) := rfl
theorem Packed.movih (h) (o) : Packed.Statement (.movih h o) := rfl
theorem Packed.add (h) (o) : Packed.Statement (.add h o) := rfl
theorem Packed.addi (h) (o) : Packed.Statement (.addi h o) := rfl
theorem Packed.sub (h) (o) : Packed.Statement (.sub h o) := rfl
theorem Packed.neg (h) (o) : Packed.Statement (.neg h o) := rfl
theorem Packed.mul (h) (o) : Packed.Statement (.mul h o) := rfl
theorem Packed.muli (h) (o) : Packed.Statement (.muli h o) := rfl
theorem Packed.mulhi (h) (o) : Packed.Statement (.mulhi h o) := rfl
theorem Packed.mad (h) (o) : Packed.Statement (.mad h o) := rfl
theorem Packed.madw (h) (o) : Packed.Statement (.madw h o) := rfl
theorem Packed.minI (h) (o) : Packed.Statement (.minI h o) := rfl
theorem Packed.maxI (h) (o) : Packed.Statement (.maxI h o) := rfl
theorem Packed.absI (h) (o) : Packed.Statement (.absI h o) := rfl
theorem Packed.clamp (h) (o) : Packed.Statement (.clamp h o) := rfl
theorem Packed.andB (h) (o) : Packed.Statement (.andB h o) := rfl
theorem Packed.andi (h) (o) : Packed.Statement (.andi h o) := rfl
theorem Packed.orB (h) (o) : Packed.Statement (.orB h o) := rfl
theorem Packed.ori (h) (o) : Packed.Statement (.ori h o) := rfl
theorem Packed.xorB (h) (o) : Packed.Statement (.xorB h o) := rfl
theorem Packed.xori (h) (o) : Packed.Statement (.xori h o) := rfl
theorem Packed.notB (h) (o) : Packed.Statement (.notB h o) := rfl
theorem Packed.andn (h) (o) : Packed.Statement (.andn h o) := rfl
theorem Packed.shl (h) (o) : Packed.Statement (.shl h o) := rfl
theorem Packed.shr (h) (o) : Packed.Statement (.shr h o) := rfl
theorem Packed.shi (h) (o) : Packed.Statement (.shi h o) := rfl
theorem Packed.rol (h) (o) : Packed.Statement (.rol h o) := rfl
theorem Packed.ror (h) (o) : Packed.Statement (.ror h o) := rfl
theorem Packed.bfe (h) (o) : Packed.Statement (.bfe h o) := rfl
theorem Packed.bfi (h) (o) : Packed.Statement (.bfi h o) := rfl
theorem Packed.popc (h) (o) : Packed.Statement (.popc h o) := rfl
theorem Packed.clz (h) (o) : Packed.Statement (.clz h o) := rfl
theorem Packed.brev (h) (o) : Packed.Statement (.brev h o) := rfl
theorem Packed.sel (h) (o) : Packed.Statement (.sel h o) := rfl
theorem Packed.setp (h) (o) : Packed.Statement (.setp h o) := rfl
theorem Packed.setpi (h) (o) : Packed.Statement (.setpi h o) := rfl
theorem Packed.lea (h) (o) : Packed.Statement (.lea h o) := rfl
theorem Packed.rdlane (h) (o) : Packed.Statement (.rdlane h o) := rfl
theorem Packed.wrlane (h) (o) : Packed.Statement (.wrlane h o) := rfl
theorem Packed.sext (h) (o) : Packed.Statement (.sext h o) := rfl
theorem Packed.zext (h) (o) : Packed.Statement (.zext h o) := rfl
theorem Packed.plop (h) (o) : Packed.Statement (.plop h o) := rfl
theorem Packed.pmov (h) (o) : Packed.Statement (.pmov h o) := rfl
theorem Packed.mlop (h) (o) : Packed.Statement (.mlop h o) := rfl
theorem Packed.mmov (h) (o) : Packed.Statement (.mmov h o) := rfl
theorem Packed.ballot (h) (o) : Packed.Statement (.ballot h o) := rfl
theorem Packed.anyP (h) (o) : Packed.Statement (.anyP h o) := rfl
theorem Packed.allP (h) (o) : Packed.Statement (.allP h o) := rfl
theorem Packed.mfirst (h) (o) : Packed.Statement (.mfirst h o) := rfl
theorem Packed.mcount (h) (o) : Packed.Statement (.mcount h o) := rfl
theorem Packed.mtop (h) (o) : Packed.Statement (.mtop h o) := rfl
theorem Packed.mseti (h) (o) : Packed.Statement (.mseti h o) := rfl
theorem Packed.pseti (h) (o) : Packed.Statement (.pseti h o) := rfl
theorem Packed.br (h) (o) : Packed.Statement (.br h o) := rfl
theorem Packed.brx (h) (o) : Packed.Statement (.brx h o) := rfl
theorem Packed.call (h) (o) : Packed.Statement (.call h o) := rfl
theorem Packed.calli (h) (o) : Packed.Statement (.calli h o) := rfl
theorem Packed.tcall (h) (o) : Packed.Statement (.tcall h o) := rfl
theorem Packed.tcallIndirect (h) (o) : Packed.Statement (.tcallIndirect h o) := rfl
theorem Packed.ret (h) (o) : Packed.Statement (.ret h o) := rfl
theorem Packed.frame (h) (o) : Packed.Statement (.frame h o) := rfl
theorem Packed.regang (h) (o) : Packed.Statement (.regang h o) := rfl
theorem Packed.regangPoint (core) (slot) : Packed.Statement (.regangPoint core slot) := rfl
theorem Packed.gate (h) (o) : Packed.Statement (.gate h o) := rfl
theorem Packed.gret (h) (o) : Packed.Statement (.gret h o) := rfl
theorem Packed.yield (h) (o) : Packed.Statement (.yield h o) := rfl
theorem Packed.exit (h) (o) : Packed.Statement (.exit h o) := rfl
theorem Packed.trap (h) (o) : Packed.Statement (.trap h o) := rfl
theorem Packed.bkpt (h) (o) : Packed.Statement (.bkpt h o) := rfl
theorem Packed.waitk (h) (o) : Packed.Statement (.waitk h o) := rfl
theorem Packed.supret (h) (o) : Packed.Statement (.supret h o) := rfl
theorem Packed.fadd (h) (o) : Packed.Statement (.fadd h o) := rfl
theorem Packed.fsub (h) (o) : Packed.Statement (.fsub h o) := rfl
theorem Packed.fmul (h) (o) : Packed.Statement (.fmul h o) := rfl
theorem Packed.ffma (h) (o) : Packed.Statement (.ffma h o) := rfl
theorem Packed.fmin (h) (o) : Packed.Statement (.fmin h o) := rfl
theorem Packed.fmax (h) (o) : Packed.Statement (.fmax h o) := rfl
theorem Packed.fabs (h) (o) : Packed.Statement (.fabs h o) := rfl
theorem Packed.fneg (h) (o) : Packed.Statement (.fneg h o) := rfl
theorem Packed.fsetp (h) (o) : Packed.Statement (.fsetp h o) := rfl
theorem Packed.fclass (h) (o) : Packed.Statement (.fclass h o) := rfl
theorem Packed.frcp (h) (o) : Packed.Statement (.frcp h o) := rfl
theorem Packed.fsqrt (h) (o) : Packed.Statement (.fsqrt h o) := rfl
theorem Packed.frsq (h) (o) : Packed.Statement (.frsq h o) := rfl
theorem Packed.fexp2 (h) (o) : Packed.Statement (.fexp2 h o) := rfl
theorem Packed.flog2 (h) (o) : Packed.Statement (.flog2 h o) := rfl
theorem Packed.faddi (h) (o) : Packed.Statement (.faddi h o) := rfl
theorem Packed.fmuli (h) (o) : Packed.Statement (.fmuli h o) := rfl
theorem Packed.fdot2 (h) (o) : Packed.Statement (.fdot2 h o) := rfl
theorem Packed.frnd (h) (o) : Packed.Statement (.frnd h o) := rfl
theorem Packed.dadd (h) (o) : Packed.Statement (.dadd h o) := rfl
theorem Packed.dsub (h) (o) : Packed.Statement (.dsub h o) := rfl
theorem Packed.dmul (h) (o) : Packed.Statement (.dmul h o) := rfl
theorem Packed.dfma (h) (o) : Packed.Statement (.dfma h o) := rfl
theorem Packed.dmin (h) (o) : Packed.Statement (.dmin h o) := rfl
theorem Packed.dmax (h) (o) : Packed.Statement (.dmax h o) := rfl
theorem Packed.dsetp (h) (o) : Packed.Statement (.dsetp h o) := rfl
theorem Packed.dsqrt (h) (o) : Packed.Statement (.dsqrt h o) := rfl
theorem Packed.cvt (h) (o) : Packed.Statement (.cvt h o) := rfl
theorem Packed.pcvt (h) (o) : Packed.Statement (.pcvt h o) := rfl
theorem Packed.qblk (h) (o) : Packed.Statement (.qblk h o) := rfl
theorem Packed.xshf (h) (o) : Packed.Statement (.xshf h o) := rfl
theorem Packed.xbcast (h) (o) : Packed.Statement (.xbcast h o) := rfl
theorem Packed.xred (h) (o) : Packed.Statement (.xred h o) := rfl
theorem Packed.xscan (h) (o) : Packed.Statement (.xscan h o) := rfl
theorem Packed.ld (h) (o) : Packed.Statement (.ld h o) := rfl
theorem Packed.ldH (h) (o) : Packed.Statement (.ldH h o) := rfl
theorem Packed.st (h) (o) : Packed.Statement (.st h o) := rfl
theorem Packed.lds (h) (o) : Packed.Statement (.lds h o) := rfl
theorem Packed.sts (h) (o) : Packed.Statement (.sts h o) := rfl
theorem Packed.ldl (h) (o) : Packed.Statement (.ldl h o) := rfl
theorem Packed.atom (h) (o) : Packed.Statement (.atom h o) := rfl
theorem Packed.atoms (h) (o) : Packed.Statement (.atoms h o) := rfl
theorem Packed.acq (h) (o) : Packed.Statement (.acq h o) := rfl
theorem Packed.rel (h) (o) : Packed.Statement (.rel h o) := rfl
theorem Packed.fence (h) (o) : Packed.Statement (.fence h o) := rfl
theorem Packed.seal (h) (o) : Packed.Statement (.seal h o) := rfl
theorem Packed.xkick (h) (o) : Packed.Statement (.xkick h o) := rfl
theorem Packed.lbinit (h) (o) : Packed.Statement (.lbinit h o) := rfl
theorem Packed.lbarrive (h) (o) : Packed.Statement (.lbarrive h o) := rfl
theorem Packed.lbwait (h) (o) : Packed.Statement (.lbwait h o) := rfl
theorem Packed.landingRelease (core) (slot) (low) : Packed.Statement (.landingRelease core slot low) := rfl
theorem Packed.ringget (h) (o) : Packed.Statement (.ringget h o) := rfl
theorem Packed.ringgetFree (h) (o) : Packed.Statement (.ringgetFree h o) := rfl
theorem Packed.ringSlotTaken (core) (slot) (low) : Packed.Statement (.ringSlotTaken core slot low) := rfl
theorem Packed.ringput (h) (o) : Packed.Statement (.ringput h o) := rfl
theorem Packed.ringputFill (h) (o) : Packed.Statement (.ringputFill h o) := rfl
theorem Packed.barr (h) (o) : Packed.Statement (.barr h o) := rfl
theorem Packed.barrierRelease (core) (group) (k) : Packed.Statement (.barrierRelease core group k) := rfl
theorem Packed.launch (h) (o) : Packed.Statement (.launch h o) := rfl
theorem Packed.rdctr (h) (o) : Packed.Statement (.rdctr h o) := rfl
theorem Packed.rdtick (h) (o) : Packed.Statement (.rdtick h o) := rfl
theorem Packed.mfs (h) (o) : Packed.Statement (.mfs h o) := rfl
theorem Packed.mts (h) (o) : Packed.Statement (.mts h o) := rfl
theorem Packed.mshape (h) (o) : Packed.Statement (.mshape h o) := rfl
theorem Packed.mteam (h) (o) : Packed.Statement (.mteam h o) := rfl
theorem Packed.mteamRd (h) (o) : Packed.Statement (.mteamRd h o) := rfl
theorem Packed.mstride (h) (o) : Packed.Statement (.mstride h o) := rfl
theorem Packed.mfence (h) (o) : Packed.Statement (.mfence h o) := rfl
theorem Packed.bfly (h) (o) : Packed.Statement (.bfly h o) := rfl
theorem Packed.bchain (h) (o) : Packed.Statement (.bchain h o) := rfl
theorem Packed.latchOpen (core) (slot) : Packed.Statement (.latchOpen core slot) := rfl
theorem Packed.mscale (h) (o) : Packed.Statement (.mscale h o) := rfl
theorem Packed.mscaleOut (h) (o) : Packed.Statement (.mscaleOut h o) := rfl
theorem Packed.mwait (h) (o) : Packed.Statement (.mwait h o) := rfl
theorem Packed.mload (h) (o) : Packed.Statement (.mload h o) := rfl
theorem Packed.mstore (h) (o) : Packed.Statement (.mstore h o) := rfl
theorem Packed.mzero (h) (o) : Packed.Statement (.mzero h o) := rfl
theorem Packed.stageChunk (core) (pairs) : Packed.Statement (.stageChunk core pairs) := rfl
theorem Packed.stageComplete (core) : Packed.Statement (.stageComplete core) := rfl
theorem Packed.resultComplete (core) (slot) (id) : Packed.Statement (.resultComplete core slot id) := rfl
theorem Packed.copyChunkStart (core) (req) : Packed.Statement (.copyChunkStart core req) := rfl
theorem Packed.copyChunkLand (core) (chunk) : Packed.Statement (.copyChunkLand core chunk) := rfl
theorem Packed.spillLanded (core) (slot) (slice) : Packed.Statement (.spillLanded core slot slice) := rfl
theorem Packed.undertowRefill (core) (slot) (slice) : Packed.Statement (.undertowRefill core slot slice) := rfl
theorem Packed.pendingFaultDelivery (core) (slot) (low) : Packed.Statement (.pendingFaultDelivery core slot low) := rfl
theorem Packed.issueCycle (core) (pipe) : Packed.Statement (.issueCycle core pipe) := rfl
theorem Packed.pendingStarvation (core) (pipe) : Packed.Statement (.pendingStarvation core pipe) := rfl
theorem Packed.fetchLineFill (core) (slot) (low) : Packed.Statement (.fetchLineFill core slot low) := rfl
theorem Packed.forcedPublication (core) : Packed.Statement (.forcedPublication core) := rfl
theorem Packed.segmentWriteDone (core) : Packed.Statement (.segmentWriteDone core) := rfl
theorem Packed.foldNotice (core) (home) : Packed.Statement (.foldNotice core home) := rfl
theorem Packed.noticeAck (core) : Packed.Statement (.noticeAck core) := rfl
theorem Packed.ebbFold (home) : Packed.Statement (.ebbFold home) := rfl
theorem Packed.homeAtomic (core) (slot) (id) (lane) : Packed.Statement (.homeAtomic core slot id lane) := rfl
theorem Packed.shootdownAck (core) : Packed.Statement (.shootdownAck core) := rfl
theorem Packed.replayEntryExpiry (index) : Packed.Statement (.replayEntryExpiry index) := rfl
theorem Packed.atomunkWindowClose (core) (slot) (id) (lane) : Packed.Statement (.atomunkWindowClose core slot id lane) := rfl
theorem Packed.routedRecordAck (core) : Packed.Statement (.routedRecordAck core) := rfl
theorem Packed.appCoreWrite (pa) (bytes) : Packed.Statement (.appCoreWrite pa bytes) := rfl
theorem Packed.pcieRequest (requester) (va) (access) : Packed.Statement (.pcieRequest requester va access) := rfl
theorem Packed.dispatchTurn (cls) : Packed.Statement (.dispatchTurn cls) := rfl
theorem Packed.classHold (vi) (region) : Packed.Statement (.classHold vi region) := rfl
theorem Packed.dependenceMet (launch) (linear) (dep) : Packed.Statement (.dependenceMet launch linear dep) := rfl
theorem Packed.workgroupEnd (core) (group) : Packed.Statement (.workgroupEnd core group) := rfl
theorem Packed.preemptRequest (core) (group) : Packed.Statement (.preemptRequest core group) := rfl
theorem Packed.yieldSave (core) (group) : Packed.Statement (.yieldSave core group) := rfl
theorem Packed.forcedSave (core) (group) : Packed.Statement (.forcedSave core group) := rfl
theorem Packed.watchdog (core) (slot) (low) : Packed.Statement (.watchdog core slot low) := rfl
theorem Packed.debugResume (core) (slot) : Packed.Statement (.debugResume core slot) := rfl
theorem Packed.debugStep (core) (slot) : Packed.Statement (.debugStep core slot) := rfl
theorem Packed.debugKill (core) (slot) : Packed.Statement (.debugKill core slot) := rfl
theorem Packed.daccRead (core) (slot) (slice) (lane) (reg) : Packed.Statement (.daccRead core slot slice lane reg) := rfl
theorem Packed.daccWrite (core) (slot) (slice) (lane) (reg) : Packed.Statement (.daccWrite core slot slice lane reg) := rfl
theorem Packed.counterFreeze (core) (hold) : Packed.Statement (.counterFreeze core hold) := rfl
theorem Packed.tracePeriodicSync (core) : Packed.Statement (.tracePeriodicSync core) := rfl
theorem Packed.traceLoss (core) : Packed.Statement (.traceLoss core) := rfl
theorem Packed.scrubRead (stack) (found) : Packed.Statement (.scrubRead stack found) := rfl
theorem Packed.wearRefresh (island) (word) : Packed.Statement (.wearRefresh island word) := rfl
theorem Packed.stoptick : Packed.Statement .stoptick := rfl
theorem Packed.clockRestart : Packed.Statement .clockRestart := rfl
theorem Packed.submit (vi) (va) : Packed.Statement (.submit vi va) := rfl
theorem Packed.fdrelease (vi) (value) : Packed.Statement (.fdrelease vi value) := rfl
theorem Packed.ovfClear (vi) : Packed.Statement (.ovfClear vi) := rfl
theorem Packed.configBlockWrite (vi) (offset) (value) : Packed.Statement (.configBlockWrite vi offset value) := rfl
theorem Packed.domainWordWrite (value) : Packed.Statement (.domainWordWrite value) := rfl
theorem Packed.registerWrite (target) (value) : Packed.Statement (.registerWrite target value) := rfl
theorem Packed.linkTraining (port) (peer) : Packed.Statement (.linkTraining port peer) := rfl
theorem Packed.flitReceive (port) (seq) (crcOk) : Packed.Statement (.flitReceive port seq crcOk) := rfl
theorem Packed.peerLost (peer) : Packed.Statement (.peerLost peer) := rfl
theorem Packed.powerWindow (draw) : Packed.Statement (.powerWindow draw) := rfl
theorem Packed.thermalStep (island) (celsius) : Packed.Statement (.thermalStep island celsius) := rfl
theorem Packed.thermalShutdown (island) (celsius) : Packed.Statement (.thermalShutdown island celsius) := rfl
theorem Packed.powerOnBoot (images) : Packed.Statement (.powerOnBoot images) := rfl
theorem Packed.imageLoad (image) : Packed.Statement (.imageLoad image) := rfl
theorem Packed.fuseCommit (vi) (index) (upTo) : Packed.Statement (.fuseCommit vi index upTo) := rfl
theorem Packed.attestationReport (nonce) : Packed.Statement (.attestationReport nonce) := rfl
theorem Packed.filterRefusal (pa) : Packed.Statement (.filterRefusal pa) := rfl
theorem Packed.translationWalkDone (core) (slot) : Packed.Statement (.translationWalkDone core slot) := rfl
theorem Packed.faultServed (saved) : Packed.Statement (.faultServed saved) := rfl
theorem Packed.watchdogRelease (saved) : Packed.Statement (.watchdogRelease saved) := rfl
theorem Packed.standby : Packed.Statement .standby := rfl

/-! Opcodes -/

/-- An instruction's opcode is one of Table 3.15; an event has none. -/
def OpcodeUsed.Statement (i : Instr) : Prop :=
  Machine.Instr.opcode i = 256 ∧ encode i = none ∨ opcodeUsed (Machine.Instr.opcode i) = true

theorem OpcodeUsed.nop (h) (o) : OpcodeUsed.Statement (.nop h o) := .inr rfl
theorem OpcodeUsed.mov (h) (o) : OpcodeUsed.Statement (.mov h o) := .inr rfl
theorem OpcodeUsed.movi (h) (o) : OpcodeUsed.Statement (.movi h o) := .inr rfl
theorem OpcodeUsed.movih (h) (o) : OpcodeUsed.Statement (.movih h o) := .inr rfl
theorem OpcodeUsed.add (h) (o) : OpcodeUsed.Statement (.add h o) := .inr rfl
theorem OpcodeUsed.addi (h) (o) : OpcodeUsed.Statement (.addi h o) := .inr rfl
theorem OpcodeUsed.sub (h) (o) : OpcodeUsed.Statement (.sub h o) := .inr rfl
theorem OpcodeUsed.neg (h) (o) : OpcodeUsed.Statement (.neg h o) := .inr rfl
theorem OpcodeUsed.mul (h) (o) : OpcodeUsed.Statement (.mul h o) := .inr rfl
theorem OpcodeUsed.muli (h) (o) : OpcodeUsed.Statement (.muli h o) := .inr rfl
theorem OpcodeUsed.mulhi (h) (o) : OpcodeUsed.Statement (.mulhi h o) := .inr rfl
theorem OpcodeUsed.mad (h) (o) : OpcodeUsed.Statement (.mad h o) := .inr rfl
theorem OpcodeUsed.madw (h) (o) : OpcodeUsed.Statement (.madw h o) := .inr rfl
theorem OpcodeUsed.minI (h) (o) : OpcodeUsed.Statement (.minI h o) := .inr rfl
theorem OpcodeUsed.maxI (h) (o) : OpcodeUsed.Statement (.maxI h o) := .inr rfl
theorem OpcodeUsed.absI (h) (o) : OpcodeUsed.Statement (.absI h o) := .inr rfl
theorem OpcodeUsed.clamp (h) (o) : OpcodeUsed.Statement (.clamp h o) := .inr rfl
theorem OpcodeUsed.andB (h) (o) : OpcodeUsed.Statement (.andB h o) := .inr rfl
theorem OpcodeUsed.andi (h) (o) : OpcodeUsed.Statement (.andi h o) := .inr rfl
theorem OpcodeUsed.orB (h) (o) : OpcodeUsed.Statement (.orB h o) := .inr rfl
theorem OpcodeUsed.ori (h) (o) : OpcodeUsed.Statement (.ori h o) := .inr rfl
theorem OpcodeUsed.xorB (h) (o) : OpcodeUsed.Statement (.xorB h o) := .inr rfl
theorem OpcodeUsed.xori (h) (o) : OpcodeUsed.Statement (.xori h o) := .inr rfl
theorem OpcodeUsed.notB (h) (o) : OpcodeUsed.Statement (.notB h o) := .inr rfl
theorem OpcodeUsed.andn (h) (o) : OpcodeUsed.Statement (.andn h o) := .inr rfl
theorem OpcodeUsed.shl (h) (o) : OpcodeUsed.Statement (.shl h o) := .inr rfl
theorem OpcodeUsed.shr (h) (o) : OpcodeUsed.Statement (.shr h o) := .inr rfl
theorem OpcodeUsed.shi (h) (o) : OpcodeUsed.Statement (.shi h o) := .inr rfl
theorem OpcodeUsed.rol (h) (o) : OpcodeUsed.Statement (.rol h o) := .inr rfl
theorem OpcodeUsed.ror (h) (o) : OpcodeUsed.Statement (.ror h o) := .inr rfl
theorem OpcodeUsed.bfe (h) (o) : OpcodeUsed.Statement (.bfe h o) := .inr rfl
theorem OpcodeUsed.bfi (h) (o) : OpcodeUsed.Statement (.bfi h o) := .inr rfl
theorem OpcodeUsed.popc (h) (o) : OpcodeUsed.Statement (.popc h o) := .inr rfl
theorem OpcodeUsed.clz (h) (o) : OpcodeUsed.Statement (.clz h o) := .inr rfl
theorem OpcodeUsed.brev (h) (o) : OpcodeUsed.Statement (.brev h o) := .inr rfl
theorem OpcodeUsed.sel (h) (o) : OpcodeUsed.Statement (.sel h o) := .inr rfl
theorem OpcodeUsed.setp (h) (o) : OpcodeUsed.Statement (.setp h o) := .inr rfl
theorem OpcodeUsed.setpi (h) (o) : OpcodeUsed.Statement (.setpi h o) := .inr rfl
theorem OpcodeUsed.lea (h) (o) : OpcodeUsed.Statement (.lea h o) := .inr rfl
theorem OpcodeUsed.rdlane (h) (o) : OpcodeUsed.Statement (.rdlane h o) := .inr rfl
theorem OpcodeUsed.wrlane (h) (o) : OpcodeUsed.Statement (.wrlane h o) := .inr rfl
theorem OpcodeUsed.sext (h) (o) : OpcodeUsed.Statement (.sext h o) := .inr rfl
theorem OpcodeUsed.zext (h) (o) : OpcodeUsed.Statement (.zext h o) := .inr rfl
theorem OpcodeUsed.plop (h) (o) : OpcodeUsed.Statement (.plop h o) := .inr rfl
theorem OpcodeUsed.pmov (h) (o) : OpcodeUsed.Statement (.pmov h o) := .inr rfl
theorem OpcodeUsed.mlop (h) (o) : OpcodeUsed.Statement (.mlop h o) := .inr rfl
theorem OpcodeUsed.mmov (h) (o) : OpcodeUsed.Statement (.mmov h o) := .inr rfl
theorem OpcodeUsed.ballot (h) (o) : OpcodeUsed.Statement (.ballot h o) := .inr rfl
theorem OpcodeUsed.anyP (h) (o) : OpcodeUsed.Statement (.anyP h o) := .inr rfl
theorem OpcodeUsed.allP (h) (o) : OpcodeUsed.Statement (.allP h o) := .inr rfl
theorem OpcodeUsed.mfirst (h) (o) : OpcodeUsed.Statement (.mfirst h o) := .inr rfl
theorem OpcodeUsed.mcount (h) (o) : OpcodeUsed.Statement (.mcount h o) := .inr rfl
theorem OpcodeUsed.mtop (h) (o) : OpcodeUsed.Statement (.mtop h o) := .inr rfl
theorem OpcodeUsed.mseti (h) (o) : OpcodeUsed.Statement (.mseti h o) := .inr rfl
theorem OpcodeUsed.pseti (h) (o) : OpcodeUsed.Statement (.pseti h o) := .inr rfl
theorem OpcodeUsed.br (h) (o) : OpcodeUsed.Statement (.br h o) := .inr rfl
theorem OpcodeUsed.brx (h) (o) : OpcodeUsed.Statement (.brx h o) := .inr rfl
theorem OpcodeUsed.call (h) (o) : OpcodeUsed.Statement (.call h o) := .inr rfl
theorem OpcodeUsed.calli (h) (o) : OpcodeUsed.Statement (.calli h o) := .inr rfl
theorem OpcodeUsed.tcall (h) (o) : OpcodeUsed.Statement (.tcall h o) := .inr rfl
theorem OpcodeUsed.tcallIndirect (h) (o) : OpcodeUsed.Statement (.tcallIndirect h o) := .inr rfl
theorem OpcodeUsed.ret (h) (o) : OpcodeUsed.Statement (.ret h o) := .inr rfl
theorem OpcodeUsed.frame (h) (o) : OpcodeUsed.Statement (.frame h o) := .inr rfl
theorem OpcodeUsed.regang (h) (o) : OpcodeUsed.Statement (.regang h o) := .inr rfl
theorem OpcodeUsed.regangPoint (core) (slot) : OpcodeUsed.Statement (.regangPoint core slot) := .inl ⟨rfl, rfl⟩
theorem OpcodeUsed.gate (h) (o) : OpcodeUsed.Statement (.gate h o) := .inr rfl
theorem OpcodeUsed.gret (h) (o) : OpcodeUsed.Statement (.gret h o) := .inr rfl
theorem OpcodeUsed.yield (h) (o) : OpcodeUsed.Statement (.yield h o) := .inr rfl
theorem OpcodeUsed.exit (h) (o) : OpcodeUsed.Statement (.exit h o) := .inr rfl
theorem OpcodeUsed.trap (h) (o) : OpcodeUsed.Statement (.trap h o) := .inr rfl
theorem OpcodeUsed.bkpt (h) (o) : OpcodeUsed.Statement (.bkpt h o) := .inr rfl
theorem OpcodeUsed.waitk (h) (o) : OpcodeUsed.Statement (.waitk h o) := .inr rfl
theorem OpcodeUsed.supret (h) (o) : OpcodeUsed.Statement (.supret h o) := .inr rfl
theorem OpcodeUsed.fadd (h) (o) : OpcodeUsed.Statement (.fadd h o) := .inr rfl
theorem OpcodeUsed.fsub (h) (o) : OpcodeUsed.Statement (.fsub h o) := .inr rfl
theorem OpcodeUsed.fmul (h) (o) : OpcodeUsed.Statement (.fmul h o) := .inr rfl
theorem OpcodeUsed.ffma (h) (o) : OpcodeUsed.Statement (.ffma h o) := .inr rfl
theorem OpcodeUsed.fmin (h) (o) : OpcodeUsed.Statement (.fmin h o) := .inr rfl
theorem OpcodeUsed.fmax (h) (o) : OpcodeUsed.Statement (.fmax h o) := .inr rfl
theorem OpcodeUsed.fabs (h) (o) : OpcodeUsed.Statement (.fabs h o) := .inr rfl
theorem OpcodeUsed.fneg (h) (o) : OpcodeUsed.Statement (.fneg h o) := .inr rfl
theorem OpcodeUsed.fsetp (h) (o) : OpcodeUsed.Statement (.fsetp h o) := .inr rfl
theorem OpcodeUsed.fclass (h) (o) : OpcodeUsed.Statement (.fclass h o) := .inr rfl
theorem OpcodeUsed.frcp (h) (o) : OpcodeUsed.Statement (.frcp h o) := .inr rfl
theorem OpcodeUsed.fsqrt (h) (o) : OpcodeUsed.Statement (.fsqrt h o) := .inr rfl
theorem OpcodeUsed.frsq (h) (o) : OpcodeUsed.Statement (.frsq h o) := .inr rfl
theorem OpcodeUsed.fexp2 (h) (o) : OpcodeUsed.Statement (.fexp2 h o) := .inr rfl
theorem OpcodeUsed.flog2 (h) (o) : OpcodeUsed.Statement (.flog2 h o) := .inr rfl
theorem OpcodeUsed.faddi (h) (o) : OpcodeUsed.Statement (.faddi h o) := .inr rfl
theorem OpcodeUsed.fmuli (h) (o) : OpcodeUsed.Statement (.fmuli h o) := .inr rfl
theorem OpcodeUsed.fdot2 (h) (o) : OpcodeUsed.Statement (.fdot2 h o) := .inr rfl
theorem OpcodeUsed.frnd (h) (o) : OpcodeUsed.Statement (.frnd h o) := .inr rfl
theorem OpcodeUsed.dadd (h) (o) : OpcodeUsed.Statement (.dadd h o) := .inr rfl
theorem OpcodeUsed.dsub (h) (o) : OpcodeUsed.Statement (.dsub h o) := .inr rfl
theorem OpcodeUsed.dmul (h) (o) : OpcodeUsed.Statement (.dmul h o) := .inr rfl
theorem OpcodeUsed.dfma (h) (o) : OpcodeUsed.Statement (.dfma h o) := .inr rfl
theorem OpcodeUsed.dmin (h) (o) : OpcodeUsed.Statement (.dmin h o) := .inr rfl
theorem OpcodeUsed.dmax (h) (o) : OpcodeUsed.Statement (.dmax h o) := .inr rfl
theorem OpcodeUsed.dsetp (h) (o) : OpcodeUsed.Statement (.dsetp h o) := .inr rfl
theorem OpcodeUsed.dsqrt (h) (o) : OpcodeUsed.Statement (.dsqrt h o) := .inr rfl
theorem OpcodeUsed.cvt (h) (o) : OpcodeUsed.Statement (.cvt h o) := .inr rfl
theorem OpcodeUsed.pcvt (h) (o) : OpcodeUsed.Statement (.pcvt h o) := .inr rfl
theorem OpcodeUsed.qblk (h) (o) : OpcodeUsed.Statement (.qblk h o) := .inr rfl
theorem OpcodeUsed.xshf (h) (o) : OpcodeUsed.Statement (.xshf h o) := .inr rfl
theorem OpcodeUsed.xbcast (h) (o) : OpcodeUsed.Statement (.xbcast h o) := .inr rfl
theorem OpcodeUsed.xred (h) (o) : OpcodeUsed.Statement (.xred h o) := .inr rfl
theorem OpcodeUsed.xscan (h) (o) : OpcodeUsed.Statement (.xscan h o) := .inr rfl
theorem OpcodeUsed.ld (h) (o) : OpcodeUsed.Statement (.ld h o) := .inr rfl
theorem OpcodeUsed.ldH (h) (o) : OpcodeUsed.Statement (.ldH h o) := .inr rfl
theorem OpcodeUsed.st (h) (o) : OpcodeUsed.Statement (.st h o) := .inr rfl
theorem OpcodeUsed.lds (h) (o) : OpcodeUsed.Statement (.lds h o) := .inr rfl
theorem OpcodeUsed.sts (h) (o) : OpcodeUsed.Statement (.sts h o) := .inr rfl
theorem OpcodeUsed.ldl (h) (o) : OpcodeUsed.Statement (.ldl h o) := .inr rfl
theorem OpcodeUsed.atom (h) (o) : OpcodeUsed.Statement (.atom h o) := .inr rfl
theorem OpcodeUsed.atoms (h) (o) : OpcodeUsed.Statement (.atoms h o) := .inr rfl
theorem OpcodeUsed.acq (h) (o) : OpcodeUsed.Statement (.acq h o) := .inr rfl
theorem OpcodeUsed.rel (h) (o) : OpcodeUsed.Statement (.rel h o) := .inr rfl
theorem OpcodeUsed.fence (h) (o) : OpcodeUsed.Statement (.fence h o) := .inr rfl
theorem OpcodeUsed.seal (h) (o) : OpcodeUsed.Statement (.seal h o) := .inr rfl
theorem OpcodeUsed.xkick (h) (o) : OpcodeUsed.Statement (.xkick h o) := .inr rfl
theorem OpcodeUsed.lbinit (h) (o) : OpcodeUsed.Statement (.lbinit h o) := .inr rfl
theorem OpcodeUsed.lbarrive (h) (o) : OpcodeUsed.Statement (.lbarrive h o) := .inr rfl
theorem OpcodeUsed.lbwait (h) (o) : OpcodeUsed.Statement (.lbwait h o) := .inr rfl
theorem OpcodeUsed.landingRelease (core) (slot) (low) : OpcodeUsed.Statement (.landingRelease core slot low) := .inl ⟨rfl, rfl⟩
theorem OpcodeUsed.ringget (h) (o) : OpcodeUsed.Statement (.ringget h o) := .inr rfl
theorem OpcodeUsed.ringgetFree (h) (o) : OpcodeUsed.Statement (.ringgetFree h o) := .inr rfl
theorem OpcodeUsed.ringSlotTaken (core) (slot) (low) : OpcodeUsed.Statement (.ringSlotTaken core slot low) := .inl ⟨rfl, rfl⟩
theorem OpcodeUsed.ringput (h) (o) : OpcodeUsed.Statement (.ringput h o) := .inr rfl
theorem OpcodeUsed.ringputFill (h) (o) : OpcodeUsed.Statement (.ringputFill h o) := .inr rfl
theorem OpcodeUsed.barr (h) (o) : OpcodeUsed.Statement (.barr h o) := .inr rfl
theorem OpcodeUsed.barrierRelease (core) (group) (k) : OpcodeUsed.Statement (.barrierRelease core group k) := .inl ⟨rfl, rfl⟩
theorem OpcodeUsed.launch (h) (o) : OpcodeUsed.Statement (.launch h o) := .inr rfl
theorem OpcodeUsed.rdctr (h) (o) : OpcodeUsed.Statement (.rdctr h o) := .inr rfl
theorem OpcodeUsed.rdtick (h) (o) : OpcodeUsed.Statement (.rdtick h o) := .inr rfl
theorem OpcodeUsed.mfs (h) (o) : OpcodeUsed.Statement (.mfs h o) := .inr rfl
theorem OpcodeUsed.mts (h) (o) : OpcodeUsed.Statement (.mts h o) := .inr rfl
theorem OpcodeUsed.mshape (h) (o) : OpcodeUsed.Statement (.mshape h o) := .inr rfl
theorem OpcodeUsed.mteam (h) (o) : OpcodeUsed.Statement (.mteam h o) := .inr rfl
theorem OpcodeUsed.mteamRd (h) (o) : OpcodeUsed.Statement (.mteamRd h o) := .inr rfl
theorem OpcodeUsed.mstride (h) (o) : OpcodeUsed.Statement (.mstride h o) := .inr rfl
theorem OpcodeUsed.mfence (h) (o) : OpcodeUsed.Statement (.mfence h o) := .inr rfl
theorem OpcodeUsed.bfly (h) (o) : OpcodeUsed.Statement (.bfly h o) := .inr rfl
theorem OpcodeUsed.bchain (h) (o) : OpcodeUsed.Statement (.bchain h o) := .inr rfl
theorem OpcodeUsed.latchOpen (core) (slot) : OpcodeUsed.Statement (.latchOpen core slot) := .inl ⟨rfl, rfl⟩
theorem OpcodeUsed.mscale (h) (o) : OpcodeUsed.Statement (.mscale h o) := .inr rfl
theorem OpcodeUsed.mscaleOut (h) (o) : OpcodeUsed.Statement (.mscaleOut h o) := .inr rfl
theorem OpcodeUsed.mwait (h) (o) : OpcodeUsed.Statement (.mwait h o) := .inr rfl
theorem OpcodeUsed.mload (h) (o) : OpcodeUsed.Statement (.mload h o) := .inr rfl
theorem OpcodeUsed.mstore (h) (o) : OpcodeUsed.Statement (.mstore h o) := .inr rfl
theorem OpcodeUsed.mzero (h) (o) : OpcodeUsed.Statement (.mzero h o) := .inr rfl
theorem OpcodeUsed.stageChunk (core) (pairs) : OpcodeUsed.Statement (.stageChunk core pairs) := .inl ⟨rfl, rfl⟩
theorem OpcodeUsed.stageComplete (core) : OpcodeUsed.Statement (.stageComplete core) := .inl ⟨rfl, rfl⟩
theorem OpcodeUsed.resultComplete (core) (slot) (id) : OpcodeUsed.Statement (.resultComplete core slot id) := .inl ⟨rfl, rfl⟩
theorem OpcodeUsed.copyChunkStart (core) (req) : OpcodeUsed.Statement (.copyChunkStart core req) := .inl ⟨rfl, rfl⟩
theorem OpcodeUsed.copyChunkLand (core) (chunk) : OpcodeUsed.Statement (.copyChunkLand core chunk) := .inl ⟨rfl, rfl⟩
theorem OpcodeUsed.spillLanded (core) (slot) (slice) : OpcodeUsed.Statement (.spillLanded core slot slice) := .inl ⟨rfl, rfl⟩
theorem OpcodeUsed.undertowRefill (core) (slot) (slice) : OpcodeUsed.Statement (.undertowRefill core slot slice) := .inl ⟨rfl, rfl⟩
theorem OpcodeUsed.pendingFaultDelivery (core) (slot) (low) : OpcodeUsed.Statement (.pendingFaultDelivery core slot low) := .inl ⟨rfl, rfl⟩
theorem OpcodeUsed.issueCycle (core) (pipe) : OpcodeUsed.Statement (.issueCycle core pipe) := .inl ⟨rfl, rfl⟩
theorem OpcodeUsed.pendingStarvation (core) (pipe) : OpcodeUsed.Statement (.pendingStarvation core pipe) := .inl ⟨rfl, rfl⟩
theorem OpcodeUsed.fetchLineFill (core) (slot) (low) : OpcodeUsed.Statement (.fetchLineFill core slot low) := .inl ⟨rfl, rfl⟩
theorem OpcodeUsed.forcedPublication (core) : OpcodeUsed.Statement (.forcedPublication core) := .inl ⟨rfl, rfl⟩
theorem OpcodeUsed.segmentWriteDone (core) : OpcodeUsed.Statement (.segmentWriteDone core) := .inl ⟨rfl, rfl⟩
theorem OpcodeUsed.foldNotice (core) (home) : OpcodeUsed.Statement (.foldNotice core home) := .inl ⟨rfl, rfl⟩
theorem OpcodeUsed.noticeAck (core) : OpcodeUsed.Statement (.noticeAck core) := .inl ⟨rfl, rfl⟩
theorem OpcodeUsed.ebbFold (home) : OpcodeUsed.Statement (.ebbFold home) := .inl ⟨rfl, rfl⟩
theorem OpcodeUsed.homeAtomic (core) (slot) (id) (lane) : OpcodeUsed.Statement (.homeAtomic core slot id lane) := .inl ⟨rfl, rfl⟩
theorem OpcodeUsed.shootdownAck (core) : OpcodeUsed.Statement (.shootdownAck core) := .inl ⟨rfl, rfl⟩
theorem OpcodeUsed.replayEntryExpiry (index) : OpcodeUsed.Statement (.replayEntryExpiry index) := .inl ⟨rfl, rfl⟩
theorem OpcodeUsed.atomunkWindowClose (core) (slot) (id) (lane) : OpcodeUsed.Statement (.atomunkWindowClose core slot id lane) := .inl ⟨rfl, rfl⟩
theorem OpcodeUsed.routedRecordAck (core) : OpcodeUsed.Statement (.routedRecordAck core) := .inl ⟨rfl, rfl⟩
theorem OpcodeUsed.appCoreWrite (pa) (bytes) : OpcodeUsed.Statement (.appCoreWrite pa bytes) := .inl ⟨rfl, rfl⟩
theorem OpcodeUsed.pcieRequest (requester) (va) (access) : OpcodeUsed.Statement (.pcieRequest requester va access) := .inl ⟨rfl, rfl⟩
theorem OpcodeUsed.dispatchTurn (cls) : OpcodeUsed.Statement (.dispatchTurn cls) := .inl ⟨rfl, rfl⟩
theorem OpcodeUsed.classHold (vi) (region) : OpcodeUsed.Statement (.classHold vi region) := .inl ⟨rfl, rfl⟩
theorem OpcodeUsed.dependenceMet (launch) (linear) (dep) : OpcodeUsed.Statement (.dependenceMet launch linear dep) := .inl ⟨rfl, rfl⟩
theorem OpcodeUsed.workgroupEnd (core) (group) : OpcodeUsed.Statement (.workgroupEnd core group) := .inl ⟨rfl, rfl⟩
theorem OpcodeUsed.preemptRequest (core) (group) : OpcodeUsed.Statement (.preemptRequest core group) := .inl ⟨rfl, rfl⟩
theorem OpcodeUsed.yieldSave (core) (group) : OpcodeUsed.Statement (.yieldSave core group) := .inl ⟨rfl, rfl⟩
theorem OpcodeUsed.forcedSave (core) (group) : OpcodeUsed.Statement (.forcedSave core group) := .inl ⟨rfl, rfl⟩
theorem OpcodeUsed.watchdog (core) (slot) (low) : OpcodeUsed.Statement (.watchdog core slot low) := .inl ⟨rfl, rfl⟩
theorem OpcodeUsed.debugResume (core) (slot) : OpcodeUsed.Statement (.debugResume core slot) := .inl ⟨rfl, rfl⟩
theorem OpcodeUsed.debugStep (core) (slot) : OpcodeUsed.Statement (.debugStep core slot) := .inl ⟨rfl, rfl⟩
theorem OpcodeUsed.debugKill (core) (slot) : OpcodeUsed.Statement (.debugKill core slot) := .inl ⟨rfl, rfl⟩
theorem OpcodeUsed.daccRead (core) (slot) (slice) (lane) (reg) : OpcodeUsed.Statement (.daccRead core slot slice lane reg) := .inl ⟨rfl, rfl⟩
theorem OpcodeUsed.daccWrite (core) (slot) (slice) (lane) (reg) : OpcodeUsed.Statement (.daccWrite core slot slice lane reg) := .inl ⟨rfl, rfl⟩
theorem OpcodeUsed.counterFreeze (core) (hold) : OpcodeUsed.Statement (.counterFreeze core hold) := .inl ⟨rfl, rfl⟩
theorem OpcodeUsed.tracePeriodicSync (core) : OpcodeUsed.Statement (.tracePeriodicSync core) := .inl ⟨rfl, rfl⟩
theorem OpcodeUsed.traceLoss (core) : OpcodeUsed.Statement (.traceLoss core) := .inl ⟨rfl, rfl⟩
theorem OpcodeUsed.scrubRead (stack) (found) : OpcodeUsed.Statement (.scrubRead stack found) := .inl ⟨rfl, rfl⟩
theorem OpcodeUsed.wearRefresh (island) (word) : OpcodeUsed.Statement (.wearRefresh island word) := .inl ⟨rfl, rfl⟩
theorem OpcodeUsed.stoptick : OpcodeUsed.Statement (.stoptick) := .inl ⟨rfl, rfl⟩
theorem OpcodeUsed.clockRestart : OpcodeUsed.Statement (.clockRestart) := .inl ⟨rfl, rfl⟩
theorem OpcodeUsed.submit (vi) (va) : OpcodeUsed.Statement (.submit vi va) := .inl ⟨rfl, rfl⟩
theorem OpcodeUsed.fdrelease (vi) (value) : OpcodeUsed.Statement (.fdrelease vi value) := .inl ⟨rfl, rfl⟩
theorem OpcodeUsed.ovfClear (vi) : OpcodeUsed.Statement (.ovfClear vi) := .inl ⟨rfl, rfl⟩
theorem OpcodeUsed.configBlockWrite (vi) (offset) (value) : OpcodeUsed.Statement (.configBlockWrite vi offset value) := .inl ⟨rfl, rfl⟩
theorem OpcodeUsed.domainWordWrite (value) : OpcodeUsed.Statement (.domainWordWrite value) := .inl ⟨rfl, rfl⟩
theorem OpcodeUsed.registerWrite (target) (value) : OpcodeUsed.Statement (.registerWrite target value) := .inl ⟨rfl, rfl⟩
theorem OpcodeUsed.linkTraining (port) (peer) : OpcodeUsed.Statement (.linkTraining port peer) := .inl ⟨rfl, rfl⟩
theorem OpcodeUsed.flitReceive (port) (seq) (crcOk) : OpcodeUsed.Statement (.flitReceive port seq crcOk) := .inl ⟨rfl, rfl⟩
theorem OpcodeUsed.peerLost (peer) : OpcodeUsed.Statement (.peerLost peer) := .inl ⟨rfl, rfl⟩
theorem OpcodeUsed.powerWindow (draw) : OpcodeUsed.Statement (.powerWindow draw) := .inl ⟨rfl, rfl⟩
theorem OpcodeUsed.thermalStep (island) (celsius) : OpcodeUsed.Statement (.thermalStep island celsius) := .inl ⟨rfl, rfl⟩
theorem OpcodeUsed.thermalShutdown (island) (celsius) : OpcodeUsed.Statement (.thermalShutdown island celsius) := .inl ⟨rfl, rfl⟩
theorem OpcodeUsed.powerOnBoot (images) : OpcodeUsed.Statement (.powerOnBoot images) := .inl ⟨rfl, rfl⟩
theorem OpcodeUsed.imageLoad (image) : OpcodeUsed.Statement (.imageLoad image) := .inl ⟨rfl, rfl⟩
theorem OpcodeUsed.fuseCommit (vi) (index) (upTo) : OpcodeUsed.Statement (.fuseCommit vi index upTo) := .inl ⟨rfl, rfl⟩
theorem OpcodeUsed.attestationReport (nonce) : OpcodeUsed.Statement (.attestationReport nonce) := .inl ⟨rfl, rfl⟩
theorem OpcodeUsed.filterRefusal (pa) : OpcodeUsed.Statement (.filterRefusal pa) := .inl ⟨rfl, rfl⟩
theorem OpcodeUsed.translationWalkDone (core) (slot) : OpcodeUsed.Statement (.translationWalkDone core slot) := .inl ⟨rfl, rfl⟩
theorem OpcodeUsed.faultServed (saved) : OpcodeUsed.Statement (.faultServed saved) := .inl ⟨rfl, rfl⟩
theorem OpcodeUsed.watchdogRelease (saved) : OpcodeUsed.Statement (.watchdogRelease saved) := .inl ⟨rfl, rfl⟩
theorem OpcodeUsed.standby : OpcodeUsed.Statement (.standby) := .inl ⟨rfl, rfl⟩

end Sys2Proof.Laws
end

