-- ==== Sys2Proof/Tests/Slice0.lean ====
section
/-! SUPPORT. Tests: words written out from the tables of the encoding, ill-formed terms that each check refuses, one small step
of each kind, and for every statement with hypotheses a state and operands that meet them. -/

namespace Sys2Proof.Tests

section
set_option Elab.async false

open Sys2Proof.Machine

/-! Small terms -/

/-- The header of an instruction without guard, stall or tokens. -/
def hh : Header := { lvl := 0, drain := 0, settok := 0, gneg := false, guard := 7, yield := false, stall := 0 }

/-- The same on token 2. -/
def ht : Header := { hh with settok := 2 }

/-- All fields of format A zero. -/
def aa : FmtA :=
  { pdst := 0, sat := false, rm := 0, type := 0, subop := 0, xmod := 0, srcC := .f 0, srcB := .f 0, srcA := .f 0, dst := .f 0 }

/-- All fields of format B zero. -/
def bb : FmtB :=
  { pdst := 0, rm := 0, type := 0, subop := 0, imm := 0, srcA := .f 0, dst := .f 0 }

/-- All fields of format C zero. -/
def cc : FmtC :=
  { subop := 0, mode := 0, k := 0, size := 0, offset := 0, srcB := .f 0, srcA := .f 0 }

/-- All fields of format D zero. -/
def dd : FmtD :=
  { scope := 0, order := 0, hbit := false, size := 0, subop := 0, offset := 0, data := .f 0, index := .f 0, buf := .f 0, dst := .f 0 }

/-- All fields of format E zero. -/
def ee : FmtE :=
  { scope := 0, subop := 0, imm := 0, srcC := .f 0, srcB := .f 0, srcA := .f 0, dst := .f 0 }

/-- All fields of format G zero. -/
def gg : FmtG :=
  { aux := .f 0, subop := 0, sparse := false, split := false, count := 0, stride := 0, acc := 0, fmt := .f 0, opx := .f 0, opw := .f 0 }

/-! One well-formed instruction of each operation -/

def good1 : List Instr :=
  [ .nop hh aa
  , .mov hh { aa with dst := .f 4, srcA := .f 6 }
  , .movi hh { bb with dst := .f 4, imm := 305419896 }
  , .movih hh { bb with dst := .f 4, imm := 7, type := 2 }
  , .add hh { aa with dst := .f 4, srcA := .f 6 }
  , .addi hh { bb with dst := .f 4, srcA := .f 6, imm := 5 }
  , .sub hh { aa with dst := .f 4, srcA := .f 6 }
  , .neg hh { aa with dst := .f 4, srcA := .f 6 }
  , .mul hh { aa with dst := .f 4, srcA := .f 6 }
  , .muli hh { bb with dst := .f 4, srcA := .f 6, imm := 5 }
  , .mulhi hh { aa with dst := .f 4, srcA := .f 6 }
  , .mad hh { aa with dst := .f 4, srcA := .f 6 }
  , .madw hh { aa with dst := .f 4, srcA := .f 6, srcB := .f 7, srcC := .f 8 }
  , .minI hh { aa with dst := .f 4, srcA := .f 6 }
  , .maxI hh { aa with dst := .f 4, srcA := .f 6 }
  , .absI hh { aa with dst := .f 4, srcA := .f 6, type := 1 }
  , .clamp hh { aa with dst := .f 4, srcA := .f 6 }
  , .andB hh { aa with dst := .f 4, srcA := .f 6 }
  , .andi hh { bb with dst := .f 4, srcA := .f 6, imm := 5 }
  , .orB hh { aa with dst := .f 4, srcA := .f 6 }
  , .ori hh { bb with dst := .f 4, srcA := .f 6, imm := 5 }
  , .xorB hh { aa with dst := .f 4, srcA := .f 6 }
  , .xori hh { bb with dst := .f 4, srcA := .f 6, imm := 5 }
  , .notB hh { aa with dst := .f 4, srcA := .f 6 }
  , .andn hh { aa with dst := .f 4, srcA := .f 6 }
  , .shl hh { aa with dst := .f 4, srcA := .f 6 }
  , .shr hh { aa with dst := .f 4, srcA := .f 6 }
  , .shi hh { bb with dst := .f 4, srcA := .f 6, imm := 31, subop := 1 }
  , .rol hh { aa with dst := .f 4, srcA := .f 6 }
  , .ror hh { aa with dst := .f 4, srcA := .f 6 } ]

def good2 : List Instr :=
  [ .bfe hh { aa with dst := .f 4, srcA := .f 6 }
  , .bfi hh { aa with dst := .f 4, srcA := .f 6 }
  , .popc hh { aa with dst := .f 4, srcA := .f 6 }
  , .clz hh { aa with dst := .f 4, srcA := .f 6 }
  , .brev hh { aa with dst := .f 4, srcA := .f 6 }
  , .sel hh { aa with dst := .f 4, srcA := .f 6, srcB := .f 8, srcC := .p 1 }
  , .setp hh { aa with dst := .p 7, srcA := .f 6, srcB := .f 8, srcC := .p 2, subop := 13 }
  , .setpi hh { bb with dst := .p 1, srcA := .f 6, imm := 9, subop := 5 }
  , .lea hh { aa with dst := .f 4, srcA := .f 6, srcB := .f 7, subop := 15 }
  , .rdlane hh { aa with dst := .s 31, srcA := .f 47, srcB := .c 31 }
  , .wrlane hh { aa with dst := .f 47, srcA := .s 31, srcB := .s 0 }
  , .sext hh { aa with dst := .f 4, srcA := .f 6, type := 1 }
  , .zext hh { aa with dst := .s 4, srcA := .s 6, type := 10 }
  , .plop hh { aa with dst := .p 6, srcA := .p 1, srcB := .p 2, srcC := .p 3, subop := 8 }
  , .pmov hh { aa with dst := .p 1, srcA := .f 6 }
  , .mlop hh { aa with dst := .m 0, srcA := .m 1, srcB := .s 2 }
  , .mmov hh { aa with dst := .m 7, srcA := .s 6 }
  , .ballot hh { aa with dst := .m 1, srcA := .p 1 }
  , .anyP hh { aa with dst := .p 1, srcA := .p 2, subop := 2 }
  , .allP hh { aa with dst := .p 1, srcA := .p 2, subop := 2 }
  , .mfirst hh { aa with dst := .s 1, srcA := .m 0 }
  , .mcount hh { aa with dst := .s 1, srcA := .m 0 }
  , .mtop hh { aa with dst := .s 1, srcA := .m 0 }
  , .mseti hh { bb with dst := .m 1, imm := 255, subop := 2 }
  , .pseti hh { bb with dst := .p 1, imm := 255 }
  , .br hh { cc with srcA := .p 7, offset := 3 }
  , .brx hh { cc with srcA := .s 1, srcB := .p 7 }
  , .call hh { cc with size := 8, k := 2, offset := 2 }
  , .calli hh { cc with size := 8, k := 2, srcA := .m 1, srcB := .f 4 }
  , .tcall hh { cc with size := 16, offset := 2 } ]

def good3 : List Instr :=
  [ .tcallIndirect hh { cc with size := 16, subop := 1, srcA := .s 1 }
  , .ret hh cc
  , .frame hh { cc with size := 62 }
  , .regang hh cc
  , .gate hh { cc with offset := 4095, srcA := .p 1 }
  , .gret hh cc
  , .yield hh cc
  , .exit hh cc
  , .trap hh { cc with offset := 65535 }
  , .bkpt hh { cc with offset := 65535 }
  , .waitk hh { cc with subop := 5, offset := 63 }
  , .supret hh cc
  , .fadd hh { aa with dst := .f 4, srcA := .f 6, srcB := .f 7, type := 4, rm := 3 }
  , .fsub hh { aa with dst := .f 4, srcA := .f 6, srcB := .f 7, type := 4, rm := 3 }
  , .fmul hh { aa with dst := .f 4, srcA := .f 6, srcB := .f 7, type := 4, rm := 3 }
  , .ffma hh { aa with dst := .f 4, srcA := .f 6, srcB := .f 7, srcC := .c 31, type := 6, rm := 1 }
  , .fmin hh { aa with dst := .f 4, srcA := .f 6, srcB := .f 7, type := 5 }
  , .fmax hh { aa with dst := .f 4, srcA := .f 6, srcB := .f 7, type := 5 }
  , .fabs hh { aa with dst := .f 4, srcA := .f 6, type := 4 }
  , .fneg hh { aa with dst := .f 4, srcA := .f 6, type := 4 }
  , .fsetp hh { aa with dst := .p 1, srcA := .f 6, srcB := .f 7, type := 4, subop := 2 }
  , .fclass hh { aa with dst := .f 4, srcA := .f 6, type := 4 }
  , .frcp hh { aa with dst := .f 4, srcA := .f 6, type := 4, rm := 2 }
  , .fsqrt hh { aa with dst := .f 4, srcA := .f 6, type := 4, rm := 2 }
  , .frsq hh { aa with dst := .f 4, srcA := .f 6, type := 4 }
  , .fexp2 hh { aa with dst := .f 4, srcA := .f 6, type := 4 }
  , .flog2 hh { aa with dst := .f 4, srcA := .f 6, type := 4 }
  , .faddi hh { bb with dst := .f 4, srcA := .f 6, type := 5, imm := 1065369472 }
  , .fmuli hh { bb with dst := .f 4, srcA := .f 6, type := 5, imm := 1065369472 }
  , .fdot2 hh { aa with dst := .f 4, srcA := .f 6, srcB := .f 7, srcC := .f 8, type := 6 } ]

def good4 : List Instr :=
  [ .frnd hh { aa with dst := .f 4, srcA := .f 6, type := 4, rm := 2 }
  , .dadd hh { aa with dst := .f 4, srcA := .f 6, srcB := .f 8, type := 7 }
  , .dsub hh { aa with dst := .f 4, srcA := .f 6, srcB := .f 8, type := 7 }
  , .dmul hh { aa with dst := .f 4, srcA := .f 6, srcB := .f 8, type := 7 }
  , .dfma hh { aa with dst := .s 4, srcA := .s 6, srcB := .s 8, srcC := .s 2, type := 7 }
  , .dmin hh { aa with dst := .f 4, srcA := .f 6, srcB := .f 8, type := 7 }
  , .dmax hh { aa with dst := .f 4, srcA := .f 6, srcB := .f 8, type := 7 }
  , .dsetp hh { aa with dst := .p 1, srcA := .f 6, srcB := .f 8, type := 7 }
  , .dsqrt hh { aa with dst := .f 4, srcA := .f 6, type := 7, rm := 1 }
  , .cvt hh { aa with dst := .f 4, srcA := .f 6, type := 6, subop := 0 }
  , .pcvt hh { aa with dst := .f 4, srcA := .f 6, srcB := .s 1, type := 15, subop := 0, pdst := 1 }
  , .qblk hh { aa with dst := .f 4, srcA := .f 6, srcB := .s 1, type := 15, subop := 0, pdst := 1 }
  , .xshf hh { aa with dst := .f 4, srcA := .f 6, srcB := .f 7, subop := 3 }
  , .xbcast hh { aa with dst := .f 4, srcA := .f 6, srcB := .s 1 }
  , .xred hh { aa with dst := .f 4, srcA := .f 6, type := 1, pdst := 2 }
  , .xscan hh { aa with dst := .f 4, srcA := .f 6, subop := 8, pdst := 1 }
  , .ld hh { dd with dst := .f 4, buf := .b 1, index := .f 6, size := 2 }
  , .ldH hh { dd with dst := .f 4, buf := .b 1, index := .f 6, size := 2, hbit := true }
  , .st hh { dd with buf := .b 1, index := .f 6, data := .f 4, size := 2 }
  , .lds hh { dd with dst := .f 4, buf := .f 6, size := 2 }
  , .sts hh { dd with buf := .f 6, data := .f 4, size := 2 }
  , .ldl hh { dd with buf := .b 1, index := .f 6, data := .f 4, size := 2 }
  , .atom hh { dd with dst := .f 4, buf := .b 1, index := .f 6, data := .f 7, size := 2, subop := 4, scope := 2 }
  , .atoms hh { dd with dst := .f 4, buf := .f 6, data := .f 7, size := 2, subop := 15 }
  , .acq hh { dd with scope := 5 }
  , .rel hh { dd with scope := 5 }
  , .fence hh { dd with scope := 5 }
  , .seal hh dd
  , .xkick hh { ee with srcA := .s 1 }
  , .lbinit hh { ee with srcA := .s 1, srcB := .s 2, imm := 1, subop := 1 } ]

def good5 : List Instr :=
  [ .lbarrive hh { ee with srcA := .s 1, srcB := .c 1 }
  , .lbwait hh { ee with srcA := .s 1, imm := 1 }
  , .ringget hh { ee with srcA := .s 1, dst := .s 2 }
  , .ringgetFree hh { ee with srcA := .s 1, dst := .s 2, subop := 1 }
  , .ringput hh { ee with srcA := .s 1 }
  , .ringputFill hh { ee with srcA := .s 1, subop := 1 }
  , .barr hh { ee with srcA := .c 0, imm := 15 }
  , .launch hh { ee with srcA := .s 1, dst := .s 2 }
  , .rdctr hh { ee with dst := .s 2, imm := 1024 }
  , .rdtick hh { ee with dst := .s 2 }
  , .mfs hh { ee with dst := .f 4, imm := 6 }
  , .mts hh { ee with srcA := .s 1, imm := 19 }
  , .mshape hh { gg with opx := .s 1, opw := .s 2 }
  , .mteam hh { gg with opx := .s 1 }
  , .mteamRd hh { gg with opw := .s 1, subop := 1 }
  , .mstride hh { gg with opx := .s 1, stride := 7 }
  , .mfence hh gg
  , .bfly hh { gg with fmt := .s 1, opx := .f 4, opw := .s 2 }
  , .bchain hh { gg with fmt := .s 1, opx := .f 4, opw := .s 2, count := 8 }
  , .mscale hh { gg with opx := .s 1, opw := .s 2, aux := .s 3 }
  , .mscaleOut hh { gg with opx := .s 1, opw := .s 2, aux := .s 3, subop := 1 }
  , .mwait hh { gg with subop := 5 }
  , .mload hh { gg with opx := .s 2, aux := .s 1 }
  , .mstore hh { gg with opx := .s 2, aux := .s 1 }
  , .mzero hh { gg with count := 8 } ]

/-! Encoding -/

/-- Well-formed, with a slot of 96 bits that decodes to the instruction again. -/
def roundTrips (i : Instr) : Bool :=
  Instr.wellFormed i && (match encode i with
    | none => false
    | some w => decide (w < 2 ^ 96) && (match decodeSlot w with | .ok j => decide (j = i) | .error _ => false))

theorem test_round_trip_1 : good1.all roundTrips = true := by decide +kernel
theorem test_round_trip_2 : good2.all roundTrips = true := by decide +kernel
theorem test_round_trip_3 : good3.all roundTrips = true := by decide +kernel
theorem test_round_trip_4 : good4.all roundTrips = true := by decide +kernel
theorem test_round_trip_5 : good5.all roundTrips = true := by decide +kernel

/-! The spec's worked encodings that no statement uses -/

theorem test_decode_mov_xor : decodeSlot 0x00000050000000090000E001 = .ok (.mov hh { aa with xmod := 0x50, dst := .f 9 }) := by decide +kernel

theorem test_decode_mulhi_guarded : decodeSlot 0x00000000004C00050000250A
    = .ok (.mulhi { hh with guard := 1, stall := 5 } { aa with srcB := .s 12, srcA := .f 0, dst := .f 5 }) := by decide +kernel

theorem test_decode_calli : decodeSlot 0x00010400000008750010E043
    = .ok (.calli { hh with drain := 1 } { cc with k := 2, size := 4, srcA := .m 5, srcB := .f 8 }) := by decide +kernel

theorem test_decode_tcall : decodeSlot 0x01000400000000540000E044
    = .ok (.tcallIndirect hh { cc with subop := 1, size := 4, srcA := .s 20 }) := by decide +kernel

theorem test_decode_br : decodeSlot 0x00000000000800790000E040 = .ok (.br hh { cc with offset := 8, srcA := .p 1 }) := by decide +kernel

theorem test_decode_bfly : decodeSlot 0x00000000204C4A480002E0E4
    = .ok (.bfly { hh with settok := 1 } { gg with stride := 1, fmt := .s 12, opx := .s 10, opw := .s 8 }) := by decide +kernel

theorem test_decode_xkick : decodeSlot 0x00000000000080000014E0D0
    = .ok (.xkick { hh with drain := 1, settok := 2 } { ee with srcA := .c 0 }) := by decide +kernel

/-! Words written out field by field from Tables 3.2 to 3.9 and 3.12, one for each family without a worked encoding -/

/-- PLOP.sel p6, p1, p2, p3. -/
theorem test_decode_plop : decodeSlot (0x30 + 2 ^ 13 * 7 + 2 ^ 32 * 0x7E + 2 ^ 40 * 0x79 + 2 ^ 48 * 0x7A + 2 ^ 56 * 0x7B + 2 ^ 72 * 8)
    = .ok (.plop hh { aa with subop := 8, srcC := .p 3, srcB := .p 2, srcA := .p 1, dst := .p 6 }) := by decide +kernel

/-- DFMA.rz s4, s6, s8, s2. -/
theorem test_decode_dfma : decodeSlot (0x8B + 2 ^ 13 * 7 + 2 ^ 32 * 0x44 + 2 ^ 40 * 0x46 + 2 ^ 48 * 0x48 + 2 ^ 56 * 0x42 + 2 ^ 76 * 7 + 2 ^ 80)
    = .ok (.dfma hh { aa with rm := 1, type := 7, srcC := .s 2, srcB := .s 8, srcA := .s 6, dst := .s 4 }) := by decide +kernel

/-- CVT.bf16.f32 with the high half of the destination (HSEL 4 in the PDST field). -/
theorem test_decode_cvt : decodeSlot (0x90 + 2 ^ 13 * 7 + 2 ^ 32 * 4 + 2 ^ 40 * 1 + 2 ^ 76 * 1 + 2 ^ 83 * 4)
    = .ok (.cvt hh { aa with pdst := 4, type := 1, srcA := .f 1, dst := .f 4 }) := by decide +kernel

/-- MLOAD.bf16 of pair s2 and shape s1 into a3, on token t0. -/
theorem test_decode_mload : decodeSlot (0xE8 + 2 ^ 13 * 7 + 2 ^ 17 + 2 ^ 40 * 0x42 + 2 ^ 56 * 3 + 2 ^ 73 * 1 + 2 ^ 77 * 0x41)
    = .ok (.mload { hh with settok := 1 } { gg with aux := .s 1, subop := 1, acc := 3, opx := .s 2 }) := by decide +kernel

/-- MTS FSTATUS, s1. -/
theorem test_decode_mts : decodeSlot (0xF3 + 2 ^ 13 * 7 + 2 ^ 40 * 0x41 + 2 ^ 64 * 0x13)
    = .ok (.mts hh { ee with imm := 0x13, srcA := .s 1 }) := by decide +kernel

/-- A nonzero reserved bit of the header, of the format, and a slot of eleven bytes. -/
theorem test_decode_reserved : decodeSlot (0x04 + 2 ^ 31) = .error .header ∧ decodeSlot (0x04 + 2 ^ 95) = .error .format
    ∧ decode (List.replicate 11 0) = .error .short := by decide +kernel

/-! Ill-formed terms, one or more for each check of the fields (R72, R77, R81, R83 and the entries) -/

def bad1 : List Instr :=
  [ .add { hh with settok := 7 } { aa with dst := .f 4, srcA := .f 6 } -- set-token 7
  , .add { hh with lvl := 1 } { aa with dst := .f 4, srcA := .f 6 } -- a drain level without a drain
  , .add hh { aa with dst := .f 4, srcA := .f 6, type := 7 } -- type .f64
  , .add hh { aa with dst := .f 4, srcA := .f 6, type := 4 } -- type .f32
  , .add hh { aa with dst := .p 1, srcA := .f 6 } -- a p destination
  , .add hh { aa with dst := .f 5, srcA := .f 6, type := 2 } -- an odd pair
  , .add hh { aa with dst := .f 4, srcA := .f 6, type := 2, srcB := .f 3 } -- a source of a pair odd
  , .add hh { aa with dst := .f 4, srcA := .f 6, rm := 1 } -- a rounding mode
  , .add hh { aa with dst := .f 4, srcA := .f 6, srcC := .f 1 } -- an unused source
  , .add hh { aa with dst := .s 1, srcA := .s 2, subop := 1, srcC := .p 1, pdst := 7 } -- the carry-in in the scalar form
  , .add hh { aa with dst := .f 4, srcA := .f 6, subop := 1, srcC := .f 1 } -- a carry-in that is no p
  , .add hh { aa with dst := .f 4, srcA := .f 6, subop := 2 } -- SUBOP 2
  , .add hh { aa with dst := .s 1, srcA := .s 2, srcB := .s 3, pdst := 1 } -- a scalar form with PDST
  , .add hh { aa with dst := .s 1, srcA := .f 2, srcB := .s 3, pdst := 7 } -- an f source in the scalar form
  , .add hh { aa with dst := .s 1, srcA := .s 2, srcB := .s 3, pdst := 7, xmod := 65 } -- XMOD in the scalar form
  , .add hh { aa with dst := .f 4, srcA := .c 1, xmod := 65 } -- XMOD on a constant
  , .add hh { aa with dst := .f 4, srcA := .m 1 } -- an m source
  , .mulhi hh { aa with dst := .f 4, srcA := .f 6, sat := true } -- SAT
  , .mulhi hh { aa with dst := .f 4, srcA := .f 6, pdst := 7 } -- PDST
  , .absI hh { aa with dst := .f 4, srcA := .f 6, type := 0 } -- a .b type
  , .addi hh { bb with dst := .f 4, srcA := .f 6, imm := 5, subop := 1 } -- SUBOP 1
  , .movi hh { bb with dst := .f 4, imm := 305419896, srcA := .f 1 } -- a source
  , .movih hh { bb with dst := .f 4, imm := 7, type := 0 } -- type .b32
  , .shi hh { bb with dst := .f 4, srcA := .f 6, imm := 32, subop := 1 } -- a shift of the width
  , .mov hh { aa with dst := .b 1, srcA := .s 1 } -- a record half of type .b32
  , .mov hh { aa with dst := .b 1, srcA := .f 6, type := 2 } -- a record half from an f
  , .mov hh { aa with dst := .f 4, srcA := .f 6, subop := 1 } -- SUBOP 1 on registers
  , .madw hh { aa with dst := .f 4, srcA := .f 6, srcB := .f 7, srcC := .f 8, type := 2 } -- type .b64
  , .madw hh { aa with dst := .f 4, srcA := .f 6, srcB := .f 7, srcC := .f 9 } -- an odd c
  , .lea hh { aa with dst := .f 4, srcA := .f 7, srcB := .f 7, subop := 15 } -- an odd a
  , .sel hh { aa with dst := .f 4, srcA := .f 6, srcB := .f 8, srcC := .f 1 } -- no predicate
  , .sel hh { aa with dst := .s 1, srcA := .f 6, srcB := .f 8, srcC := .p 1 } -- a scalar destination
  , .setp hh { aa with dst := .f 1, srcA := .f 6, srcB := .f 8, srcC := .p 2, subop := 13 } -- an f destination
  , .setp hh { aa with dst := .p 7, srcA := .f 6, srcB := .f 8, srcC := .p 2, subop := 6 } -- condition 6
  , .setp hh { aa with dst := .p 7, srcA := .f 6, srcB := .f 8, srcC := .p 2, subop := 2 } -- SRCC without .and
  ]

def bad2 : List Instr :=
  [ .setpi hh { bb with dst := .p 1, srcA := .f 6, imm := 9, subop := 9 } -- .and
  , .rdlane hh { aa with dst := .s 31, srcA := .s 1, srcB := .c 31 } -- an s source
  , .wrlane hh { aa with dst := .s 1, srcA := .s 31, srcB := .s 0 } -- an s destination
  , .sext hh { aa with dst := .f 4, srcA := .f 6, type := 10 } -- type .b8
  , .zext hh { aa with dst := .s 4, srcA := .s 6, type := 11 } -- type .s8
  , .plop hh { aa with dst := .p 6, srcA := .p 1, srcB := .p 2, srcC := .p 3, subop := 9 } -- SUBOP 9
  , .plop hh { aa with dst := .p 6, srcA := .p 1, srcB := .p 2, srcC := .p 3, subop := 5 } -- a source that .not does not read
  , .mlop hh { aa with dst := .p 1, srcA := .m 1, srcB := .s 2 } -- a p destination
  , .pmov hh { aa with dst := .f 1, srcA := .m 1 } -- an m to f
  , .mmov hh { aa with dst := .s 1, srcA := .s 2 } -- s to s
  , .ballot hh { aa with dst := .m 1, srcA := .f 1 } -- an f source
  , .anyP hh { aa with dst := .p 1, srcA := .p 2, subop := 3 } -- scope 3
  , .mfirst hh { aa with dst := .p 1, srcA := .m 0 } -- a p destination
  , .mseti hh { bb with dst := .m 1, imm := 255, subop := 3 } -- SUBOP 3
  , .pseti hh { bb with dst := .m 1, imm := 255 } -- an m destination
  , .br hh { cc with srcA := .p 7, offset := 3, mode := 3 } -- MODE 3
  , .br hh { cc with srcA := .f 0, offset := 3 } -- no predicate
  , .brx hh { cc with srcA := .f 3, srcB := .p 7, subop := 1 } -- an odd pair
  , .brx hh { cc with srcA := .s 1, srcB := .p 7, offset := 1 } -- an offset
  , .call hh { cc with size := 0, k := 0, offset := 2 } -- SIZE 0
  , .call hh { cc with size := 65, k := 2, offset := 2 } -- SIZE 65
  , .call hh { cc with size := 8, k := 9, offset := 2 } -- k above SIZE
  , .calli hh { cc with size := 8, k := 2, srcA := .m 0, srcB := .f 4 } -- m0 as the mask
  , .calli hh { cc with size := 8, k := 2, srcA := .m 1, srcB := .f 5 } -- an odd pair
  , .tcall hh { cc with size := 16, offset := 2, k := 1 } -- K
  , .tcallIndirect hh { cc with size := 16, subop := 1, srcA := .f 1 } -- an f register
  , .frame hh { cc with size := 62, offset := 1 } -- an offset
  , .ret hh { cc with subop := 1 } -- a SUBOP
  , .gate hh { cc with offset := 4096, srcA := .p 1 } -- index 4096
  , .gate hh { cc with offset := 4095, srcA := .p 1, subop := 1, srcB := .s 1 } -- an offset with a register
  , .trap hh { cc with offset := 65536 } -- a code of 17 bits
  , .waitk hh { cc with subop := 6, offset := 63 } -- token 6
  , .waitk hh { cc with subop := 5, offset := 64 } -- level 64
  , .fadd hh { aa with dst := .f 4, srcA := .f 6, srcB := .f 7, type := 0, rm := 3 } -- type .b32
  , .fadd hh { aa with dst := .f 4, srcA := .f 6, srcB := .f 7, type := 4, rm := 3, sat := true } -- SAT
  ]

def bad3 : List Instr :=
  [ .fmin hh { aa with dst := .f 4, srcA := .f 6, srcB := .f 7, type := 5, rm := 1 } -- a rounding mode
  , .ffma hh { aa with dst := .f 4, srcA := .f 6, srcB := .f 7, srcC := .p 1, type := 6, rm := 1 } -- a predicate source
  , .fsetp hh { aa with dst := .p 1, srcA := .f 6, srcB := .f 7, type := 5, subop := 2 } -- type .bf16
  , .fclass hh { aa with dst := .f 4, srcA := .f 6, type := 4, srcB := .s 1 } -- a mask with an f destination
  , .frcp hh { aa with dst := .f 4, srcA := .f 6, type := 6, rm := 2 } -- type .f16
  , .faddi hh { bb with dst := .f 4, srcA := .f 6, type := 5, imm := 1065369472, pdst := 1 } -- PDST
  , .fdot2 hh { aa with dst := .f 4, srcA := .f 6, srcB := .f 7, srcC := .f 8, type := 4 } -- type .f32
  , .dadd hh { aa with dst := .f 5, srcA := .f 6, srcB := .f 8, type := 7 } -- an odd pair
  , .dsetp hh { aa with dst := .p 1, srcA := .f 6, srcB := .f 8, type := 4 } -- type .f32
  , .cvt hh { aa with dst := .f 4, srcA := .f 6, type := 9, subop := 0 } -- a BFP format
  , .cvt hh { aa with dst := .f 4, srcA := .f 6, type := 0, subop := 6, sat := true } -- SAT with a float
  , .cvt hh { aa with dst := .f 4, srcA := .f 6, type := 6, subop := 0, pdst := 1 } -- HSEL 1 of a whole register
  , .cvt hh { aa with dst := .f 4, srcA := .f 6, type := 6, subop := 6, pdst := 4 } -- .s64 from an integer
  , .pcvt hh { aa with dst := .f 4, srcA := .f 6, srcB := .s 1, type := 15, subop := 0, pdst := 3 } -- COUNT 3
  , .pcvt hh { aa with dst := .f 4, srcA := .f 6, srcB := .s 1, type := 15, subop := 0, pdst := 2 } -- more than 32 bits
  , .pcvt hh { aa with dst := .f 4, srcA := .f 6, srcB := .s 1, type := 1, subop := 0, pdst := 1 } -- two floats
  , .qblk hh { aa with dst := .f 4, srcA := .f 6, srcB := .f 1, type := 15, subop := 0, pdst := 1 } -- an f exponent
  , .xshf hh { aa with dst := .f 4, srcA := .f 6, srcB := .f 7, subop := 3, type := 8 } -- type .b16
  , .xbcast hh { aa with dst := .f 4, srcA := .f 6, srcB := .s 1, subop := 2 } -- SUBOP 2
  , .xred hh { aa with dst := .f 4, srcA := .f 6, type := 1, pdst := 2, subop := 6 } -- operation 6
  , .xred hh { aa with dst := .f 4, srcA := .f 6, type := 1, pdst := 2, subop := 8 } -- bit 3
  , .xred hh { aa with dst := .s 1, srcA := .f 6, type := 1, pdst := 1 } -- an s destination in slices
  , .xscan hh { aa with dst := .s 1, srcA := .f 6, subop := 8, pdst := 1 } -- an s destination
  , .xred hh { aa with dst := .f 4, srcA := .f 6, type := 4, pdst := 2, subop := 3 } -- .and under .f32
  , .ld hh { dd with dst := .f 4, buf := .b 1, index := .f 6, size := 7 } -- size 7
  , .ld hh { dd with dst := .f 4, buf := .f 1, index := .f 6, size := 2 } -- an f record
  , .ld hh { dd with dst := .f 2, buf := .b 1, index := .f 6, size := 4 } -- a group not aligned
  , .ld hh { dd with dst := .s 1, buf := .b 1, index := .f 6, size := 2 } -- an f index in the scalar form
  , .ld hh { dd with dst := .f 4, buf := .b 1, index := .f 6, size := 3, subop := 1 } -- the sign of 64 bits
  , .ldH hh { dd with dst := .f 4, buf := .b 1, index := .f 6, size := 2, hbit := false } -- H 0
  , .st hh { dd with buf := .b 1, index := .f 6, data := .f 4, size := 2, dst := .f 1 } -- a destination
  , .lds hh { dd with dst := .f 4, buf := .f 6, size := 2, subop := 4 } -- SUBOP 4
  , .sts hh { dd with buf := .f 6, data := .f 4, size := 2, subop := 1 } -- SUBOP 1
  , .ldl hh { dd with buf := .b 1, index := .f 6, data := .f 4, size := 0 } -- a byte
  , .atom hh { dd with dst := .f 4, buf := .b 1, index := .f 6, data := .f 7, size := 2, subop := 4, scope := 0 } -- scope 0
  ]

def bad4 : List Instr :=
  [ .atom hh { dd with dst := .f 4, buf := .b 1, index := .f 6, data := .f 7, size := 1, subop := 4, scope := 2 } -- 16 bits
  , .atom hh { dd with dst := .f 4, buf := .b 1, index := .f 6, data := .f 8, size := 3, subop := 12, scope := 2 } -- a float of 64 bits
  , .atom hh { dd with dst := .f 4, buf := .b 1, index := .f 6, data := .f 7, size := 2, subop := 4, scope := 2, offset := 256 } -- a log set without acquire
  , .atom hh { dd with dst := .f 4, buf := .b 1, index := .f 6, data := .f 7, size := 2, subop := 1, scope := 2 } -- a destination of .st
  , .atoms hh { dd with dst := .f 4, buf := .f 6, data := .f 7, size := 2, subop := 15, scope := 1 } -- a scope
  , .acq hh { dd with scope := 0, offset := 256 } -- a log set in warp scope
  , .rel hh { dd with scope := 5, offset := 1 } -- an offset
  , .seal hh { dd with scope := 1 } -- a scope
  , .xkick hh { ee with srcA := .s 1, scope := 1 } -- a scope
  , .lbinit hh { ee with srcA := .s 1, srcB := .s 2, imm := 2, subop := 1 } -- IMM 2
  , .lbinit hh { ee with srcA := .s 1, srcB := .s 2, imm := 1, subop := 2 } -- SUBOP 2
  , .lbwait hh { ee with srcA := .s 1, imm := 2 } -- IMM 2
  , .ringget hh { ee with srcA := .s 1, dst := .f 1 } -- an f destination
  , .ringgetFree hh { ee with srcA := .s 1, dst := .s 2, subop := 0 } -- SUBOP 0
  , .barr hh { ee with srcA := .c 0, imm := 16 } -- barrier 16
  , .launch hh { ee with srcA := .f 1, dst := .s 2 } -- an f descriptor
  , .rdctr hh { ee with dst := .s 2, imm := 48 } -- an unlisted number
  , .rdctr hh { ee with dst := .s 2, imm := 1280 } -- PIPE with ALL
  , .mfs hh { ee with dst := .s 1, imm := 6 } -- LANE to a scalar
  , .mfs hh { ee with dst := .f 4, imm := 3 } -- a wide register to f
  , .mts hh { ee with srcA := .s 1, imm := 1 } -- a read-only register
  , .mshape hh { gg with opx := .s 1, opw := .s 2, sparse := true } -- SPARSE
  , .mteam hh { gg with opx := .s 1, opw := .s 1 } -- a destination
  , .mteamRd hh { gg with opw := .s 1, subop := 0 } -- SUBOP 0
  , .mstride hh { gg with opx := .s 1, stride := 7, count := 1 } -- a COUNT
  , .mfence hh { gg with opx := .s 1 } -- an operand
  , .bfly hh { gg with fmt := .s 1, opx := .s 4, opw := .s 2, split := true, stride := 1 } -- SPLIT with a stride
  , .bfly hh { gg with fmt := .s 1, opx := .f 4, opw := .s 3 } -- an odd scalar pair
  , .bchain hh { gg with fmt := .s 1, opx := .f 4, opw := .s 2, count := 9 } -- length 9
  , .bchain hh { gg with fmt := .s 1, opx := .f 4, opw := .s 2, count := 8, stride := 1 } -- strides beyond bs7
  , .mscale hh { gg with opx := .f 1, opw := .s 2, aux := .s 3 } -- a frame operand
  , .mscaleOut hh { gg with opx := .s 1, opw := .s 2, aux := .s 3, subop := 0 } -- SUBOP 0
  , .mwait hh { gg with subop := 6 } -- token 6
  , .mload hh { gg with opx := .s 2, aux := .s 1, subop := 9 } -- a BFP format
  ]

def bad5 : List Instr :=
  [ .mstore hh { gg with opx := .s 2, aux := .s 1, subop := 4 } -- a format that does not exist
  , .mzero hh { gg with count := 0 } -- no region
  , .mzero hh { gg with count := 33 } -- 33 regions
  ]

theorem test_ill_formed_1 : bad1.all (fun i => !Instr.wellFormed i) = true := by decide +kernel
theorem test_ill_formed_2 : bad2.all (fun i => !Instr.wellFormed i) = true := by decide +kernel
theorem test_ill_formed_3 : bad3.all (fun i => !Instr.wellFormed i) = true := by decide +kernel
theorem test_ill_formed_4 : bad4.all (fun i => !Instr.wellFormed i) = true := by decide +kernel
theorem test_ill_formed_5 : bad5.all (fun i => !Instr.wellFormed i) = true := by decide +kernel

/-! Where an instruction issues -/

/-- What must hold for an instruction to issue, one field of `State.Issues` after the other. -/
def issueChecks (s : State) (u : Cur) (i : Instr) : List Bool :=
  [ decide (s.cur = some u), s.standing u, decide (u.pos ≠ .probe), !s.heldNow u, (s.deliverPending u.core u.slot u.gang).isNone
  , (s.precheck u i).isNone, (s.instrHold u.core u.slot u.gang i).isNone, !s.stallchk u i, decide (s.meetRows u i = (s, none)) ]

/-- `State.Issues`, decided. -/
def readyNow (s : State) (u : Cur) (i : Instr) : Bool := (issueChecks s u i).all id

theorem issues_of_ready {s : State} {u : Cur} {i : Instr} (ready : readyNow s u i = true) : s.Issues u i := by
  have hold : ∀ b ∈ issueChecks s u i, b = true := List.all_eq_true.mp ready
  exact {
    cur := of_decide_eq_true (hold _ (by simp [issueChecks]))
    stands := hold (s.standing u) (by simp [issueChecks])
    place := of_decide_eq_true (hold (decide (u.pos ≠ .probe)) (by simp [issueChecks]))
    free := by simpa using hold (!s.heldNow u) (by simp [issueChecks])
    calm := Option.isNone_iff_eq_none.mp (hold _ (by simp [issueChecks]))
    legal := Option.isNone_iff_eq_none.mp (hold (s.precheck u i).isNone (by simp [issueChecks]))
    ready := Option.isNone_iff_eq_none.mp (hold (s.instrHold u.core u.slot u.gang i).isNone (by simp [issueChecks]))
    steady := by simpa using hold (!s.stallchk u i) (by simp [issueChecks])
    sound := of_decide_eq_true (hold (decide (s.meetRows u i = (s, none))) (by simp [issueChecks])) }

/-- The gang of all slices of warp slot 0 of a core. -/
def curAt (core : Nat) : Cur := { core := core, slot := 0, gang := 0xFF, pos := .alone, floor := 0 }

/-- A warp that stands at address 0 of a core, changed by `f`, in a workgroup changed by `g`, its gang being executed. -/
def placedAt (core : Nat) (f : Warp → Warp) (g : Group → Group) : State :=
  let s := State.reset.withFetchWord 96 0
  let k := s.core 0
  let w := f (s.warp 0 0)
  { s with cores := [(core, { k with warps := [(0, w)], groups := [(0, g (s.group 0 0))] })], cur := some (curAt core) }

/-- A standard core with a warp that has just been placed. -/
def s0 : State := placedAt 0 id id

/-- The same on a wide die. -/
def sWide : State := placedAt 400 id id

def isDouble (i : Instr) : Bool := decide (0x88 ≤ Instr.opcode i) && decide (Instr.opcode i ≤ 0x8F)

/-- The instruction issues on the placed warp. -/
def readyPlaced (i : Instr) : Bool := if isDouble i then readyNow sWide (curAt 400) i else readyNow s0 (curAt 0) i

theorem test_ready_1 : good1.all readyPlaced = true := by decide +kernel
theorem test_ready_2 : good2.all readyPlaced = true := by decide +kernel
theorem test_ready_3 : good3.all readyPlaced = true := by decide +kernel
theorem test_ready_4 : good4.all readyPlaced = true := by decide +kernel
theorem test_ready_5 : good5.all readyPlaced = true := by decide +kernel

theorem test_unobserved : s0.Unobserved (curAt 0) := ⟨by unfold State.Unstepped; decide, by decide +kernel, by decide +kernel, by decide +kernel, by decide +kernel⟩
theorem test_frames_fit : s0.FramesFit (curAt 0) := by unfold State.FramesFit; decide

/-! Steps with results that the spec works out -/

/-- The placed warp with values in lane 0 of frame registers (register, value). -/
def sF (vs : List (Nat × Nat)) : State :=
  placedAt 0 (fun w => { w with slices := w.slices.map (fun e =>
    if e.1 = 0 then (0, { e.2 with rows := vs.map (fun v => (v.1, BitVec.ofNat 128 v.2)) }) else e) }) id

/-- Frame register `d` of lane 0 after an instruction. -/
def resultF (vs : List (Nat × Nat)) (i : Instr) (d : Nat) : Option W32 :=
  match exec i (sF vs) with
  | .next t => some (rowLane (Tab.get 0 ((t.warp 0 0).slice 0).rows d) 0)
  | _ => none

/-- Predicate `k` of lane 0 after an instruction. -/
def resultP (vs : List (Nat × Nat)) (i : Instr) (k : Nat) : Option Bool :=
  match exec i (sF vs) with
  | .next t => some (((t.warp 0 0).slice 0).predNow k 0)
  | _ => none

/-- FSTATUS of slice 0 after an instruction. -/
def resultFs (vs : List (Nat × Nat)) (i : Instr) : Option W32 :=
  match exec i (sF vs) with
  | .next t => some ((t.warp 0 0).slice 0).fstatus
  | _ => none

/-- The low half of the worked 64-bit addition (section 4): 0xFFFFFFF0 + 0x20 with its carry. -/
theorem test_add_carries : resultF [(0, 0xFFFFFFF0), (2, 0x20)] (.add hh { aa with pdst := 2, srcA := .f 0, srcB := .f 2, dst := .f 4 }) 4
      = some 0x10
    ∧ resultP [(0, 0xFFFFFFF0), (2, 0x20)] (.add hh { aa with pdst := 2, srcA := .f 0, srcB := .f 2, dst := .f 4 }) 2 = some true := by decide +kernel

/-- The same addition in one instruction. -/
theorem test_add_pair : resultF [(0, 0xFFFFFFF0), (1, 1), (2, 0x20), (3, 2)] (.add hh { aa with type := 2, srcA := .f 0, srcB := .f 2, dst := .f 4 }) 5
    = some 4 := by decide +kernel

/-- The examples of R99. -/
theorem test_bfe : resultF [(0, 0x9A00), (1, 0x0808)] (.bfe hh { aa with srcA := .f 0, srcB := .f 1, dst := .f 2 }) 2 = some 0x9A
    ∧ resultF [(0, 0x9A00), (1, 0x0808)] (.bfe hh { aa with type := 1, srcA := .f 0, srcB := .f 1, dst := .f 2 }) 2 = some 0xFFFFFF9A := by decide +kernel

theorem test_bfi : resultF [(0, 0xC3), (1, 0xFFFFFFFF), (2, 0x410)] (.bfi hh { aa with srcA := .f 0, srcB := .f 1, srcC := .f 2, dst := .f 3 }) 3
    = some 0xFFF3FFFF := by decide +kernel

/-- The examples of R150. -/
theorem test_cvt_high_half : resultF [(1, 0x3F818000), (4, 0x1234)] (.cvt hh { aa with pdst := 4, rm := 1, type := 1, srcA := .f 1, dst := .f 4 }) 4
      = some 0x3F811234
    ∧ resultFs [(1, 0x3F818000), (4, 0x1234)] (.cvt hh { aa with pdst := 4, rm := 1, type := 1, srcA := .f 1, dst := .f 4 }) = some 16 := by decide +kernel

theorem test_cvt_nearest : resultF [(1, 0x3F818000), (4, 0x1234)] (.cvt hh { aa with pdst := 4, type := 1, srcA := .f 1, dst := .f 4 }) 4
    = some 0x3F821234 := by decide +kernel

/-- SAT of NEG of the most negative value gives the most positive one (Table 4.2's notes). -/
theorem test_neg_saturates : resultF [(1, 0x80000000)] (.neg hh { aa with sat := true, pdst := 3, type := 1, srcA := .f 1, dst := .f 4 }) 4 = some 0x7FFFFFFF
    ∧ resultP [(1, 0x80000000)] (.neg hh { aa with pdst := 3, type := 1, srcA := .f 1, dst := .f 4 }) 3 = some true := by decide +kernel

/-- FRCP of zero is an infinity and raises DZ (Table 2.5). -/
theorem test_frcp_of_zero : resultF [(1, 0)] (.frcp hh { aa with type := 4, srcA := .f 1, dst := .f 4 }) 4 = some 0x7F800000
    ∧ resultFs [(1, 0)] (.frcp hh { aa with type := 4, srcA := .f 1, dst := .f 4 }) = some 2 := by decide +kernel

/-- The example of R66: from slot 3 of the line at 0x1000 an offset of −7 leads to 0xFCC. -/
theorem test_branch_destination : branchDest 0x1024 (BitVec.ofInt 24 (-7)) = 0xFCC := by decide +kernel

/-- With no gang latched the machine answers the named fault. -/
theorem test_no_gang : (match exec (.add hh aa) State.reset with | .fault .noGang => true | _ => false) = true := by decide +kernel

/-- A word placed for the fetch is the next instruction that a step runs. -/
theorem test_step_runs_the_word :
    (match step (State.reset.withFetchWord 96 0x001001007A0301050000E304) with
      | .next t => some (((t.warp 0 0).slice 0).pc, Tab.get 0 ((t.warp 0 0).slice 0).rows 5)
      | _ => none) = some (12, 0) := by decide +kernel

/-! States and operands that meet the hypotheses of the statements: instructions that only change registers -/

/-- Every instruction of the list issues there for the gang, which is not stepped and whose frames fit. -/
def Runs (s : State) (u : Cur) (is : List Instr) : Prop := ∀ i ∈ is, s.Issues u i ∧ s.Unstepped u ∧ s.FramesFit u

/-- `Runs`, decided. -/
def runsNow (s : State) (u : Cur) (is : List Instr) : Bool :=
  is.all (readyNow s u) && decide ((s.warp u.core u.slot).stepping = none)
    && (gangSlices u.gang).all (fun j => decide ((s.sliceOf u j).fsz + 2 ≤ (s.warp u.core u.slot).rowB))

theorem runs_of_now {s : State} {u : Cur} {is : List Instr} (h : runsNow s u is = true) : Runs s u is := by
  simp only [runsNow, Bool.and_eq_true, List.all_eq_true, decide_eq_true_eq] at h
  exact fun i hi => ⟨issues_of_ready (h.1.1 i hi), h.1.2, h.2⟩

/-- The first well-formed one. -/
def firstFormed (is : List Instr) : Instr := (is.find? Instr.wellFormed).getD (.nop hh { aa with rm := 3 })

/-- The two forms of an instruction of format A under a type, with as many sources as it takes, and the highest pair and the highest
scalar as destinations. -/
def forms (f : Header → FmtA → Instr) (type : BitVec 4) : List Instr :=
  let o : FmtA := { aa with type := type }
  [firstFormed [f hh { o with srcA := .f 44, srcB := .f 42, srcC := .f 40, dst := .f 46 }
    , f hh { o with srcA := .f 44, srcB := .f 42, dst := .f 46 }, f hh { o with srcA := .f 44, dst := .f 46 }]
  , firstFormed [f hh { o with srcA := .s 31, srcB := .s 30, srcC := .s 29, dst := .s 31 }
    , f hh { o with srcA := .s 31, srcB := .s 30, dst := .s 31 }, f hh { o with srcA := .s 31, dst := .s 31 }
    , f hh { o with pdst := 7, srcA := .s 31, srcB := .s 30, srcC := .s 29, dst := .s 31 }
    , f hh { o with pdst := 7, srcA := .s 31, srcB := .s 30, dst := .s 31 }, f hh { o with pdst := 7, srcA := .s 31, dst := .s 31 }]]

/-- The instructions of a list of Table 4.2 and 4.3, ABS under the signed types alone. -/
def integerForms (ty : IntegerType) (fs : List (Header → FmtA → Instr)) : List Instr :=
  (fs.filter (fun f => ty.signed || decide (Instr.opcode (f hh aa) ≠ Instr.opcode (.absI hh aa)))).flatMap (fun f => forms f ty.code)

theorem witness_DecodeOfEncode : (match encode (.ffma hh { aa with type := 4, xmod := 0x41, srcC := .c 63, srcB := .f 2, srcA := .f 63, dst := .f 3 }) with
    | some w => decide (Instr.wellFormed (.ffma hh { aa with type := 4, xmod := 0x41, srcC := .c 63, srcB := .f 2, srcA := .f 63, dst := .f 3 }) = true)
        && decide (w < 2 ^ 96)
    | none => false) = true := by decide +kernel

theorem witness_EncodeOfDecode : (match decodeSlot 0x00004041B002010300114463 with | .ok _ => true | _ => false) = true := by decide +kernel

theorem witness_StepKeepsMemoryCanonical : Memory.wf s0.mem = true ∧ (match step s0 with | .next _ => true | _ => false) = true := by
  decide +kernel

theorem witness_RegisterInstructions : s0.Unobserved (curAt 0) ∧ s0.FramesFit (curAt 0)
    ∧ (∀ i ∈ good1 ++ good2.take 18, regOnly i = true) ∧ Runs s0 (curAt 0) (good1 ++ good2.take 18) :=
  ⟨test_unobserved, test_frames_fit, by decide +kernel, runs_of_now (by decide +kernel)⟩

theorem witness_IntegerResults_b32 : Runs s0 (curAt 0) (integerForms ⟨0, false, 32⟩ ((wordOps false 32).map (·.1))) := runs_of_now (by decide +kernel)
theorem witness_IntegerResults_s64 : Runs s0 (curAt 0) (integerForms ⟨3, true, 64⟩ ((wordOps true 64).map (·.1))) := runs_of_now (by decide +kernel)
theorem witness_IntegerResults_s8 : Runs s0 (curAt 0) (integerForms ⟨11, true, 8⟩ ((wordOps true 8).map (·.1))) := runs_of_now (by decide +kernel)
theorem witness_IntegerResults_types : ∀ ty ∈ integerTypes, Runs s0 (curAt 0) (forms .add ty.code) := by
  intro ty hty
  refine runs_of_now ?_
  revert ty hty
  decide +kernel

theorem witness_ImmediateResults : ∀ ty ∈ integerTypes, ∀ op ∈ immediateOps ty.signed ty.bits, Runs s0 (curAt 0)
    [firstFormed [op.1 hh { bb with type := ty.code, imm := 7, srcA := .f 44, dst := .f 46 }, op.1 hh { bb with type := ty.code, imm := 7, dst := .f 46 }]
    , firstFormed [op.1 hh { bb with type := ty.code, imm := 7, srcA := .s 31, dst := .s 31 }, op.1 hh { bb with type := ty.code, imm := 7, dst := .s 31 }
      , op.1 hh { bb with pdst := 7, type := ty.code, imm := 7, srcA := .s 31, dst := .s 31 }]] := by
  intro ty hty op hop
  refine runs_of_now ?_
  revert op hop
  revert ty hty
  decide +kernel

theorem witness_CarrySaturationAndCompare_exact : Runs s0 (curAt 0) (integerForms ⟨1, true, 32⟩ (exactOps.map (·.1)))
    ∧ Runs s0 (curAt 0) [.add hh { aa with type := 0, sat := true, pdst := 2, subop := 1, srcC := .p 2, srcA := .f 1, srcB := .f 2, dst := .f 3 }
      , .sub hh { aa with type := 2, pdst := 7, subop := 1, srcC := .p 6, srcA := .f 0, srcB := .f 2, dst := .f 4 }
      , .mad hh { aa with type := 3, sat := true, pdst := 1, srcA := .f 0, srcB := .f 2, srcC := .f 4, dst := .f 6 }] :=
  ⟨runs_of_now (by decide +kernel), runs_of_now (by decide +kernel)⟩

theorem witness_CarrySaturationAndCompare_compare : ∀ ty ∈ integerTypes, Runs s0 (curAt 0)
    [.setp hh { aa with type := ty.code, subop := 5, srcA := .f 0, srcB := .f 2, dst := .p 6 }
    , .setp hh { aa with type := ty.code, subop := 13, srcA := .f 0, srcB := .f 2, srcC := .p 7, dst := .p 7 }
    , .setpi hh { bb with type := ty.code, subop := 5, imm := 3, srcA := .f 0, dst := .p 6 }] := by
  intro ty hty
  refine runs_of_now ?_
  revert ty hty
  decide +kernel

theorem witness_BitFieldResults : ∀ ty ∈ integerTypes, Runs s0 (curAt 0)
    ([Instr.popc, .clz, .brev, .bfe, .bfi].flatMap (fun f => forms f ty.code)) := by
  intro ty hty
  refine runs_of_now ?_
  revert ty hty
  decide +kernel

theorem witness_MoveResults : Runs s0 (curAt 0)
    [.movih hh { bb with type := 2, imm := 7, dst := .s 31 }, .movih hh { bb with type := 2, imm := 7, dst := .f 46 }
    , .sel hh { aa with type := 0, srcA := .f 1, srcB := .f 2, srcC := .p 6, dst := .f 47 }
    , .sel hh { aa with type := 3, srcA := .f 0, srcB := .f 2, srcC := .p 7, dst := .f 46 }
    , .sel hh { aa with type := 10, srcA := .f 0, srcB := .f 2, srcC := .p 7, dst := .f 45 }
    , .mov hh { aa with type := 4, srcA := .f 1, dst := .f 47 }, .mov hh { aa with type := 6, srcA := .s 1, dst := .s 31 }
    , .mov hh { aa with type := 2, subop := 1, srcA := .b 15, dst := .s 31 }, .mov hh { aa with type := 2, subop := 0, srcA := .s 31, dst := .b 15 }] :=
  runs_of_now (by decide +kernel)

theorem witness_WideResultsAndSingleLanes : Runs s0 (curAt 0)
    [.madw hh { aa with type := 1, srcA := .f 1, srcB := .f 3, srcC := .f 4, dst := .f 46 }, .madw hh { aa with srcA := .s 1, srcB := .s 3, srcC := .s 4, dst := .s 31 }
    , .lea hh { aa with subop := 15, srcA := .f 2, srcB := .f 1, dst := .f 46 }, .lea hh { aa with type := 1, srcA := .s 2, srcB := .s 1, dst := .s 31 }
    , .sext hh { aa with type := 1, srcA := .f 2, dst := .f 46 }, .sext hh { aa with type := 11, srcA := .f 2, dst := .f 47 }
    , .zext hh { aa with type := 0, srcA := .f 2, dst := .f 46 }, .zext hh { aa with type := 8, srcA := .s 2, dst := .s 31 }
    , .rdlane hh { aa with srcA := .f 47, srcB := .s 0, dst := .s 31 }, .wrlane hh { aa with srcA := .s 31, srcB := .c 31, dst := .f 47 }] :=
  runs_of_now (by decide +kernel)

theorem witness_PredicateResults : Runs s0 (curAt 0)
    [.plop hh { aa with subop := 8, srcA := .p 0, srcB := .p 7, srcC := .p 6, dst := .p 6 }, .plop hh { aa with subop := 0, srcA := .p 0, srcB := .p 7, dst := .p 7 }
    , .pmov hh { aa with srcA := .m 7, dst := .p 6 }, .pmov hh { aa with srcA := .f 47, dst := .p 0 }, .pmov hh { aa with srcA := .p 6, dst := .f 47 }
    , .pseti hh { bb with imm := 0xFFFFFFFF, dst := .p 6 }, .anyP hh { aa with subop := 1, srcA := .p 7, dst := .p 6 }
    , .allP hh { aa with subop := 2, srcA := .p 6, dst := .p 6 }] := runs_of_now (by decide +kernel)

def curPart : Cur := { curAt 0 with gang := 0x7F }

/-- The same warp with slice 7 apart from the gang. -/
def sPart : State :=
  { placedAt 0 (fun w => { w with slices := w.slices.map (fun e => (e.1, { e.2 with gang := if e.1 = 7 then 0x80 else 0x7F })) }) id with
    cur := some curPart }

theorem witness_PredicateResults_apart : Runs sPart curPart [.anyP hh { aa with subop := 2, srcA := .p 7, dst := .p 6 }]
    ∧ (sPart.seen curPart (.anyP hh { aa with subop := 2, srcA := .p 7, dst := .p 6 })).live ≠ curPart.gang := by
  exact ⟨runs_of_now (by decide +kernel), by decide +kernel⟩

theorem witness_MaskResults : Runs s0 (curAt 0)
    [.mlop hh { aa with subop := 8, srcA := .m 0, srcB := .m 7, srcC := .s 1, dst := .m 7 }, .mlop hh { aa with subop := 5, srcA := .s 31, dst := .s 31 }
    , .mmov hh { aa with srcA := .s 31, dst := .m 7 }, .mmov hh { aa with srcA := .m 7, dst := .s 31 }
    , .ballot hh { aa with srcA := .p 7, dst := .m 7 }, .ballot hh { aa with srcA := .p 0, dst := .s 31 }
    , .mseti hh { bb with subop := 0, imm := 0xFFFFFFFF, dst := .m 7 }, .mseti hh { bb with subop := 2, imm := 1, dst := .m 0 }
    , .mfirst hh { aa with srcA := .m 7, dst := .s 31 }, .mcount hh { aa with srcA := .m 0, dst := .f 47 }, .mtop hh { aa with srcA := .m 7, dst := .s 0 }] :=
  runs_of_now (by decide +kernel)

theorem witness_NopAndWaitk : Runs s0 (curAt 0) [.nop hh aa, .waitk hh { cc with subop := 5, offset := 63 }, .waitk hh { cc with subop := 0, offset := 0 }]
    ∧ (s0.warp 0 0).takes 0xFF hh = true := ⟨runs_of_now (by decide +kernel), by decide +kernel⟩

theorem witness_Rounding : (fp32.round 0 false 0x800001 0).flags &&& flOF = 0
    ∧ (roundAt 0 false 0x800001 0 (max (0 + (Nat.log2 0x800001 : Nat) - fp32.mb) fp32.lowExp)).2 = false := by decide +kernel

theorem witness_NanResults : (([(FVal.nan true, FVal.fin false 1 0)] : List (FVal × FVal)).flatMap (fun p : FVal × FVal => [p.1, p.2]) ++ []).any FVal.isNan = true
    ∧ (FVal.nan false).isNan = true ∧ fp32.decode 0x7FC00000 = .nan false := by decide +kernel

theorem witness_FabsAndFneg : (0xFFFF : Nat) < 2 ^ bf16.width ∧ (bitsAt 0xFFFF bf16.mb bf16.eb = 2 ^ bf16.eb - 1 ∧ bitsAt 0xFFFF 0 bf16.mb ≠ 0)
    ∧ ¬ (bitsAt 0x8000 bf16.mb bf16.eb = 2 ^ bf16.eb - 1 ∧ bitsAt 0x8000 0 bf16.mb ≠ 0) := by decide +kernel

theorem witness_FloatResults : Runs s0 (curAt 0) (elementOps.flatMap (fun op => forms op.1 4))
    ∧ Runs s0 (curAt 0) ((elementOps.take 8).flatMap (fun op => forms op.1 5 ++ forms op.1 6)) :=
  ⟨runs_of_now (by decide +kernel), runs_of_now (by decide +kernel)⟩

theorem witness_OtherFloatResults : Runs s0 (curAt 0) ([Instr.frsq, .fexp2, .flog2].flatMap (fun f => forms f 4) ++ forms .fdot2 5 ++ forms .fdot2 6
    ++ [.faddi hh { bb with type := 4, imm := 1, srcA := .f 47, dst := .f 47 }, .faddi hh { bb with type := 5, imm := 1, srcA := .s 0, dst := .s 31 }
      , .fmuli hh { bb with type := 6, imm := 1, srcA := .f 47, dst := .f 47 }]) := runs_of_now (by decide +kernel)

/-- An FP32 encoding with the value it stands for. -/
theorem real32_of {x : Nat} {n : Bool} {m : Nat} {e : Int} (h : fp32.decode x = .fin n m e) :
    finite32 x ∧ real32 x = (if n then -1 else 1) * m * (2 : ℝ) ^ e := by
  refine ⟨⟨n, m, e, h⟩, ?_⟩
  cases n <;> simp [real32, FVal.rat, h]

/-- 1.5 and −1.5, the boundaries 128 and −126 of FEXP2, its exact −149, and operands that are no numbers. -/
theorem witness_OtherFloatResults_values : (finite32 0x3FC00000 ∧ 0 < real32 0x3FC00000) ∧ (finite32 0xBFC00000 ∧ real32 0xBFC00000 < 0)
    ∧ (finite32 0x43000000 ∧ 128 ≤ real32 0x43000000) ∧ (finite32 0xC2FC8000 ∧ real32 0xC2FC8000 < -126)
    ∧ (finite32 0xC3150000 ∧ real32 0xC3150000 = ((-149 : Int) : ℝ)) ∧ real32 0x3F800000 = (2 : ℝ) ^ (0 : Int)
    ∧ fp32.decode 0xFFFFFFFF = .nan false ∧ fp32.decode 0x7F800001 = .nan true ∧ fp32.decode 0xFF800000 = .inf true
    ∧ ∃ e, fp32.decode 0x80000000 = .fin true 0 e := by
  have a := real32_of (show fp32.decode 0x3FC00000 = .fin false 0xC00000 (-23) by decide +kernel)
  have b := real32_of (show fp32.decode 0xBFC00000 = .fin true 0xC00000 (-23) by decide +kernel)
  have c := real32_of (show fp32.decode 0x43000000 = .fin false 0x800000 (-16) by decide +kernel)
  have d := real32_of (show fp32.decode 0xC2FC8000 = .fin true 0xFC8000 (-17) by decide +kernel)
  have e := real32_of (show fp32.decode 0xC3150000 = .fin true 0x950000 (-16) by decide +kernel)
  have f := real32_of (show fp32.decode 0x3F800000 = .fin false 0x800000 (-23) by decide +kernel)
  refine ⟨⟨a.1, ?_⟩, ⟨b.1, ?_⟩, ⟨c.1, ?_⟩, ⟨d.1, ?_⟩, ⟨e.1, ?_⟩, ?_, by decide +kernel, by decide +kernel, by decide +kernel
    , _, (by decide +kernel : fp32.decode 0x80000000 = .fin true 0 (-149))⟩
  all_goals first | rw [a.2] | rw [b.2] | rw [c.2] | rw [d.2] | rw [e.2] | rw [f.2]
  all_goals norm_num

theorem witness_FloatCompareAndClass : Runs s0 (curAt 0)
    [.fsetp hh { aa with type := 4, subop := 15, srcA := .f 0, srcB := .f 2, srcC := .p 7, dst := .p 6 }
    , .fclass hh { aa with type := 4, srcA := .f 0, dst := .f 47 }, .fclass hh { aa with type := 4, srcA := .f 0, srcB := .s 1, dst := .p 6 }]
    ∧ Runs sWide (curAt 400) [.dsetp hh { aa with type := 7, subop := 7, srcA := .f 44, srcB := .f 46, dst := .p 7 }] :=
  ⟨runs_of_now (by decide +kernel), runs_of_now (by decide +kernel)⟩

theorem witness_DoubleResults : Runs sWide (curAt 400) (doubleOps.flatMap (fun op => forms op.1 7)) := runs_of_now (by decide +kernel)

/-- An FP64 instruction on a standard die. -/
theorem witness_DoubleFeature : let i : Instr := .dsqrt hh { aa with type := 7, srcA := .f 44, dst := .f 46 }
    0x88 ≤ Instr.opcode i ∧ Instr.opcode i ≤ 0x8F ∧ (curAt 383).core / 64 < 6 ∧ (placedAt 383 id id).cur = some (curAt 383)
    ∧ (placedAt 383 id id).standing (curAt 383) = true ∧ (curAt 383).pos ≠ .probe ∧ (placedAt 383 id id).heldNow (curAt 383) = false
    ∧ (placedAt 383 id id).deliverPending 383 0 0xFF = none := by decide +kernel

theorem witness_ConversionResults : Runs s0 (curAt 0)
    [.cvt hh { aa with subop := 0, type := 1, pdst := 4, srcA := .f 1, dst := .f 47 }, .cvt hh { aa with subop := 0, type := 6, pdst := 4, srcA := .f 1, dst := .f 46 }
    , .cvt hh { aa with subop := 6, type := 0, srcA := .f 1, dst := .f 47 }, .cvt hh { aa with subop := 6, type := 5, sat := true, srcA := .f 1, dst := .f 47 }
    , .pcvt hh { aa with subop := 0, type := 9, pdst := 2, srcA := .f 8, srcB := .s 1, dst := .f 47 }
    , .pcvt hh { aa with subop := 9, type := 0, pdst := 2, srcA := .f 7, srcB := .s 1, dst := .f 40 }
    , .pcvt hh { aa with subop := 9, type := 1, pdst := 2, srcA := .f 7, srcB := .s 1, dst := .f 40 }] := runs_of_now (by decide +kernel)

theorem witness_ConversionResults_scalar : Runs s0 (curAt 0)
    [.cvt hh { aa with subop := 0, type := 6, pdst := 4, srcA := .s 1, dst := .s 31 }, .cvt hh { aa with subop := 0, type := 2, pdst := 4, srcA := .s 1, dst := .s 31 }
    , .cvt hh { aa with subop := 1, type := 4, pdst := 1, srcA := .s 1, dst := .s 0 }] := runs_of_now (by decide +kernel)

theorem witness_CrossLaneResults : Runs s0 (curAt 0)
    [.xshf hh { aa with subop := 0, srcA := .f 0, srcB := .f 2, dst := .f 47 }, .xshf hh { aa with subop := 15, type := 2, srcA := .f 44, srcB := .s 2, dst := .f 46 }
    , .xbcast hh { aa with subop := 1, srcA := .f 0, srcB := .s 2, dst := .f 47 }, .xbcast hh { aa with type := 2, srcA := .f 44, srcB := .c 31, dst := .f 46 }] :=
  runs_of_now (by decide +kernel)

theorem witness_Reductions : Runs s0 (curAt 0)
    [.xred ht { aa with pdst := 0, type := 1, subop := 1, srcA := .f 0, dst := .f 47 }, .xred ht { aa with pdst := 2, srcA := .f 0, dst := .f 47 }
    , .xscan ht { aa with pdst := 0, subop := 8, srcA := .f 0, dst := .f 47 }, .xscan ht { aa with pdst := 1, subop := 5, srcA := .f 0, dst := .f 47 }]
    ∧ (s0.seen (curAt 0) (.xred ht { aa with pdst := 2, srcA := .f 0, dst := .f 47 })).live = 0xFF := ⟨runs_of_now (by decide +kernel), by decide +kernel⟩

/-- Under .f32, with a scalar destination, and for a gang of fewer than all live slices. -/
theorem witness_Reductions_forms : Runs s0 (curAt 0)
    [.xred ht { aa with pdst := 0, type := 4, subop := 0, srcA := .f 0, dst := .s 31 }, .xred ht { aa with pdst := 2, type := 4, subop := 2, srcA := .f 0, dst := .f 47 }
    , .xscan ht { aa with pdst := 1, type := 4, subop := 8, srcA := .f 0, dst := .f 47 }, .xred ht { aa with pdst := 0, type := 0, subop := 1, srcA := .f 0, dst := .s 0 }]
    ∧ s0.acts (curAt 0) (.xred ht { aa with pdst := 0, type := 4, srcA := .f 0, dst := .s 31 }) = true
    ∧ Runs sPart curPart [.xred ht { aa with pdst := 2, type := 4, srcA := .f 0, dst := .f 47 }, .xscan ht { aa with pdst := 0, srcA := .f 0, dst := .f 47 }] :=
  ⟨runs_of_now (by decide +kernel), by decide +kernel, runs_of_now (by decide +kernel)⟩

theorem witness_Collectives : Runs s0 (curAt 0) [.qblk ht { aa with pdst := 0, subop := 0, type := 15, srcA := .f 0, srcB := .s 31, dst := .f 47 }]
    ∧ (s0.seen (curAt 0) (.qblk ht { aa with pdst := 0, subop := 0, type := 15, srcA := .f 0, srcB := .s 31, dst := .f 47 })).live = 0xFF
    ∧ Runs sPart curPart [.xred ht { aa with pdst := 2, srcA := .f 0, dst := .f 47 }, .xscan ht { aa with pdst := 2, srcA := .f 0, dst := .f 47 }
      , .qblk ht { aa with pdst := 0, subop := 0, type := 15, srcA := .f 0, srcB := .s 31, dst := .f 47 }]
    ∧ (sPart.seen curPart (.xred ht { aa with pdst := 2, srcA := .f 0, dst := .f 47 })).live ≠ curPart.gang :=
  ⟨runs_of_now (by decide +kernel), by decide +kernel, runs_of_now (by decide +kernel), by decide +kernel⟩

/-! States and operands that meet the hypotheses of the statements: control, frames, faults, gates -/

/-- A buffer record of 64 elements of 16 bytes at 0x1000, for reading and writing. -/
def recordRW : W128 := BitVec.ofNat 128 (0x1000 + 16 * 2 ^ 57 + 64 * 2 ^ 77 + 2 ^ 116 + 2 ^ 117)

/-- A gate of the table at 0x2000: entry 0, ASID 0, a frame of 8 registers, callers of domain 0, a handler at 0x40. -/
def gateEntry : Nat := 2 ^ 448 + 0x40 * 2 ^ 320 + 8 * 2 ^ 151 + 12 * 2 ^ 132 + 2 ^ 128

/-- Bytes of home memory from an address on. -/
def cellsAt (a n v : Nat) : List Host.Cell := ((List.range n).map (fun i => (a + i, BitVec.ofNat 8 (v / 2 ^ (8 * i))))).filter (fun e => e.2 ≠ 0)

/-- A translation of the first 2^20 bytes, to 0x100000. -/
def pageAll : TlbEntry :=
  { asid := 0, va := 0, pa := 0x100000, size := 2 ^ 20, r := true, w := true, x := true, pin := true, scheme := 0, lines := [] }

/-- The placed warp with room on its backing store, a buffer record in b0, and translations at hand, changed by `f`. -/
def fullAt (f : Slice → Slice) : State :=
  let s := placedAt 0
    (fun w => { w with handler := 0x40, slices := w.slices.map (fun e =>
      (e.1, f { e.2 with b := [(0, recordRW)], spillTop := 0x40000, bsBase := 0x40000, bsLimit := 0x50000 })) })
    (fun g => { g with region := { g.region with gateTab := 0x2000, gateCount := 1, bsBase := 0x80000 } })
  { s with cores := [(0, { s.core 0 with tlb := [pageAll] })], mem := cellsAt 0x102000 64 gateEntry }

def sFull : State := fullAt id

/-- A state changed in its only core. -/
def withCore (s : State) (f : Core → Core) : State := { s with cores := [(0, f (s.core 0))] }

/-- A state changed in its only workgroup. -/
def withGroup (s : State) (f : Group → Group) : State := withCore s (fun k => { k with groups := [(0, f (s.group 0 0))] })

/-- A state changed in its only warp. -/
def withWarp (s : State) (f : Warp → Warp) : State := withCore s (fun k => { k with warps := [(0, f (s.warp 0 0))] })

/-- The table and ASID through which the placed warp's destinations are checked, at an address. -/
def checks (s : State) (dest : Nat) : TargetCheck := s.target 0 (s.tableOf 0 0) 0 dest

theorem witness_SlotsAreNumberedInOrder : (64 : Nat) * 0xFFFFFFF + 64 < 2 ^ 57 ∧ 0 ≤ ((5 * 0 + 4 : Nat) : Int) + (-4 : BitVec 24).toInt := by decide +kernel

/-- A branch to the slot itself, marked as a target; one to the next slot, which is not; one to a line that cannot be fetched. -/
theorem witness_Branches : Runs s0 (curAt 0) [.br hh { cc with srcA := .p 7, offset := 0 }, .br hh { cc with srcA := .p 7, offset := 1 }
      , .br hh { cc with srcA := .p 7, mode := 2, offset := 0x7FFFFF }, .brx hh { cc with srcA := .s 1, srcB := .p 7 }, .brx hh { cc with subop := 1, srcA := .f 2, srcB := .p 7, mode := 2 }]
    ∧ checks s0 0 = .ok ∧ checks s0 12 = .bad ∧ checks s0 64 = .unread ∧ (s0.seen (curAt 0) (.br hh cc)).readP 0 7 = true
    ∧ (s0.lanes (curAt 0) (.br hh { cc with srcA := .p 7 })).getLsbD 0 = true := ⟨runs_of_now (by decide +kernel), by decide +kernel⟩

theorem witness_AClosedFrame : let sl := s0.sliceOf (curAt 0) 0
    (62 : Nat) + 2 ≤ 64 ∧ 48 ≤ 62 ∧ 48 ≤ sl.fsz ∧ 1 ≤ sl.fsz ∧ sl.fsz ≤ 64 ∧ sl.fsz < sl.top ∧ slotAligned (0x30 : VA).toNat = true ∧ sl.aside = []
    ∧ hdK (sl.hdr 64) ≤ sl.fsz - 48 + 0 ∧ sl.top + (62 - 48 + 1) ≤ 48 + 64 := by decide +kernel

theorem witness_RoomIsMade : (sFull.sliceOf (curAt 0) 0).gates = []
    ∧ (match (sFull.sliceOf (curAt 0) 0).makeRoom 64 0 0 20 40 64 0 with | .ok _ n => decide (n = 13) | _ => false) = true := by decide +kernel

theorem witness_CallsOpenFrames : Runs s0 (curAt 0) [.call hh { cc with size := 62, k := 47, offset := 0 }, .call hh { cc with size := 63, k := 48, offset := 0 }
      , .calli hh { cc with size := 10, k := 4, srcA := .m 7, srcB := .f 42 }]
    ∧ (s0.slicesActing (curAt 0) (.call hh cc)).contains 7 = true ∧ ((s0.seen (curAt 0) (.call hh cc)).slice 7).readM 0 0 ≠ 0
    ∧ (42 : Nat) + 1 + 4 < (s0.sliceOf (curAt 0) 0).fsz ∧ (s0.sliceOf (curAt 0) 0).resident + (10 - 4 + 1) + 8 = 64
    ∧ (s0.sliceOf (curAt 0) 0).depth < 65535 ∧ checks s0 0 = .ok ∧ slotAligned (s0.sliceOf (curAt 0) 0).pc.toNat = true :=
  ⟨runs_of_now (by decide +kernel), by decide +kernel⟩

/-- The rows to spill are free to go, decided. -/
theorem freeToSpill_of {sl : Slice} {B n : Nat} (h : (decide (n ≤ B ∧ sl.pins = [] ∧ sl.coming = [] ∧ sl.hazards = [] ∧ sl.aside = [])
    && (List.range n).all (fun i => sl.level (sl.low + i) == sl.gates.length)) = true) : sl.FreeToSpill B n := by
  simp only [Bool.and_eq_true, decide_eq_true_eq, List.all_eq_true, List.mem_range, beq_iff_eq] at h
  refine ⟨h.1.1, h.1.2.1, h.1.2.2.1, h.1.2.2.2.1, h.1.2.2.2.2, fun pos h1 h2 => ?_⟩
  have := h.2 (pos - sl.low) (by omega)
  rwa [show sl.low + (pos - sl.low) = pos by omega] at this

/-- The placed warp with room for no more than `n` rows on its spill stack. -/
def sShort (n : Nat) : State := fullAt (fun sl => { sl with bsLimit := BitVec.ofNat 57 (0x40000 + 16 * n) })

/-- A frame of 62 registers takes all 48 of the caller's rows out of the ring: with room for 48 entries, and with one too few. -/
theorem witness_CallsOpenFrames_spills : let o : FmtC := { cc with size := 62, k := 0, offset := 0 }
    Runs (sShort 48) (curAt 0) [.call hh o] ∧ Runs (sShort 47) (curAt 0) [.call hh o, .calli hh { o with srcA := .m 7, srcB := .f 42 }]
    ∧ ((sShort 48).sliceOf (curAt 0) 7).RoomFor 64 63 48 ∧ ((sShort 47).sliceOf (curAt 0) 0).NoRoom 64 63 48
    ∧ ((sShort 48).sliceOf (curAt 0) 7).spillsFor 64 63 48 = 48 ∧ (sShort 47).slicesActing (curAt 0) (.call hh o) = [] ++ 0 :: [1, 2, 3, 4, 5, 6, 7]
    ∧ (sShort 47).slicesActing (curAt 0) (.calli hh o) = List.range 8 :=
  ⟨runs_of_now (by decide +kernel), runs_of_now (by decide +kernel)
  , ⟨by decide +kernel, fun _ => ⟨freeToSpill_of (by decide +kernel), by decide +kernel⟩⟩
  , ⟨by decide +kernel, freeToSpill_of (by decide +kernel), by decide +kernel⟩, by decide +kernel, by decide +kernel, by decide +kernel⟩

/-- Every slice in a frame of 8 registers, 4 of them the caller's, that returns to an address. -/
def inFrame (ret : VA) (f : Slice → Slice) : State :=
  fullAt (fun sl => f { sl with rows := [(53, headerTo ret 48 4 0xF false false)], top := 54, fsz := 8, depth := 1 })

theorem witness_Returns : Runs (inFrame 0 id) (curAt 0) [.ret hh cc] ∧ Runs (inFrame 12 id) (curAt 0) [.ret hh cc]
    ∧ Runs (inFrame 0 (fun sl => { sl with fsz := 3 })) (curAt 0) [.ret hh cc]
    ∧ ((inFrame 0 id).sliceOf (curAt 0) 0).depth ≠ 0 ∧ (inFrame 0 id).slicesActing (curAt 0) (.ret hh cc) = List.range 8
    ∧ hdLegal (((inFrame 0 id).sliceOf (curAt 0) 0).hdr 64) 8 = true ∧ hdLegal (((inFrame 0 id).sliceOf (curAt 0) 0).hdr 64) 3 = false
    ∧ hdGate (((inFrame 0 id).sliceOf (curAt 0) 0).hdr 64) = false ∧ hdGroup (((inFrame 0 id).sliceOf (curAt 0) 0).hdr 64) = false
    ∧ checks (inFrame 0 id) 0 = .ok ∧ checks (inFrame 12 id) 12 = .bad :=
  ⟨runs_of_now (by decide +kernel), runs_of_now (by decide +kernel), runs_of_now (by decide +kernel), by decide +kernel⟩

/-- Every slice in a frame that a CALLI at address 0 opened for lane 0, its caller's f42:f43 naming address 2^21
for lane 1 and 0 for the others, and m1 as `m`; slots 0 and 1 are marked as targets. -/
def inGroup (m : BitVec 4) : State :=
  let o : FmtC := { cc with size := 10, k := 4, srcA := .m 1, srcB := .f 42 }
  let s := fullAt (fun sl => { sl with
    rows := [(42, BitVec.ofNat 128 (2 ^ 21 * 2 ^ 32)), (53, headerTo 0 48 4 1 false true)], m := [(1, m)], top := 54, fsz := 8, depth := 1 })
  withCore s (fun k => { k with icache := [(icKey 0 0, placeLine ((encode (.calli hh o)).getD 0) + 2 ^ 481)] })

theorem witness_GroupReturns : ∀ m ∈ [(0 : BitVec 4), 0xF], Runs (inGroup m) (curAt 0) [.ret hh cc]
    ∧ (∀ j ∈ (inGroup m).slicesActing (curAt 0) (.ret hh cc), let hd := ((inGroup m).sliceOf (curAt 0) j).hdr 64
      hdLegal hd 8 = true ∧ hdGate hd = false ∧ hdGroup hd = true
      ∧ (inGroup m).calliAt (curAt 0) (hdRet hd) = some { cc with size := 10, k := 4, srcA := .m 1, srcB := .f 42 } ∧ (42 : Nat) + 1 + 4 < hdCallerFsz hd
      ∧ (((inGroup m).sliceOf (curAt 0) j).closeFrame 64).resident + (10 - 4 + 1) + 8 ≤ 64)
    ∧ checks (inGroup m) (2 ^ 21) ≠ .bad ∧ checks (inGroup m) 12 ≠ .bad := by
  intro m hm
  refine ⟨runs_of_now ?_, ?_⟩ <;> revert m hm <;> decide +kernel

/-- Slice 3 alone has a header of no frame. -/
theorem witness_Returns_later : let s := fullAt (fun sl => { sl with
      rows := [(53, headerTo 0 48 4 0xF false false)], top := 54, fsz := if sl.num = 3 then 3 else 8, depth := 1 })
    Runs s (curAt 0) [.ret hh cc] ∧ s.slicesActing (curAt 0) (.ret hh cc) = [0, 1, 2] ++ 3 :: [4, 5, 6, 7]
    ∧ ∀ k ∈ [0, 1, 2], hdLegal ((s.sliceOf (curAt 0) k).hdr 64) (s.sliceOf (curAt 0) k).fsz = true :=
  ⟨runs_of_now (by decide +kernel), by decide +kernel⟩

/-- A CALLI at address 0 whose frame of 62 registers has no room but by spills, and its frame for lane 0 returns. -/
def inWideGroup (n : Nat) : State :=
  let o : FmtC := { cc with size := 62, k := 0, srcA := .m 1, srcB := .f 42 }
  let s := fullAt (fun sl => { sl with
    bsLimit := BitVec.ofNat 57 (0x40000 + 16 * n), rows := [(42, BitVec.ofNat 128 (2 ^ 21 * 2 ^ 32)), (57, headerTo 0 48 0 1 false true)], m := [(1, 0xF)], top := 58, fsz := 8, depth := 1 })
  withCore s (fun k => { k with icache := [(icKey 0 0, placeLine ((encode (.calli hh o)).getD 0) + 2 ^ 481)] })

theorem witness_GroupReturns_spills : (∀ n ∈ [47, 48], Runs (inWideGroup n) (curAt 0) [.ret hh cc])
    ∧ (let sl := (inWideGroup 48).sliceOf (curAt 0) 0
      hdLegal (sl.hdr 64) 8 = true ∧ hdGroup (sl.hdr 64) = true ∧ hdCallerFsz (sl.hdr 64) = 48 ∧ sl.depth ≤ 65535
      ∧ (inWideGroup 48).calliAt (curAt 0) (hdRet (sl.hdr 64)) = some { cc with size := 62, k := 0, srcA := .m 1, srcB := .f 42 })
    ∧ (((inWideGroup 48).sliceOf (curAt 0) 0).closeFrame 64).RoomFor 64 63 48
    ∧ (((inWideGroup 47).sliceOf (curAt 0) 0).closeFrame 64).NoRoom 64 63 48 := by
  refine ⟨?_, by decide +kernel, ⟨by decide +kernel, fun _ => ⟨freeToSpill_of (by decide +kernel), by decide +kernel⟩⟩
    , ⟨by decide +kernel, freeToSpill_of (by decide +kernel), by decide +kernel⟩⟩
  intro n hn
  refine runs_of_now ?_
  revert n hn
  decide +kernel

/-- What GATE keeps of a caller. -/
def kept : GateSave :=
  { asid := 0, domain := 3, spillTop := 0x40000, base := 0x40000, index := 0, narg := 0, nres := 0, scrub := 0, handler := 0x40
    limit := 0x90000, pd := 1, first := 49, hdr := 57, header := headerTo 0 48 0 0xF true false, depth := 0, born := 0 }

/-- Every slice in a service behind a gate. -/
def inService (n : Nat) (f : Slice → Slice) : State :=
  fullAt (fun sl => f { sl with rows := [(57, kept.header)], top := 58, fsz := 8, depth := 1, gates := List.replicate n kept })

theorem witness_Exits : Runs s0 (curAt 0) [.exit hh cc, .ret hh cc] ∧ (s0.sliceOf (curAt 0) 0).depth = 0 ∧ (s0.sliceOf (curAt 0) 0).gates = []
    ∧ Runs (inService 1 id) (curAt 0) [.exit hh cc] ∧ ((inService 1 id).sliceOf (curAt 0) 0).gates ≠ []
    ∧ (0 ∈ (inService 1 id).slicesActing (curAt 0) (.exit hh cc)) :=
  ⟨runs_of_now (by decide +kernel), by decide +kernel, by decide +kernel, runs_of_now (by decide +kernel), by decide +kernel, by decide +kernel⟩

theorem witness_ResizesKeepTheFrame : Runs s0 (curAt 0) [.frame hh { cc with size := 55 }, .tcall hh { cc with size := 55, offset := 0 }
      , .tcallIndirect hh { cc with size := 1, subop := 1, srcA := .s 1 }]
    ∧ hdK ((s0.sliceOf (curAt 0) 0).hdr 64) ≤ 1 ∧ (s0.sliceOf (curAt 0) 0).resident + (55 - 48) + 8 = 64 ∧ (s0.sliceOf (curAt 0) 0).fsz < (s0.sliceOf (curAt 0) 0).top
    ∧ checks s0 0 = .ok
    ∧ Runs (inFrame 0 id) (curAt 0) [.frame hh { cc with size := 3 }] ∧ 3 < hdK (((inFrame 0 id).sliceOf (curAt 0) 0).hdr 64) :=
  ⟨runs_of_now (by decide +kernel), by decide +kernel, by decide +kernel, by decide +kernel, by decide +kernel, runs_of_now (by decide +kernel), by decide +kernel⟩

/-- A frame of 8 registers over the root frame grows to 20: 18 rows of the root frame leave the ring, or have no place to go. -/
def sGrow (n : Nat) : State := fullAt (fun sl => { sl with
  bsLimit := BitVec.ofNat 57 (0x40000 + 16 * n), rows := [(57, headerTo 0 48 0 0xF false false)], top := 58, fsz := 8, depth := 1 })

theorem witness_Resizes_spills : let is : List Instr := [.frame hh { cc with size := 20 }, .tcall hh { cc with size := 20, offset := 0 }
      , .tcallIndirect hh { cc with size := 20, subop := 1, srcA := .s 1 }]
    Runs (sGrow 14) (curAt 0) is ∧ Runs (sGrow 13) (curAt 0) is ∧ (∀ i ∈ is, (sGrow 14).slicesActing (curAt 0) i = List.range 8)
    ∧ ((sGrow 14).sliceOf (curAt 0) 3).RoomFor 64 12 48 ∧ ((sGrow 13).sliceOf (curAt 0) 0).NoRoom 64 12 48
    ∧ ((sGrow 14).sliceOf (curAt 0) 3).top - 2 - 8 = 48 ∧ ((sGrow 14).sliceOf (curAt 0) 3).spillsFor 64 12 48 = 14
    ∧ hdK (((sGrow 14).sliceOf (curAt 0) 0).hdr 64) ≤ 20 ∧ checks s0 12 = .bad :=
  ⟨runs_of_now (by decide +kernel), runs_of_now (by decide +kernel), by decide +kernel
  , ⟨by decide +kernel, fun _ => ⟨freeToSpill_of (by decide +kernel), by decide +kernel⟩⟩
  , ⟨by decide +kernel, freeToSpill_of (by decide +kernel), by decide +kernel⟩, by decide +kernel, by decide +kernel, by decide +kernel, by decide +kernel⟩

/-- Every slice runs its handler. -/
def inHandler : State := fullAt (fun sl => { sl with handler := some { m0 := 0xF, gang := 0xFF, fsz := 48, markAt := none } })

theorem witness_AFaultEntersTheHandler : (trapS 0x06 0 1 [(0, 0x1001)] 4).cls = .s ∧ ((sFull.warp 0 0).slice 0).handler = none
    ∧ slotAligned (sFull.warp 0 0).handler.toNat = true ∧ ((inHandler.warp 0 0).slice 0).handler.isSome = true := by decide +kernel

theorem witness_AHaltOrAnUnwind : (trapH 0x07 0 1).cls = .h ∧ (sFull.group 0 0).saving = none ∧ (sFull.group 0 0).latch = [] ∧ ((sFull.warp 0 0).slice 0).gates = []
    ∧ ((inService 4 id).warp 0 0 |>.slice 0).gates = kept :: List.replicate 3 kept ∧ (((inService 4 id).warp 0 0).slice 0).handler = none
    ∧ 0x07 ∉ [0x0F, 0x10, 0x12, 0x02] ∧ ((inService 4 id).warp 0 0).report = none := by decide +kernel

theorem witness_Traps : Runs sFull (curAt 0) [.trap hh { cc with offset := 0xFFFF }, .bkpt hh { cc with offset := 0 }, .trap { hh with gneg := true } cc, .supret hh cc]
    ∧ sFull.slicesActing (curAt 0) (.trap hh cc) ≠ [] ∧ sFull.slicesActing (curAt 0) (.trap { hh with gneg := true } cc) = []
    ∧ (sFull.sliceOf (curAt 0) 0).handler = none
    ∧ Runs inHandler (curAt 0) [.supret hh cc] ∧ (inHandler.sliceOf (curAt 0) 0).handler.isSome = true ∧ inHandler.slicesActing (curAt 0) (.supret hh cc) ≠ []
    ∧ ∀ j ∈ gangSlices 0xFF, slotAligned (inHandler.sliceOf (curAt 0) j).resume.toNat = true :=
  ⟨runs_of_now (by decide +kernel), by decide +kernel, by decide +kernel, by decide +kernel, runs_of_now (by decide +kernel), by decide +kernel⟩

/-- The warp with a smaller root frame, so that a gate frame needs no spill. -/
def sSmall : State := fullAt (fun sl => { sl with fsz := 40, top := 41 })

theorem witness_Gates : let i : Instr := .gate hh { cc with offset := 0, srcA := .p 6 }
    (Runs sPart curPart [i] ∧ Runs (inService 4 id) (curAt 0) [i] ∧ Runs sSmall (curAt 0) [i, .gate hh { cc with offset := 1, srcA := .p 7 }])
    ∧ (sPart.seen curPart i).live ≠ 0x7F ∧ ((inService 4 id).sliceOf (curAt 0) 0).gates.length = 4
    ∧ (sSmall.seen (curAt 0) i).live = 0xFF ∧ sSmall.slicesActing (curAt 0) i ≠ []
    ∧ sSmall.readGate (curAt 0) 1 = .refused 0x01 ∧ sSmall.readGate (curAt 0) 0 = .entry gateEntry
    ∧ slotAligned (geHandler gateEntry).toNat = true ∧ checks sSmall (geEntry gateEntry) = .ok ∧ geFsize gateEntry = 8
    ∧ (sSmall.sliceOf (curAt 0) 7).resident + (8 + 1) + 8 ≤ 64 := by
  refine ⟨⟨?_, ?_, ?_⟩, by decide +kernel⟩ <;> exact runs_of_now (by decide +kernel)

theorem witness_Grets : Runs (inFrame 0 id) (curAt 0) [.gret hh cc] ∧ hdGate (((inFrame 0 id).sliceOf (curAt 0) 0).hdr 64) = false
    ∧ Runs (inService 1 id) (curAt 0) [.gret hh cc] ∧ (∀ j ∈ gangSlices 0xFF, hdGate (((inService 1 id).sliceOf (curAt 0) j).hdr 64) = true
      ∧ hdLegal (((inService 1 id).sliceOf (curAt 0) j).hdr 64) 8 = true ∧ ((inService 1 id).sliceOf (curAt 0) j).gates = [kept])
    ∧ ((inService 1 id).seen (curAt 0) (.gret hh cc)).live = 0xFF ∧ (inService 1 id).slicesActing (curAt 0) (.gret hh cc) ≠ []
    ∧ checks (inService 1 id) 0 = .ok :=
  ⟨runs_of_now (by decide +kernel), by decide +kernel, runs_of_now (by decide +kernel), by decide +kernel, by decide +kernel, by decide +kernel, by decide +kernel⟩

/-- A gate that takes two arguments, gives one result and scrubs s1, its entry and handler addresses and limits as given. -/
def gateTaking (entry handler : Nat) : Nat := gateEntry - 0x40 * 2 ^ 320 + handler * 2 ^ 320 + entry * 2 ^ 192 + 2 * 2 ^ 384 + 2 * 2 ^ 144 + 2 ^ 137

def withGate (s : State) (e : Nat) : State := { s with mem := cellsAt 0x102000 64 e }

/-- The checks and rooms of a gate: accepted with two rows to spill, one entry too few on the caller's stack, an entry that is no target, a
handler that is no slot's address. -/
theorem witness_Gates_rooms : let i : Instr := .gate hh { cc with offset := 0, srcA := .p 6 }
    let s := fun n => withGate (sShort n) (gateTaking 0 0x40)
    Runs (s 2) (curAt 0) [i] ∧ Runs (s 1) (curAt 0) [i] ∧ (s 2).readGate (curAt 0) 0 = .entry (gateTaking 0 0x40)
    ∧ (s 1).readGate (curAt 0) 0 = .entry (gateTaking 0 0x40) ∧ ((s 2).sliceOf (curAt 0) 7).RoomFor 64 9 48 ∧ ((s 1).sliceOf (curAt 0) 0).NoRoom 64 9 48
    ∧ ((s 2).sliceOf (curAt 0) 7).top - 1 = 48 ∧ gangSlices (curAt 0).gang = [] ++ 0 :: [1, 2, 3, 4, 5, 6, 7]
    ∧ (geFsize (gateTaking 0 0x40), geNarg (gateTaking 0 0x40), geNres (gateTaking 0 0x40), geScrub (gateTaking 0 0x40)) = (8, 2, 1, 2)
    ∧ (withGate sFull (gateTaking 12 0x40)).readGate (curAt 0) 0 = .entry (gateTaking 12 0x40)
    ∧ (withGate sFull (gateTaking 13 0x40)).readGate (curAt 0) 0 = .entry (gateTaking 13 0x40)
    ∧ (withGate sFull (gateTaking 0 0x41)).readGate (curAt 0) 0 = .entry (gateTaking 0 0x41) ∧ slotAligned (0x41 : VA).toNat = false
    ∧ checks sFull 12 = .bad ∧ sFull.security.started = false ∧ slotAligned 13 = false :=
  ⟨runs_of_now (by decide +kernel), runs_of_now (by decide +kernel), by decide +kernel, by decide +kernel
  , ⟨by decide +kernel, fun _ => ⟨freeToSpill_of (by decide +kernel), by decide +kernel⟩⟩
  , ⟨by decide +kernel, freeToSpill_of (by decide +kernel), by decide +kernel⟩, by decide +kernel, by decide +kernel, by decide +kernel, by decide +kernel
  , by decide +kernel, by decide +kernel, by decide +kernel, by decide +kernel, by decide +kernel, by decide +kernel⟩

theorem test_unobserved_full : sFull.Unobserved (curAt 0) ∧ sSmall.Unobserved (curAt 0) :=
  ⟨⟨by unfold State.Unstepped; decide, by decide +kernel, by decide +kernel, by decide +kernel, by decide +kernel⟩
  , ⟨by unfold State.Unstepped; decide, by decide +kernel, by decide +kernel, by decide +kernel, by decide +kernel⟩⟩

/-- A service that took two arguments and gives one result returns into the root frame. -/
theorem witness_Grets_results : let e : GateSave := { kept with narg := 2, nres := 1, scrub := 2 }
    let s := fullAt (fun sl => { sl with rows := [(57, e.header)], top := 58, fsz := 8, depth := 1, gates := [e] })
    Runs s (curAt 0) [.gret hh cc] ∧ e.first + (s.sliceOf (curAt 0) 0).fsz + 1 = (s.sliceOf (curAt 0) 0).top ∧ hdK e.header = 0
    ∧ hdCallerFsz e.header + 1 ≤ e.first ∧ (s.sliceOf (curAt 0) 0).top + hdCallerFsz e.header + 2 ≤ e.first + 64
    ∧ (s.sliceOf (curAt 0) 0).aside = [] ∧ e.narg ≤ hdCallerFsz e.header ∧ e.nres ≤ e.narg ∧ hdLegal e.header 8 = true ∧ checks s 0 = .ok
    ∧ (s.seen (curAt 0) (.gret hh cc)).live = 0xFF ∧ s.slicesActing (curAt 0) (.gret hh cc) ≠ [] ∧ e.pd ≠ 7 :=
  ⟨runs_of_now (by decide +kernel), by decide +kernel⟩

/-! States and operands that meet the hypotheses of the statements: memory, the matrix engine, system registers, objects -/

/-- The placed warp with values in its scalars. -/
def fullS (ss : List (Nat × W64)) : State := fullAt (fun sl => { sl with s := ss })

/-- How the checks of a record access end: 0 bad, 1 a fault, 2 a walk, 3 the accesses. -/
def ends (s : State) (h : Header) (i : Instr) (scalar : Bool) (o : FmtD) (k : AccKind) : Nat :=
  match (s.enter (curAt 0) h).recAccs 0 0 0xFF ((s.seen (curAt 0) i).accLanes 0xFF h scalar) o.buf o.index o.offset.toInt (sizeBytes o.size) k 0 with
  | .bad _ => 0 | .fault _ => 1 | .walk _ => 2 | .ok _ => 3

/-- An access of 4 bytes through record 0, at the element that f6 names. -/
def d0 : FmtD := { dd with buf := .b 0, index := .f 6, size := 2 }

def kindR : AccKind := { read := true, write := false, watch := 0 }
def kindW : AccKind := { read := false, write := true, watch := 1 }

/-- The same with no translation at hand, and with one that forbids reading. -/
def sBare : State := withCore sFull (fun k => { k with tlb := [] })
def sSealed : State := withCore sFull (fun k => { k with tlb := [{ pageAll with r := false, w := false }] })

theorem witness_GlobalAccesses : let i : Instr := .ld ht { d0 with dst := .f 47, offset := 0x3F }
    let runs := [i, .ldH ht { d0 with hbit := true, index := .s 1, dst := .s 31 }, .st ht { d0 with data := .f 47 }, .st ht { d0 with index := .s 1, data := .s 31 }
      , .ldl ht { d0 with data := .f 4 }, .atom ht { d0 with data := .f 7, dst := .f 47, subop := 4, scope := 2 }]
    Runs sFull (curAt 0) runs ∧ Runs sBare (curAt 0) [i] ∧ Runs sSealed (curAt 0) [i]
    ∧ ends sFull ht i false { d0 with offset := 0x3F } kindR = 3 ∧ ends sFull ht i false { d0 with buf := .b 1 } kindR = 0
    ∧ ends sBare ht i false d0 kindR = 2 ∧ ends sSealed ht i false d0 kindR = 1 ∧ ends sFull ht (.st ht d0) true d0 kindW = 3
    ∧ (match (sFull.enter (curAt 0) ht).padAccs 0 0 0xFF ((sFull.seen (curAt 0) (.ldl ht d0)).accLanes 0xFF ht false) (.f 4) 0 4 false 2 with
        | .ok _ => true | .error _ => false) = true
    ∧ ((sFull.enter (curAt 0) ht).logsOf (curAt 0) 2 0).isSome = true := ⟨runs_of_now (by decide +kernel), runs_of_now (by decide +kernel)
      , runs_of_now (by decide +kernel), by decide +kernel⟩

/-- The cause of a record check, or 0. -/
def recEnd (r : Nat) (e : Int) : Nat :=
  match recCheck (BitVec.ofNat 128 r) 4 kindR 0 [(0, 1, e)] with | .error t => t.cause | .ok _ => 0

/-- A record for each check of R162 in turn that fails it: reserved bits, permission, swizzle, bounds, width, alignment; and none. -/
theorem witness_GlobalAccesses_records : let r := 0x1000 + 16 * 2 ^ 57 + 64 * 2 ^ 77 + 2 ^ 116
    (recEnd (r + 2 ^ 127) 0, recEnd (r - 2 ^ 116) 0, recEnd (r + 2 ^ 109) 0, recEnd (r + 2 ^ 115) 64, recEnd (r + 2 ^ 57 - 0x1010) 1, recEnd (r + 2) 63, recEnd r 64)
      = (0x01, 0x09, 0x01, 0x07, 0x09, 0x06, 0) := by decide +kernel

/-- A lane whose translation is at hand, one whose is not, and one that may not read. -/
theorem witness_GlobalAccesses_lanes : ((sFull.core 0).tlbFind 0 0x1000).isSome = true ∧ sFull.permit pageAll 0x1000 true false false = .ok 0x101000
    ∧ (sFull.core 0).watch = [] ∧ (sBare.core 0).tlbFind 0 0x1000 = none
    ∧ sSealed.permit { pageAll with r := false, w := false } 0x1000 true false false = .error .prot := by decide +kernel

/-- A log set named by the pair s0:s1, with bits that a pair reserves. -/
theorem witness_GlobalAccesses_logs : Runs (fullS [(1, 0x8000000000000000)]) (curAt 0)
      [.atom ht { d0 with data := .f 7, dst := .f 47, subop := 4, scope := 3, order := 1, offset := 0x4000 }, .acq ht { dd with scope := 3, offset := 0x4000 }
      , .fence ht { dd with scope := 3, offset := 0x4000 }]
    ∧ ((fullS [(1, 0x8000000000000000)]).enter (curAt 0) ht).logsOf (curAt 0) 3 0x4000 = none := ⟨runs_of_now (by decide +kernel), by decide +kernel⟩

theorem witness_ScratchpadAccesses : Runs sFull (curAt 0) [.lds ht { dd with dst := .f 47, buf := .f 6, size := 2 }, .lds ht { dd with dst := .s 31, buf := .s 6, size := 3, offset := 0x3FFF }
      , .sts ht { dd with buf := .f 6, data := .f 47, size := 2, offset := 0x7FFF }, .sts ht { dd with buf := .s 6, data := .s 31, size := 2 }
      , .atoms ht { dd with dst := .f 47, buf := .f 6, data := .f 7, size := 2, subop := 15 }]
    ∧ sFull.padAt 0 0 false (0x3FFF * 8) 8 = some (0, 0, 0x1FFF8) ∧ sFull.padAt 0 0 false 0x20000 1 = none ∧ sFull.padAt 0 0 false (-1) 1 = none
    ∧ sFull.padAt 0 0 false 2 4 = some (0, 0, 2) ∧ (2 : Int) % 4 ≠ 0 := ⟨runs_of_now (by decide +kernel), by decide +kernel⟩

/-- Two cores of a cluster, the second with one workgroup of the launch, or with none. -/
def sCluster (n : Nat) : State :=
  { sFull with cores := [(0, sFull.core 0), (1, { sFull.core 1 with groups := if n = 0 then [] else [(5, { sFull.group 0 0 with linear := 3 })] })] }

theorem witness_ScratchpadAccesses_cluster : (sCluster 1).padAt 0 0 true (2 ^ 22 + 8) 4 = some (1, 5, 8) ∧ (sCluster 0).padAt 0 0 true (2 ^ 22) 4 = none
    ∧ (sCluster 1).padAt 0 0 true 0x1FFFC 4 = some (0, 0, 0x1FFFC) ∧ (sCluster 1).padAt 0 0 true (2 ^ 24) 1 = none
    ∧ (sCluster 1).padAt 0 0 true (2 ^ 23) 1 = none ∧ ((sCluster 1).core 1).groups.map (fun e => (e.1, e.2.linear)) = [(5, 3)]
    ∧ Runs (sCluster 1) (curAt 0) [.lds ht { dd with dst := .f 47, buf := .f 6, size := 2, subop := 2 }, .atoms ht { dd with hbit := true, dst := .f 47, buf := .f 6, data := .f 7, size := 2, subop := 15 }] :=
  ⟨by decide +kernel, by decide +kernel, by decide +kernel, by decide +kernel, by decide +kernel, by decide +kernel, runs_of_now (by decide +kernel)⟩

theorem witness_OrderingIsQueued : Runs sFull (curAt 0) [.acq ht { dd with scope := 5 }, .rel ht { dd with scope := 2 }, .fence ht { dd with scope := 5 }, .seal ht dd]
    ∧ ((sFull.enter (curAt 0) ht).logsOf (curAt 0) 5 0).isSome = true ∧ sFull.acts (curAt 0) (.rel ht dd) = true
    ∧ sFull.acts (curAt 0) (.rel { ht with gneg := true } dd) = false := ⟨runs_of_now (by decide +kernel), by decide +kernel⟩

/-- The core with a line of the open segment. -/
def sDirty : State := withCore sFull (fun k => { k with overlay := [{ line := 0x4040, data := 5, mask := 1, slot := 0, seg := 1, order := 0, poison := false, tainted := false }] })

theorem witness_StoresAreSeen : (0x101000 + 60) % 64 + [1, 2, 3, (4 : Byte)].length ≤ 64
    ∧ ∀ o ∈ (sDirty.core 0).overlays (0x101000 / 64), o.seg = (sDirty.core 0).openSeq ∧ o.slot = 0 := by decide +kernel

/-- A record of a line, and a state in which it stands in its home's queue. -/
def record0 : Record := { line := 0x4040, mask := 3, data := 0xABCD, slot := 0, void := false, order := 0, owner := (0, 0) }
def sQueue : State := { sFull with foldq := [{ home := homeOf (0x4040 * 64), core := 0, seq := 1, record := record0 }] }

/-- A sealed segment with one record. -/
def segment0 : Segment :=
  { seq := 1, records := [record0], at_ := some 0, ntick := some 5, waiting := [], published := false, routed := false, lost := false, forced := false }

/-- A core with that segment, changed by `f`, in a log area of 8 KiB. -/
def sSegment (f : Segment → Segment) : State := withCore sFull (fun k => { k with segs := [f segment0], openSeq := 2, logSize := 8192 })

theorem witness_TheHomeView : ∀ r ∈ sQueue.foldq, r.home = homeOf (r.record.line * 64) := by decide +kernel

/-- A warp with one instruction in flight on token 1. -/
def flying (op : PendOp) : State := withWarp sFull (fun w => { w with tok := [(0, 1)], pend := [{ id := 0, tok := 1, gang := 0xFF, pc := 0, born := 0, op := op }], nextId := 1 })

def lane0 : LaneAcc := { lane := 0, mask := 1, va := 0x1000, pa := 0x101000, dropped := false, data := 0, bytes := [], cmp := 0, dst := [.row 0 4 0] }
def pad0 : PadAcc := { lane := 0, core := 0, group := 0, addr := 0x1FFFC, data := 0, bytes := [1, 2, 3, 4], cmp := 0, dst := [] }

theorem witness_ResultsLand : ((flying (.regs [(.row 7 63 3, 5), (.sreg 0 31, 6)] 16)).pendOf 0 0 0).isSome = true
    ∧ (([(.row 7 63 3, 5), (.sreg 0 31, 6)] : List (Place × W64)).map (·.1)).Nodup
    ∧ ((flying (.load 4 true false [{ lane0 with dst := [.row 0 4 0] }])).pendOf 0 0 0).isSome = true ∧ 0x101000 % 64 + 4 ≤ 64
    ∧ sFull.isPoisoned (0x101000 / 64) = false ∧ sFull.lostAt 0x101000 = false
    ∧ (∀ o ∈ (sFull.core 0).overlays (0x101000 / 64), o.poison = false) ∧ Tab.find (0x101000 / 64) (sFull.core 0).l1 = none
    ∧ sFull.upsets = [] ∧ (sFull.core 0).l1.length + (sFull.core 0).overlay.length < 4096 ∧ (sFull.die 0).lines = []
    ∧ ((flying (.padStore 4 [pad0])).pendOf 0 0 0).isSome = true ∧ (Tab.find 0 ((flying (.padStore 4 [pad0])).core 0).groups).isSome = true
    ∧ ((flying (.padStore 4 [pad0])).core 0).windows = [] := by decide +kernel

/-- A warp with instructions in flight, oldest first, each on token 1. -/
def inFlight (ops : List PendOp) : State := withWarp sFull (fun w => { w with
  tok := [(0, ops.length)], pend := ops.zipIdx.map (fun e => { id := e.2, tok := 1, gang := 0xFF, pc := 0, born := 0, op := e.1 }), nextId := ops.length })

/-- The youngest of them, or the last. -/
def pendAt (s : State) (id : Nat) : Pend := (s.pendOf 0 0 id).getD { id := 0, tok := 0, gang := 0, pc := 0, born := 0, op := .engine 0 }

/-- Each kind of work in flight alone, with what it needs. -/
theorem witness_ResultsLand_kinds : (∀ op ∈ ([.load 16 false true [lane0, { lane0 with lane := 1, dropped := true }], .store 4 [{ lane0 with bytes := [1, 2, 3, 4] }]
        , .padLoad 8 true [pad0], .ldl 4 [(lane0, pad0)], .padAtom 4 4 [pad0], .lbinit 0 0 8 1, .lbarrive 0 0 8 1, .launch 0x101000 [] .start] : List PendOp),
      ((inFlight [op]).pendOf 0 0 0).isSome = true ∧ ((inFlight [op]).warp 0 0).Alone (pendAt (inFlight [op]) 0)
      ∧ (∀ kind ∈ [PendOp.isUnsealed, PendOp.isPadStore, fun q => q.isStore || q.isPadWrite], ((inFlight [op]).warp 0 0).Past (pendAt (inFlight [op]) 0) kind))
    ∧ (sFull.core 0).logFull 0 [0x4040] = false ∧ ((sSegment (fun g => { g with at_ := none })).core 0).logFull 0 [0x4040] = true
    ∧ (∀ o ∈ (sFull.core 0).overlays (0x101000 / 64), o.seg = (sFull.core 0).openSeq) ∧ sFull.PadsFree [pad0] ∧ sFull.ReleasesWell 0
    ∧ (∀ l ∈ linesOf 0x101000 256, sFull.isPoisoned l = false ∧ sFull.lostAt (l * 64) = false) := by
  unfold Warp.Alone Warp.Past State.PadsFree State.ReleasesWell
  decide +kernel

theorem witness_LoadsWell : sFull.LoadsWell 0 16 [lane0, { lane0 with lane := 1, dropped := true }] where
  sure := by decide +kernel
  room := by decide +kernel
  dieRoom := by decide +kernel
  fits := by decide +kernel
  sound := fun a ha hd => by
    have h : sFull.isPoisoned (0x101000 / 64) = false ∧ sFull.lostAt 0x101000 = false ∧ (sFull.core 0).overlays (0x101000 / 64) = []
        ∧ Tab.find (0x101000 / 64) (sFull.core 0).l1 = none ∧ Tab.find (0x101000 / 64) (sFull.die (0 / 64)).lines = none := by decide +kernel
    simp only [List.mem_cons, List.not_mem_nil, or_false] at ha
    rcases ha with rfl | rfl
    · refine ⟨h.1, h.2.1, fun o ho => ?_, fun x hx => ?_, fun x hx => ?_⟩
      · simp [lane0, h.2.2.1] at ho
      · simp [lane0, h.2.2.2.1] at hx
      · simp [lane0, h.2.2.2.2] at hx
    · simp at hd

/-- An acquiring and a releasing atomic at each of its stages; its line is marked in the overlay, or not. -/
theorem witness_ResultsLand_atomics : (∀ op ∈ ([.atom 4 4 3 5 .start false [1] false [lane0] [] 0, .atom 4 4 1 1 .start false [] false [lane0] [] 0
        , .atom 4 4 2 3 (.sealedUpTo 1) false [] false [lane0] [] 0, .atom 4 4 3 5 .released true [1] false [lane0] [(0, .done)] 0] : List PendOp),
      (op.atomWork).isSome = true ∧ ((inFlight [op]).warp 0 0).Alone (pendAt (inFlight [op]) 0)
      ∧ ((inFlight [op]).warp 0 0).Past (pendAt (inFlight [op]) 0) (fun q => q.isStore || q.isSts))
    ∧ accLines [lane0] ≠ [] ∧ (∀ l ∈ accLines [lane0], ∃ o ∈ (sDirty.core 0).overlays l, o.mask ≠ 0)
    ∧ ¬ (∃ l ∈ accLines [lane0], ∃ o ∈ (sFull.core 0).overlays l, o.mask ≠ 0) := by
  unfold Warp.Alone Warp.Past
  decide +kernel

/-- A core with a copy of a line, installed at tick 3 and in the log of core 1, whose notices bear tick 5: past the cursor, up to the tidemark. -/
def sLogged : State :=
  { sFull with
    cores := [(0, { sFull.core 0 with l1 := [(0x4040, { data := 0, tick := 3, order := 0, newer := [], used := 0, poison := false })] })
      , (1, { sFull.core 1 with segs := [{ segment0 with published := true }], openSeq := 2 })]
    pub := [(1, { PubSlot.reset 1 with seq := 1 })] }

theorem witness_Replays : (sLogged.replayed 0 1).map (·.seq) = [1] ∧ Tab.get 0 (sLogged.core 0).cursors 1 < (sLogged.pubSlot 1).seq
    ∧ ¬ Tab.get 0 (sLogged.core 0).cursors 1 < (sLogged.pubSlot 1).ebbSeq ∧ (Tab.find 0x4040 (sLogged.core 0).l1).isSome = true
    ∧ sLogged.isPoisoned 0x4040 = false ∧ (sLogged.replayed 0 2) = [] ∧ ([1, 2] : List Nat).Nodup := by decide +kernel

/-- A request that the workgroup's eight accumulator granules cut down, one for more rows than there are, and one in FP32. -/
def shapeReq (p b m w x : Nat) : W64 := BitVec.ofNat 64 (p + b * 2 ^ 7 + m * 2 ^ 10 + w * 2 ^ 19 + x * 2 ^ 23)

theorem witness_Shapes : (BitVec.field (shapeReq 64 6 1 1 1) 9 7 ≤ 6 ∧ 128 < 2 * 2 ^ BitVec.field (shapeReq 64 6 1 1 1) 9 7 * BitVec.field (shapeReq 64 6 1 1 1) 6 0)
    ∧ (BitVec.field (shapeReq 64 0 256 15 9) 18 10 = 256 ∧ 2 * 2 ^ BitVec.field (shapeReq 64 0 256 15 9) 9 7 * BitVec.field (shapeReq 64 0 256 15 9) 6 0 ≤ 128)
    ∧ (let runs := [Instr.mshape ht { gg with opx := .s 1, opw := .s 31 }, .mteam hh { gg with opx := .s 2 }, .mteamRd ht { gg with opw := .s 31, subop := 1 }
        , .mstride hh { gg with opx := .s 1, stride := 7 }, .mfence hh gg, .mwait hh { gg with subop := 5 }]
      Runs (fullS [(1, shapeReq 1 0 16 1 1)]) (curAt 0) runs ∧ Runs (fullS [(1, shapeReq 1 0 16 3 3)]) (curAt 0) runs
      ∧ Runs (fullS [(1, 0x8000000), (2, 0x40000000)]) (curAt 0) runs)
    ∧ BitVec.field (shapeReq 1 0 16 1 1) 63 27 = 0 ∧ BitVec.field (shapeReq 1 0 16 3 3) 22 19 = 3 ∧ coreWide 0 = false ∧ BitVec.field (0x8000000 : W64) 63 27 ≠ 0
    ∧ teamBad 0 1 = false ∧ teamBad 0x40000000 1 = true ∧ sFull.acts (curAt 0) (.mfence hh gg) = true :=
  ⟨by decide +kernel, by decide +kernel, ⟨runs_of_now (by decide +kernel), runs_of_now (by decide +kernel), runs_of_now (by decide +kernel)⟩
    , by decide +kernel⟩

/-- MTEAM of warps 0 and 1 under a grant of one pair and 16 columns in BF16. -/
def mteam2 : W64 := BitVec.ofNat 64 (2 ^ 63 + (shapeReq 1 0 16 1 1).toNat * 2 ^ 36 + 2 * 2 ^ 30 + 32)

/-- A warp ready for a stage: its format block in s1, both operands in frames. -/
def sTeam : State :=
  withWarp (fullS [(1, 0x200001)]) (fun w => { w with mteam := mteam2, bs := [(0, 1)] })

def stage0 : FmtG := { gg with fmt := .s 1, opx := .f 4, opw := .f 20 }

theorem witness_TeamInstructions : Runs sTeam (curAt 0) [.bfly ht stage0, .bchain ht { stage0 with count := 1 }, .bfly hh stage0]
    ∧ (sTeam.enter (curAt 0) ht).teamCheck (curAt 0) ht ((sTeam.seen (curAt 0) (.bfly ht stage0)).stageUse 0xFF stage0 false) = none
    ∧ (sTeam.enter (curAt 0) ht).teamCheck (curAt 0) ht ((sTeam.seen (curAt 0) (.bchain ht stage0)).stageUse 0xFF { stage0 with count := 1 } true) = none
    ∧ Runs sFull (curAt 0) [.bfly ht stage0] ∧ BitVec.field (sFull.warp 0 0).mteam 32 30 = 0 :=
  ⟨runs_of_now (by decide +kernel), by decide +kernel, by decide +kernel, runs_of_now (by decide +kernel), by decide +kernel⟩

/-- Two warps, both arrived. -/
def arrival (i : Nat) : Arrival :=
  { warp := i, slot := i, gang := 0xFF, pc := 0, tok := 2, ops := stage0, chain := false, mteam := mteam2, fmt := 0x200001, alpha := 0
    opw := [], opx := [], strides := [1], rowsW := [], rowsX := [], pins := [] }
def sLatch : State :=
  withCore (withGroup sTeam (fun g => { g with slots := [0, 1], latch := [arrival 0, arrival 1] }))
    (fun k => { k with warps := [(0, sTeam.warp 0 0), (1, { sTeam.warp 0 0 with idx := 1 })] })

/-- The last member's instruction, the other one waiting with the same. -/
def sLast : State :=
  withCore (withGroup sTeam (fun g => { g with slots := [0, 1], latch := [{ arrival 1 with opw := [0, 0], opx := [0, 0] }] }))
    (fun k => { k with warps := [(0, sTeam.warp 0 0), (1, { sTeam.warp 0 0 with idx := 1 })] })

theorem witness_TeamInstructions_last : Runs sLast (curAt 0) [.bfly ht stage0] ∧ sLast.upsets = []
    ∧ (sLast.enter (curAt 0) ht).teamCheck (curAt 0) ht ((sLast.seen (curAt 0) (.bfly ht stage0)).stageUse 0xFF stage0 false) = none
    ∧ sLast.Unobserved (curAt 0) ∧ (sLast.group 0 0).saving = none ∧ (∀ i ∈ teamSlots mteam2, sLast.gone 0 0 i = false)
    ∧ (let w := sLast.seen (curAt 0) (.bfly ht stage0)
       teamSlots mteam2 = [0, 1] ∧ w.readS 0xFF 1 = 0x200001 ∧ BitVec.field (0x200001 : W64) 43 42 ≠ 2
       ∧ (Tab.get 0 (sLast.warp 0 0).bs 0).toNat = 1) :=
  ⟨runs_of_now (by decide +kernel), by decide +kernel, by decide +kernel
    , ⟨by unfold State.Unstepped; decide, by decide +kernel, by decide +kernel, by decide +kernel, by decide +kernel⟩, by decide +kernel⟩

/-- SPARSE with a frame operand, and SPLIT with one, stop at the checks of R196. -/
theorem test_stage_checks : ∀ o ∈ [{ stage0 with sparse := true }, { stage0 with split := true }],
    readyNow sTeam (curAt 0) (.bfly ht o) = true
    ∧ (sTeam.enter (curAt 0) ht).teamCheck (curAt 0) ht ((sTeam.seen (curAt 0) (.bfly ht o)).stageUse 0xFF o false) = some (illegal 0xFF) := by
  decide +kernel

theorem witness_LatchOpen : let g := sLatch.group 0 0
    let ms := (teamSlots mteam2).filterMap (fun i => g.latch.find? (fun b => b.warp = i))
    g.latch.find? (fun x => x.slot = 0) = some (arrival 0) ∧ ms.length = (teamSlots (arrival 0).mteam).length ∧ g.saving = none
    ∧ (∀ i ∈ teamSlots mteam2, sLatch.gone 0 0 i = false) ∧ (∀ b ∈ ms, b.agrees (arrival 0) = true) ∧ (ms.map (·.slot)).Nodup ∧ ms ≠ []
    ∧ blockFp64 (arrival 0).fmt = false := by
  decide +kernel

/-- Shape 2 rows of 16 columns for MLOAD and MSTORE, and a scratchpad pair of 32-byte rows. -/
def sTiles : State := fullS [(1, 2 + 16 * 2 ^ 8), (2, 32 * 2 ^ 32), (3, 2 * 16), (4, 0x1FFC0), (5, 64), (6, 65), (7, 0), (8, 1)]

theorem witness_EngineTransfers : Runs sTiles (curAt 0)
      [.mscale ht { gg with opx := .s 4, opw := .s 7, aux := .s 5 }, .mscaleOut ht { gg with opx := .s 4, opw := .s 7, aux := .s 6, subop := 1 }
      , .mload ht { gg with opx := .s 2, aux := .s 1, subop := 1, acc := 7 }, .mstore ht { gg with opx := .s 2, aux := .s 1, subop := 1 }
      , .mload ht { gg with opx := .s 2, aux := .s 8, subop := 1 }, .mzero ht { gg with count := 8 }, .mzero ht { gg with acc := 1, count := 8 }]
    ∧ (sTiles.group 0 0).padBytes = 0x1FFC0 + 64 ∧ pwAcc (sTiles.group 0 0).partition = 8
    ∧ spBad (32 * 2 ^ 32) (2 * 16) (rowBytes 16 1) false false = false ∧ (2 : Nat) ≤ spRows (2 * 16) ∧ BitVec.field (1 : W64) 16 8 = 0 :=
  ⟨runs_of_now (by decide +kernel), by decide +kernel⟩

theorem witness_SystemRegisters : Runs sFull (curAt 0) [.mfs hh { ee with dst := .f 47, imm := 6 }, .mfs hh { ee with dst := .s 31, imm := 0x19 }, .rdtick hh { ee with dst := .s 31 }
      , .rdctr hh { ee with dst := .s 31, imm := 0x400 }, .mts hh { ee with srcA := .s 1, imm := 0x13 }, .mts hh { ee with srcA := .s 1, imm := 0x19 }]
    ∧ (sFull.sliceOf (curAt 0) 0).handler = none
    ∧ Runs inHandler (curAt 0) [.mts hh { ee with srcA := .s 1, imm := 0x03 }, .mts hh { ee with srcA := .s 1, imm := 0x18 }]
    ∧ Runs (withWarp inHandler (fun w => { w with slices := w.slices.map (fun e => (e.1, { e.2 with s := [(1, 8)] })) })) (curAt 0) [.mts hh { ee with srcA := .s 1, imm := 0x04 }]
    ∧ (8 : W64).toNat % 16 ≠ 0 ∧ (inHandler.sliceOf (curAt 0) 0).handler.isSome = true ∧ (inHandler.sliceOf (curAt 0) 0).gates = [] :=
  ⟨runs_of_now (by decide +kernel), by decide +kernel, runs_of_now (by decide +kernel), runs_of_now (by decide +kernel), by decide +kernel⟩

/-- Writes of special registers in flight, for a warp inside a gate and outside, and with a held spill. -/
theorem witness_SystemRegisters_land : ((flying (.sys 0x13 5)).pendOf 0 0 0).isSome = true
    ∧ (let s := withWarp (inService 1 id) (fun w => { w with pend := [{ id := 0, tok := 1, gang := 0xFF, pc := 0, born := 0, op := .sys 0x18 0x40 }] })
       (s.pendOf 0 0 0).isSome = true ∧ ((s.warp 0 0).slice 0).gates = [kept])
    ∧ ((sFull.warp 0 0).slice 0).held = [] ∧ ((sFull.warp 0 0).slice 0).coming = [] ∧ ((sFull.warp 0 0).slice 0).hazards = [] := by decide +kernel

/-- A LINEAR request of 64 bytes from 0x1000 to scratchpad 0x100, whose block stands at scratchpad 0. -/
def padWords (at_ : Nat) (ws : List Nat) : Tab Byte :=
  ws.zipIdx.flatMap (fun e => (List.range 8).map (fun i => (at_ + 8 * e.2 + i, BitVec.ofNat 8 (e.1 / 2 ^ (8 * i)))))

/-- A ring of two slots of 64 bytes at 0x400, its descriptor at 0x200: slot numbers P, F, C, Z. -/
def ringWords (p f c z : Nat) : List Nat := [0x400 + 64 * 2 ^ 32 + 2 * 2 ^ 48, p + f * 2 ^ 16 + c * 2 ^ 32 + z * 2 ^ 48, 0, 0]

def sObjects (ss : List (Nat × W64)) (ws : Tab Byte) : State := withGroup (fullS ss) (fun g => { g with spad := ws })

theorem witness_Launches : Runs (fullS [(1, 0x100), (2, 0x20000), (3, 4), (4, 0x1FFF8), (5, 1), (6, 2 ^ 57 - 256), (7, 2 ^ 57), (8, 0x3FFFFFFF), (9, 2 ^ 30)]) (curAt 0)
      [.launch ht { ee with srcA := .s 1, dst := .s 31 }, .launch ht { ee with srcA := .s 3, dst := .s 31 }, .launch ht { ee with srcA := .s 7, dst := .s 31 }
      , .launch { ht with gneg := true } { ee with srcA := .s 1, dst := .s 31 }
      , .xkick ht { ee with srcA := .s 2 }, .xkick ht { ee with srcA := .s 3 }, .xkick ht { ee with srcA := .s 1 }
      , .lbinit ht { ee with srcA := .s 4, srcB := .s 5, imm := 1, subop := 1 }, .lbinit ht { ee with srcA := .s 4, srcB := .s 8 }
      , .lbinit ht { ee with srcA := .s 4, srcB := .s 9 }, .lbarrive ht { ee with srcA := .s 4, srcB := .c 1 }
      , .lbwait hh { ee with srcA := .s 4, imm := 1 }, .lbwait hh { ee with srcA := .s 2 }, .lbwait hh { ee with srcA := .s 3, imm := 1 }]
    ∧ (sFull.group 0 0).padBytes = 0x20000 ∧ sFull.translated 0 0 kindR 0x100 = some (.ok 0x100100)
    ∧ lbExpect (2 ^ 32 + 1) ≠ 0 ∧ lbRemain (2 ^ 32 + 1) = 1 := ⟨runs_of_now (by decide +kernel), by decide +kernel⟩

/-- A copy request that passes the checks, and a block of zeros that does not. -/
theorem witness_Xkick : let s := sObjects [(1, 0)] (padWords 0 [0x10001, 0x1000, 0x100, 64 * 2 ^ 32, 0, 0, 0, 0])
    let z := sObjects [(1, 0)] (padWords 0 [0, 0, 0, 0, 0, 0, 0, 0])
    Runs s (curAt 0) [.xkick ht { ee with srcA := .s 1 }] ∧ s.upsets = [] ∧ (s.group 0 0).rqCheck 0xFF (rqWords (s.group 0 0) 0) = none
    ∧ s.acts (curAt 0) (.xkick ht { ee with srcA := .s 1 }) = true
    ∧ Runs z (curAt 0) [.xkick ht { ee with srcA := .s 1 }] ∧ ((z.group 0 0).rqCheck 0xFF (rqWords (z.group 0 0) 0)).isSome = true :=
  ⟨runs_of_now (by decide +kernel), by decide +kernel, by decide +kernel, by decide +kernel, runs_of_now (by decide +kernel), by decide +kernel⟩

theorem witness_Rings : let get : Instr := .ringget ht { ee with srcA := .s 1, dst := .s 31 }
    let free : Instr := .ringgetFree ht { ee with srcA := .s 1, dst := .s 31, subop := 1 }
    let put : Instr := .ringput hh { ee with srcA := .s 1 }
    let fill : Instr := .ringputFill hh { ee with srcA := .s 1, subop := 1 }
    let at' := fun ws : List Nat => sObjects [(1, 0x200)] (padWords 0x200 ws)
    let d := fun s : State => (s.group 0 0).ringDesc 0x200
    let idle := at' (ringWords 0 0 0 0)
    let busy := at' (ringWords 1 1 0 0xFFFF)
    let done := at' (ringWords 2 1 1 0)
    let none := at' [0, 0, 0, 0]
    (Runs idle (curAt 0) [get, free, put, fill] ∧ Runs busy (curAt 0) [get, free] ∧ Runs done (curAt 0) [put, fill] ∧ Runs none (curAt 0) [get, free, put, fill])
    ∧ idle.acts (curAt 0) get = true ∧ 0x200 + 32 ≤ (idle.group 0 0).padBytes ∧ (idle.core 0).windows = [] ∧ (idle.group 0 0).owed = [] ∧ idle.upsets = []
    ∧ (∀ s ∈ [idle, busy, done], (s.group 0 0).ringBad (d s) = false) ∧ (none.group 0 0).ringBad (d none) = true
    ∧ (ringReady (d idle) true, ringReady (d idle) false, ringReady (d busy) true, ringReady (d busy) false) = (true, false, false, true)
    ∧ ringZ (d done) ≠ ringC (d done) ∧ ringF (d done) ≠ ringP (d done) := by
  refine ⟨⟨?_, ?_, ?_, ?_⟩, by decide +kernel⟩ <;> exact runs_of_now (by decide +kernel)

theorem witness_Barr : let i : Instr := .barr hh { ee with srcA := .s 1, imm := 15 }
    let more := withGroup (fullS [(1, 2)]) (fun g => { g with bars := [(15, { n := 3, waiting := [1] })] })
    Runs (fullS [(1, 33)]) (curAt 0) [i] ∧ Runs (fullS [(1, 32)]) (curAt 0) [i, .barr { hh with gneg := true } { ee with srcA := .s 1, imm := 15 }]
    ∧ Runs (fullS [(1, 1)]) (curAt 0) [i] ∧ Runs more (curAt 0) [i] ∧ (sFull.seen (curAt 0) i).barPart 0xFF = false
    ∧ Runs sPart curPart [i] ∧ (sPart.seen curPart i).barPart 0x7F = true ∧ Tab.find 15 (more.group 0 0).bars = some { n := 3, waiting := [1] } :=
  ⟨runs_of_now (by decide +kernel), runs_of_now (by decide +kernel), runs_of_now (by decide +kernel), runs_of_now (by decide +kernel), by decide +kernel
    , runs_of_now (by decide +kernel), by decide +kernel⟩

/-! States that meet the hypotheses of the statements about the units that act on their own -/

def remote0 : Nat := 2 ^ 51 + 2 ^ 40 + 0x1000

theorem witness_SegmentsReachTheirHomes : (sDirty.core 0).openLines ≠ [] ∧ (∀ g ∈ (sDirty.core 0).segs, g.seq < (sDirty.core 0).openSeq)
    ∧ (let k := (sSegment (fun g => { g with at_ := none })).core 0
       k.segs.find? (fun x => x.at_.isNone) = some { segment0 with at_ := none } ∧ k.logUsed + segUnits 1 ≤ max 64 k.logSize / 64)
    ∧ ((sSegment (fun g => { g with waiting := [7] })).core 0).segs.find? (fun x => !x.published) = some { segment0 with waiting := [7] }
    ∧ ((sSegment id).core 0).segs.find? (fun x => !x.published) = some segment0 ∧ segment0.ntick.isSome = true
    ∧ isRemote (remote0 / 64 * 64) = true ∧ record0.void = false ∧ sFull.lost = [] ∧ sFull.foldq = []
    ∧ ((sSegment (fun g => { g with routed := true, records := [{ record0 with line := remote0 / 64 }] })).core 0).segs.find?
        (fun x => x.routed && x.ntick.isSome) = some { segment0 with routed := true, records := [{ record0 with line := remote0 / 64 }] } := by
  decide +kernel

/-- Each kind of ordering instruction in flight alone, behind a store, and waiting for the segment that stands or for one published. -/
theorem witness_OrderingPerforms : (∀ op ∈ ([.acq 5 [1, 2] false, .rel 5 .start, .fence 2 [1] true .start, .sealUpTo none] : List PendOp),
      ((inFlight [op]).pendOf 0 0 0).isSome = true)
    ∧ ([1, 2] : List Nat).Nodup ∧ ((inFlight [.rel 5 .start]).warp 0 0).Past (pendAt (inFlight [.rel 5 .start]) 0) PendOp.isStore
    ∧ (∃ q ∈ ((inFlight [.store 4 [lane0], .rel 1 .start]).warp 0 0).pend, q.id < (pendAt (inFlight [.store 4 [lane0], .rel 1 .start]) 1).id ∧ PendOp.isStore q.op = true)
    ∧ (inFlight [.rel 5 .start]).ReleasesWell 0 ∧ (inFlight []).lost = []
    ∧ (sSegment (fun g => { g with published := true })).Published 0 5 1 ∧ ¬ (sSegment id).Published 0 2 1
    ∧ ∃ g ∈ ((sSegment (fun g => { g with at_ := none })).core 0).segs, g.seq = 1 ∧ g.at_ = none := by
  unfold Warp.Past State.ReleasesWell State.Published
  decide +kernel

/-- A released atomic of one lane. -/
def atom0 (pa : Nat) : PendOp := .atom 4 4 0 2 .released true [] false [{ lane0 with pa := pa, data := 1 }] [] 0

theorem witness_HomesServeAtomics : ((flying (atom0 0x101000)).atomLane 0 0 0 0).isSome = true ∧ isRemote 0x101000 = false
    ∧ ((flying (atom0 0x101000)).shootdown (0x101000 / 64)).2 = true ∧ (flying (atom0 0x101000)).isPoisoned (0x101000 / 64) = false
    ∧ (match (flying (atom0 0x101000)).atomLane 0 0 0 0 with | some (_, a, l) => a.outcome l.lane = .waiting && a.turnOf l | none => false) = true
    ∧ ({ flying (atom0 remote0) with quanta := 33 * 50000 } : State).tick = 50000
    ∧ (({ flying (atom0 remote0) with quanta := 33 * 50000 } : State).atomLane 0 0 0 0).isSome = true ∧ isRemote remote0 = true := by decide +kernel

/-- A translation that derives from a line asked to be dropped. -/
def sShoot : State :=
  { withCore sFull (fun k => { k with tlb := [pageAll, { pageAll with va := 2 ^ 30, pa := 2 ^ 30, lines := [5] }], shoot := [5] }) with
    replay := [{ port := 1, home := 256, source := 0, req := 0, result := 0, tick := 0 }], quanta := 33 * 50000, shoots := [{ lines := [5], waiting := [0] }] }

theorem witness_HomesServeOutsideAgents : let k := sShoot.core 0
    sShoot.replay[0]? = some { port := 1, home := 256, source := 0, req := 0, result := 0, tick := 0 } ∧ 0 + 50000 ≤ sShoot.tick
    ∧ k.shoot ≠ [] ∧ (∀ e ∈ k.tlb.filter (fun e => e.lines.any (fun l => k.shoot.contains l)), k.loadsOpen e = false ∧ k.pageRecords e = [])
    ∧ sShoot.paOk 320 = true ∧ (sShoot.shootAll (linesOf 320 1)).2 = false ∧ (sShoot.shootAll (linesOf 0x101000 1)).2 = true := by decide +kernel

/-- Page tables that map the first 2^30 bytes onto themselves for ASID 0 of interface 0; a region; a launch block. -/
def pageCells : List Host.Cell :=
  cellsAt 0x10000 8 0x11001 ++ cellsAt 0x11000 8 0x12001 ++ cellsAt 0x12000 8 0x13001 ++ cellsAt 0x13000 8 0x4F
  ++ cellsAt 0x20000 256 (0xFFFF + 2 ^ 16 + 2 ^ 35 + 2 ^ 40 + 0x100000 * 2 ^ 320 + 12 * 2 ^ 432)
  ++ cellsAt 0x30000 256 (2 ^ 256 + 2 ^ 288 + 2 ^ 320 + 2 ^ 352 + 32 * 2 ^ 384 + 8 * 2 ^ 416 + (1 + 16 * 2 ^ 11 + 32 * 2 ^ 18 + 2 ^ 28) * 2 ^ 512)

/-- After boot, with that interface and a bound requester. -/
def sPaged : State :=
  { State.reset with
    mem := pageCells
    vis := [(0, { VI.reset with dies := 1, regtab := 0x20000, regcnt := 1, asidbase := 0, asidcnt := 16, asidtab := 0x10000 })]
    requesters := [(7, 0)], security := { Security.reset with started := true } }

theorem witness_Pcie : sPaged.pciePa 7 0x1234 false = some 0x1234 ∧ sPaged.pciePa 7 0x1234 true = some 0x1234 ∧ sPaged.pciePa 8 0 false = none
    ∧ sPaged.pciePa 8 0 true = none ∧ sPaged.paOk 0x1234 = true ∧ sPaged.cores = [] ∧ Memory.wf sPaged.mem = true
    ∧ sPaged.upsets = [] ∧ sPaged.foldq = [] := by decide +kernel

/-- A request over the end of a page, a poisoned line in its second page, and requesters of one interface and of another. -/
theorem witness_Pcie_pages : let s := { sPaged with poison := [0x2000 / 64], requesters := [(7, 0), (9, 1)] }
    s.pciePages 7 0x1FF0 false 0 2 32 = some [(0x1FF0, 0, 16), (0x2000, 16, 16)] ∧ s.foldq = [] ∧ 0x2000 / 64 ∈ linesOf 0x2000 16
    ∧ s.bound 7 = some (0, 0) ∧ s.bound 9 = some (0, 1) ∧ s.bound 8 = none := by decide +kernel

/-- Slices with spilled rows that have not landed, the first four of them filling a block. -/
def sSpill (n : Nat) : State :=
  fullAt (fun sl => { sl with
    spillTop := 0x40080, held := (List.range n).map (fun i => { pos := i, va := BitVec.ofNat 57 (0x40000 + 16 * i), asid := 0, row := 7, level := 0, poison := false }) })

/-- Slices with 20 rows on the backing store, of which 15 are to come back, changed by `f`. -/
def sRefill (f : Slice → Slice) : State :=
  fullAt (fun sl => f { sl with low := 20, top := 66, spillTop := 0x40200, refillTo := some 5 })

theorem witness_Undertow : (∀ n ∈ [1, 5], let sl := ((sSpill n).warp 0 0).slice 0
      (sl.held.headD { pos := 0, va := 0, asid := 0, row := 0, level := 0, poison := false }).va = 0x40000 ∧ sl.resting = false
      ∧ (sSpill n).xlate 0 ((sSpill n).tableOf 0 0) 0 0x40000 false true false = .ok 0x140000)
    ∧ gathered (((sSpill 1).warp 0 0).slice 0).held = 1 ∧ gathered (((sSpill 5).warp 0 0).slice 0).held = 4
    ∧ (let s := sRefill (fun sl => { sl with resting := true })
       ((s.warp 0 0).slice 0).wantsRefill 64 = true ∧ ((s.warp 0 0).slice 0).gates = [] ∧ ((s.warp 0 0).slice 0).resting = true)
    ∧ (let s := sRefill (fun sl => { sl with
          low := 19, refillTo := none, spilledRows := [(19, 0)], coming := [{ pos := 19, va := 0x401F0, asid := 0, level := 0 }] })
       let sl := (s.warp 0 0).slice 0
       sl.held = [] ∧ sl.resting = false ∧ sl.newSpillTop = none ∧ sl.unwound = none ∧ sl.top ≤ 19 + 64 ∧ s.upsets = []
       ∧ s.xlate 0 (s.tableOf 0 0) 0 0x401F0 true false false = .ok 0x1401F0 ∧ s.lostAt 0x1401F0 = false
       ∧ (s.readHome (0x1401F0 / 64)).isPoisoned (0x1401F0 / 64) = false ∧ (0 : W128) = BitVec.ofNat 128 (ofBytes (s.homeBytes 0x1401F0 16))
       ∧ Tab.find 19 sl.spilledRows = some 0) := by decide +kernel

/-- A request of 64 bytes to scratchpad 0x100, with a chunk of it in flight. -/
def request0 : CopyReq :=
  { id := 0, slot := 0, group := 0, gang := 0xFF, asid := 0, tok := 1, words := [0x10001, 0x1000, 0x100, 64 * 2 ^ 32, 0, 0, 0, 0], started := 0, landed := 0
    offset := 0, idx := 0, ring := none, bitPos := 0, produced := 0, table := [], held := false, allStarted := false, shadow := [] }
def chunk0 : Chunk := { id := 1, req := 0, row := 0, dest := .pad, writes := [(0x100, [1, 2])], bytes := 2, rows := 0, last := false }
def sCopy : State := withCore sFull (fun k => { k with copyq := [request0], nextReq := 1 })
def sChunk : State := withCore sCopy (fun k => { k with chunks := [chunk0], nextReq := 2 })

theorem witness_CopyChunks : (sCopy.core 0).copyq.find? (fun x => x.id = 0) = some request0 ∧ sCopy.mayStart 0 request0 = true ∧ sCopy.upsets = []
    ∧ (match sCopy.draw1.2.beginChunk 0 (sCopy.draw1.2.holdTable 0 request0) sCopy.draw1.1 with
        | .ok (s', _, k) => k.stop.isNone && let q := s'.copyTouch 0 (sCopy.draw1.2.holdTable 0 request0) k; q.poison.isEmpty && q.upsets.isEmpty
        | .error _ => false) = true
    ∧ (sChunk.core 0).chunks.find? (fun x => x.id = 1) = some chunk0 ∧ (sChunk.core 0).chunks.find? (fun x => x.req = 0) = some chunk0
    ∧ rqLben request0.words = false ∧ (Tab.find 0 (sChunk.core 0).groups).isSome = true ∧ (sChunk.core 0).windows = [] := by decide +kernel

/-- The engine with one instruction. -/
def engine0 (kind : EngKind) (finished : Bool) : EngInstr :=
  { id := 0, group := 0, seed := 0, kind := kind, members := [(0, 0xFF, 2)], pairs := 1, blk := 1, cols := 16, fmt := 0x200001, alpha := 0, acc := 7, count := 1
    split := false, sparse := false, strides := [1], w := .pad 0 0 0 0 0, x := .pad 0 0 0 0 0, stale := [], h := 2, wd := 16, off := 0, begun := false
    t := 0, j := 0, steps := 0, carry := [], carryExp := [], partialOut := [], flags := 16, finished := finished }
def sEngine (kind : EngKind) (finished : Bool) : State := withCore (flying (.engine 0)) (fun k => { k with mq := [engine0 kind finished], nextReq := 1 })

theorem witness_Engines : ∀ kind ∈ [EngKind.bfly, .bchain, .mscale true, .mscale false, .mzero],
    ((sEngine kind false).core 0).mq.find? (fun x => !x.finished) = some (engine0 kind false) ∧ ((sEngine kind false).group 0 0).saving = none
    ∧ (engine0 kind false).stale = [] ∧ ((sEngine kind true).core 0).mq = [engine0 kind true] ∧ ((sEngine kind true).core 0).windows = []
    ∧ (sEngine kind false).upsets = [] ∧ (sEngine kind false).slips = []
    ∧ (((sEngine kind true).warp 0 0).pend.find? (fun q => q.op = .engine 0)).isSome = true := by decide +kernel

/-- A pair of a last stage of BFLY and of a stage of BCHAIN that another follows, at strides 1 and 2; and an element of rows in the
scratchpad. -/
theorem witness_Engines_pairs : (let e := engine0 .bfly false
      e.t + 1 = e.stages ∧ 0 < e.chunkPairs 1 ∧ e.pairs % 1 = 0 ∧ 2 * e.blk * e.pairs ≤ 128 ∧ e.stale = [] ∧ e.sparse = false
      ∧ e.w = .pad 0 0 0 0 0 ∧ e.x = .pad 0 0 0 0 0)
    ∧ (let e := { engine0 .bchain false with pairs := 4, count := 2, strides := [2, 1] }
       e.t + 1 ≠ e.stages ∧ carryCode e.fmt ≠ 15 ∧ 0 < e.chunkPairs 4 ∧ e.pairs % 2 = 0 ∧ 2 * e.blk * e.pairs ≤ 128)
    ∧ (let e := { engine0 (.mstore 1 0) false with x := .pad 0 32 0 0 0 }
       (0 : Nat) < e.h ∧ 15 < e.wd ∧ e.h ≤ 128 ∧ rowBytes e.wd 1 ≤ 32)
    ∧ (∀ p ∈ [(FVal.fin true 3 (-1), FVal.fin false 1 0)], (∃ n m e, p.1 = .fin n m e) ∧ ∃ n m e, p.2 = .fin n m e) :=
  ⟨by decide +kernel, by decide +kernel, by decide +kernel, by intro p hp; rw [List.mem_singleton] at hp; subst hp; exact ⟨⟨_, _, _, rfl⟩, _, _, _, rfl⟩⟩

theorem witness_WaitsBegin : Runs s0 (curAt 0) [.regang hh cc, .yield hh cc] ∧ Runs sPart curPart [.regang hh cc] ∧ sPart.slicesActing curPart (.regang hh cc) ≠ []
    ∧ (sPart.seen curPart (.regang hh cc)).live ≠ 0x7F
    ∧ Runs (withWarp s0 (fun w => { w with preq := true })) (curAt 0) [.yield hh cc] :=
  ⟨runs_of_now (by decide +kernel), runs_of_now (by decide +kernel), by decide +kernel, by decide +kernel, runs_of_now (by decide +kernel)⟩

/-- Every slice waits, each in one gang of all or in two gangs, slice 7 elsewhere. -/
def sWait (x : Wait) (f : Nat → Slice → Slice) : State :=
  withWarp sFull (fun w => { w with slices := w.slices.map (fun e => (e.1, f e.1 { e.2 with wait := x })) })

def apart (j : Nat) (sl : Slice) : Slice := { sl with gang := if j = 7 then 0x80 else 0x7F, pc := if j = 7 then 12 else 0 }

theorem witness_RegangPoint : ∀ s ∈ [sWait .regang (fun _ => id), sWait .regang apart], (s.warp 0 0).live ≠ 0 ∧ (s.warp 0 0).gangs ≠ [] ∧ (s.warp 0 0).report = none
    ∧ ∀ j ∈ gangSlices (s.warp 0 0).live, ((s.warp 0 0).slice j).wait = .regang := by decide +kernel

theorem witness_RegangPoint_apart : (∀ j ∈ gangSlices 0xFF, (((sWait .regang (fun _ => id)).warp 0 0).slice j).pc = 0)
    ∧ (((sWait .regang apart).warp 0 0).slice 7).pc ≠ (((sWait .regang apart).warp 0 0).slice 0).pc := by decide +kernel

/-- A landing barrier of phase 1, and a ring with a filled berth. -/
def sLanding : State := withGroup (sWait (.landing 0x300 false) (fun _ => id)) (fun g => { g with spad := padWords 0x300 [2 ^ 63 + 2 ^ 32 + 1] })
def sBerth : State :=
  withGroup (sWait (.ring 0x200 false 31 2 0) (fun _ => id)) (fun g => { g with spad := padWords 0x200 (ringWords 1 1 0 0) })

theorem witness_Releases : (sLanding.warp 0 0).gangs.find? (fun q => gangLeader q = 0) = some 0xFF ∧ lbPhase (sLanding.lbRead 0 0 0x300) ≠ false
    ∧ (sLanding.warp 0 0).touches 0 0x300 8 = false
    ∧ (sBerth.warp 0 0).gangs.find? (fun q => gangLeader q = 0) = some 0xFF ∧ (sBerth.group 0 0).ringBad ((sBerth.group 0 0).ringDesc 0x200) = false
    ∧ ringReady ((sBerth.group 0 0).ringDesc 0x200) false = true ∧ (sBerth.core 0).windows = [] ∧ (Tab.find 0 (sBerth.core 0).groups).isSome = true ∧ sLanding.upsets = [] := by decide +kernel

/-- The line at the program counter is missing, and the page may be executed. -/
def sMissing : State := withCore sFull (fun k => { k with icache := [] })
/-- A fault of a store waits for the gang. -/
def sPending : State := fullAt (fun sl => { sl with pending := [{ cause := 0x07, cls := .h, sub := 0, mask := 1, va := 0x1000 }] })

theorem witness_FillsAndFaults : (sMissing.warp 0 0).gangs.find? (fun q => gangLeader q = 0) = some 0xFF ∧ sMissing.lineHere 0 0 0xFF = false ∧ (sMissing.warp 0 0).walk = none
    ∧ (sMissing.warp 0 0).report = none ∧ sMissing.upsets = [] ∧ sMissing.xlate 0 (sMissing.tableOf 0 0) 0 0 false false true = .ok 0x100000
    ∧ sPending.gangHold 0 0 0xFF = none ∧ ((sPending.warp 0 0).slice 0).handler = none
    ∧ (gangSlices 0xFF).find? (fun i => decide (((sPending.warp 0 0).slice i).pending ≠ [])) = some 0 := by decide +kernel

theorem witness_BarrierRelease : let s := withGroup sFull (fun g => { g with bars := [(15, { n := 1, waiting := [0] })] })
    Tab.find 15 (s.group 0 0).bars = some { n := 1, waiting := [0] } ∧ (s.group 0 0).barrCount 1 ≤ 1 := by decide +kernel

/-- A warp that waits for one translation, and one whose page is not there. -/
def walk0 (va : VA) : Walk := { gang := 0xFF, asid := 0, lanes := [(0, 1, va)], write := false, read := true, exec := false, sub := 0 }
def sWalk (va : VA) : State := withWarp sFull (fun w => { w with walk := some (walk0 va) })

/-- The translation of a waiting lane once the walk's entries are held. -/
def looked (s : State) (va : Nat) : Except XlatFail Nat :=
  (s.modCore 0 (fun x => { x with tlb := x.tlb ++ s.walkEntries 0 (s.tableOf 0 0) 0 [va] })).xlate 0 (s.tableOf 0 0) 0 va true false false

theorem witness_Walks : ((sWalk 0x1000).warp 0 0).walk = some (walk0 0x1000) ∧ looked (sWalk 0x1000) 0x1000 = .ok 0x101000
    ∧ ((sWalk 0x10000000).warp 0 0).walk = some (walk0 0x10000000) ∧ looked (sWalk 0x10000000) 0x10000000 = .error .major
    ∧ (xlatTrapOf 0 [(0, 1, 0x10000000, .major)]).isSome = true := by decide +kernel

/-- An issue slot whose gang is ready, one without a warp, and one whose pipe is full with a ready warp pending. -/
def sReady : State := { s0 with cur := none }
def sFullPipe : State :=
  { withCore s0 (fun k => { k with warps := (List.range 9).map (fun i => (i, { s0.warp 0 0 with age := i, active := decide (i < 8), readySince := if i = 8 then some 0 else none })) }) with
    cycle := 4096 }

theorem witness_IssueCycle : (let s1 := ((sReady.seeSlot 0 0).keepPipe 0 0).noteReady 0 0
      (match (s1.choiceOrder 0 0).findSome? (fun i => (s1.readyGang 0 i).map (fun q => (i, q.1, q.2))) with | some (i, g, .go _ _) => i = 0 && g = 0xFF | _ => false) = true)
    ∧ sReady.slips = [] ∧ Tab.get 0 (sReady.core 0).seen 0 ≤ sReady.cycle ∧ (∀ e ∈ (sReady.core 0).warps, e.2.pipe ≠ 1) ∧ (sReady.core 0).frozen = false := by decide +kernel

theorem witness_PendingStarvation : ((sFullPipe.core 0).pipeWarps 0 false).find? (fun i => match (sFullPipe.warp 0 i).readySince with
      | some t => decide (t + 4096 ≤ sFullPipe.cycle) | none => false) = some 8
    ∧ ((sFullPipe.core 0).pipeWarps 0 true).getLast? = some 7 := by decide +kernel

theorem witness_Submit : (5 : Nat) < 64 ∧ sPaged.security.started = true ∧ (0x30001 : Nat) % 256 ≠ 0
    ∧ (let x := sPaged.vi 0
       (match sPaged.walk { at_ := x.asidtab, base := x.asidbase, count := x.asidcnt } (BitVec.ofNat 16 x.asidbase) 0x30000 with
        | .ok e => decide (sPaged.permit e 0x30000 true false false = .ok 0x30000)
        | .error _ => false) = true
       ∧ bitsAt (ofBytes (sPaged.homeBytes 0x30000 256)) 192 16 < x.regcnt ∧ (sPaged.regionOf 0 0).isSome = true
       ∧ (parseLaunch (ofBytes (sPaged.homeBytes 0x30000 256))).isSome = true
       ∧ (match sPaged.regionOf 0 0 with | some r => decide (r.ctxArea ≠ 0) | none => false) = true ∧ sPaged.launches = [] ∧ sPaged.poisonIn 0x30000 256 = false
       ∧ { sPaged with poison := [0x30000 / 64 + 3] }.poisonIn 0x30000 256 = true) := by decide +kernel

/-- A launch of one workgroup of one warp, that waits for a word at 0x8. -/
def block0 : LaunchBlock :=
  { code := 0, args := 0, completion := 0, region := 0, gridX := 1, gridY := 1, gridZ := 1, warps := 1, threads := 32, partition := 8, order := 0, swz := 0
    check := false, notify := false, roles := [{ pipes := 1, budget := 32, fsz := 16, count := 1 }]
    deps := [{ value := 0, step := 0, kind := 1, cond := 0, early := false, addr := 8 }], progress := 0, reserve := 0 }
def region0 : Region :=
  { Region.empty with table := { at_ := 0x10000, base := 0, count := 16 }, dieMask := 1, ctxArea := 0x100000, chain := [(0, 0, 0, 0, 0)] }
def launch0 : Launch :=
  { handle := 1, region := region0, block := block0, next := 0, placed := 0, ended := 0, requeued := [], wide := false, killed := false, met := [], words := [] }
def sLaunch : State := { sPaged with launches := [launch0], nextHandle := 2 }

theorem witness_Dispatch : let q := sLaunch.refreshQueues
    sLaunch.security.started = true ∧ sLaunch.saved = [] ∧ q.queueKeys = [0] ∧ (q.queue 0).eligible = true ∧ (q.queue 0).holds = false ∧ q.queueClass 0 = 0
    ∧ q.leastPass ((q.queueKeys.filter (fun k => (q.queue k).eligible)).filter (fun e => decide (q.queueClass e = 0))) = some 0
    ∧ (q.queuePlace 0).isSome = true ∧ q.headOf 0 = some launch0 ∧ q.earlyFails launch0 launch0.nextLinear = [] := by decide +kernel

/-- The same with more warps than one pipe takes, its queue unfit for 65,536 ticks. -/
def sUnfit : State :=
  { sLaunch with launches := [{ launch0 with block := { block0 with warps := 33, threads := 1056, roles := [{ pipes := 1, budget := 32, fsz := 16, count := 33 }] } }], queues := [(0, { QueueState.reset with since := some 0 })], quanta := 33 * 65536 }

theorem witness_ClassHold : let q := sUnfit.refreshQueues
    (q.queue 0).since = some 0 ∧ 0 + 65536 ≤ sUnfit.tick
    ∧ q.leastPass (q.queueKeys.filter (fun k => decide (q.queueClass k = q.queueClass 0))) = some 0 := by decide +kernel

theorem witness_Dependence : sLaunch.launches.find? (fun x => x.handle = 1) = some launch0 ∧ 0 < block0.deps.length ∧ 0 < block0.total
    ∧ sLaunch.depMet launch0 0 0 = true := by decide +kernel

/-- A workgroup whose only warp has ended, before and after its end publication. -/
def sEnded (ending : Option Nat) : State :=
  withGroup (fullAt (fun sl => { sl with live := false, gang := 0 })) (fun g => { g with launch := 1, ending := ending })

theorem witness_WorkgroupEnd : (Tab.find 0 ((sEnded none).core 0).groups).isSome = true ∧ ((sEnded none).group 0 0).waiting = false
    ∧ ((sEnded none).group 0 0).saving = none ∧ (sEnded none).groupDone 0 0 = true ∧ ((sEnded (some 0)).group 0 0).ending = some 0
    ∧ (sEnded (some 0)).groupDone 0 0 = true ∧ (sEnded (some 0)).publishedFor 0 4 0 = true ∧ (sEnded (some 0)).launches = []
    ∧ ((sEnded none).group 0 0).counting = none
    ∧ (let s := { withGroup (sEnded (some 0)) (fun g => { g with counting := some 0 }) with launches := [launch0] }
       s.launches.find? (fun y => y.handle = 1) = some launch0 ∧ s.publishedFor 0 3 0 = true ∧ s.countLines launch0 = [])
    ∧ (let l := { launch0 with block := { block0 with completion := 0x1000 } }
       let s := { sPaged with cores := (sEnded (some 0)).cores, launches := [l] }
       s.countLines l = [0x1000 / 64] ∧ s.derived (0x1000 / 64) = [] ∧ (s.core 0).overlays (0x1000 / 64) = []) := by decide +kernel

theorem witness_Fdrelease : (63 : Nat) < 64 ∧ BitVec.field (0xFFF : W64) 63 12 = 0 := by decide +kernel

/-- A halted warp. -/
def report0 : Report :=
  { tick := 0, pc := 0, addr := 0, fmask := 1, m0 := 0xFFFFFFFF, code := 0, stopGang := 0xFF, live := 0xFF, sub := 0, cause := 7, asid := 0, domain := 0
    gdepth := 0, inHandler := false, pending := false, second := false }
def sHalted : State := withWarp sFull (fun w => { w with report := some report0 })
/-- All slices at YIELD under a request whose deadline has passed. -/
def sYield : State :=
  withGroup (withWarp (sWait .yield (fun _ => id)) (fun w => { w with preq := true })) (fun g => { g with deadline := some 0 })

theorem witness_Preemption : (Tab.find 0 (sFull.core 0).groups).isSome = true ∧ (sFull.group 0 0).saving = none ∧ (sFull.group 0 0).waiting = false
    ∧ sFull.preqSet 0 0 = false ∧ sFull.haltedSlots 0 0 = [] ∧ sHalted.haltedSlots 0 0 = [0] ∧ sHalted.preqSet 0 0 = false
    ∧ sYield.preqSet 0 0 = true ∧ sYield.allYield 0 0 = true ∧ (sYield.group 0 0).deadline = some 0 ∧ sYield.haltedSlots 0 0 = [] := by decide +kernel

/-- A gang that has waited 2^26 cycles, outside and inside a handler. -/
def sBite (f : Slice → Slice) : State := { sWait .latch (fun _ => f) with cycle := 2 ^ 26 }

theorem witness_Watchdog : ∀ s ∈ [sBite id, sBite (fun sl => { sl with handler := some { m0 := 0xF, gang := 0xFF, fsz := 48, markAt := none } })],
    (s.warp 0 0).gangs.find? (fun a => gangLeader a = 0) = some 0xFF ∧ ((s.warp 0 0).slice 0).wait.watched = some 2 ∧ (s.warp 0 0).report = none
    ∧ (s.group 0 0).saving = none ∧ ((s.warp 0 0).slice 0).waitSince + 2 ^ 26 ≤ s.cycle := by decide +kernel

theorem witness_DebugWindow : (sHalted.warp 0 0).report.isSome = true ∧ (∀ j, j < 8 → slotAligned ((sHalted.warp 0 0).slice j).pc.toNat = true)
    ∧ (∀ e ∈ (sHalted.warp 0 0).slices, e.1 < 8) ∧ (sFull.warp 0 0).report = none ∧ sHalted.windowOpen 0 0 0 = true ∧ sFull.windowOpen 0 0 0 = true
    ∧ sHalted.windowOpen 1 0 0 = false ∧ sHalted.windowOpen 0 0 1 = false
    ∧ (Tab.find 0 (sHalted.core 0).groups).map (·.launch) = some (sHalted.group 0 (sHalted.warp 0 0).group).launch
    ∧ ((sHalted.warp 0 0).slice 7).low ≤ 5 ∧ 5 < ((sHalted.warp 0 0).slice 7).top ∧ 5 % (sHalted.warp 0 0).rowB = 5
    ∧ ((sHalted.warp 0 0).slice 7).top ≤ 63 := by decide +kernel

/-- A trace unit with a buffer of 64 KiB, the last SYNC 65,536 ticks ago. -/
def sTrace (first : Nat) (dropped : Nat) : State :=
  { withCore sFull (fun k => { k with trace := { Trace.reset with en := true, count := 1, first := first, size := 0x10000, owed := false, dropped := dropped } }) with
    quanta := 33 * 65536 }

theorem witness_Trace : ∀ s ∈ [sTrace 0 0, sTrace 64 0, sTrace 0 1], let r := (s.core 0).trace
    r.en = true ∧ r.size ≠ 0 ∧ r.read.toNat ≤ r.write.toNat ∧ r.write.toNat + 2 ^ 16 < 2 ^ 64 ∧ 16 * (s.core 0).gangMarks.length ≤ 2000 ∧ r.startTick ≠ s.tick ∧ r.owed = false
    ∧ r.syncTick + 65536 ≤ s.tick ∧ 10 + 16 * (s.core 0).gangMarks.length ≤ r.room ∧ 2048 ≤ r.room := by decide +kernel

theorem witness_Trace_warps : ((sTrace 0 0).core 0).tracesWarp = true ∧ ((sTrace 64 0).core 0).tracesWarp = false ∧ ((sTrace 0 1).core 0).trace.dropped ≠ 0 := by
  decide +kernel

/-- The same with the entries that stood when the tick began. -/
theorem witness_Trace_tick : let s := withCore (sTrace 0 0) (fun k => { k with trace := { k.trace with startTick := 65536, atStart := [{ slot := 0, pc := 0, gang := 1, m0 := 0, depth := 0 }] } })
    let r := (s.core 0).trace
    r.startTick = s.tick ∧ 16 * (r.atStart.filter (fun q => r.covers q.slot)).length = 16 ∧ 10 + 16 ≤ r.room ∧ r.syncTick + 65536 ≤ s.tick := by decide +kernel

theorem witness_Reliability : sFull.upsets = [] ∧ (15 : Nat) < 16 ∧ (27 : Nat) < 28 ∧ sFull.gated = false ∧ ({ sFull with stopTick := 1, quanta := 33 } : State).stopTick.toNat
      ≤ ({ sFull with stopTick := 1, quanta := 33 } : State).tick ∧ ({ sFull with gated := true } : State).gated = true ∧ sFull.limit < 3201
    ∧ 3200 ≤ sFull.limit ∧ (95 : Nat) ≤ 95 ∧ (110 : Nat) ≤ 110 := by decide +kernel

/-- An image with no right magic number. -/
def image0 (svn : BitVec 8) : Image :=
  { magic := 0, kind := 1, svn := svn, reserved6 := 0, length := 0, digest := [], rsaModulus := [], rsaExponent := 0, slhKey := [], reserved500 := []
    rsaSignature := [], slhSignature := [], payload := [] }

/-- Boot with a bad image. That an image is good is a matter of the signature algorithms, which the model leaves open, so the good case
has its witness in any such image. -/
theorem witness_Boot : State.reset.security.started = false ∧ ([{ main := image0 0, alternate := image0 1 }] : List BootImage) ≠ []
    ∧ (image0 0).passes State.reset.security.fuse = false ∧ (image0 1).passes State.reset.security.fuse = false := by decide +kernel

theorem witness_Boot_good (m : Image) (h : m.passes State.reset.security.fuse = true) :
    ∀ b ∈ [({ main := m, alternate := image0 0 } : BootImage)], b.main.passes State.reset.security.fuse = true ∨ b.alternate.passes State.reset.security.fuse = true := by
  intro b hb
  rw [List.mem_singleton] at hb
  exact hb ▸ .inl h

/-- A package in a domain, with a port that is up and one that has not been heard for 200 µs. -/
def sLinks : State :=
  { State.reset with domainWord := 0x8000000000000001, ports := [(0, { Port.reset with up := true, peer := 2 })], quanta := 33 * 200000 }

theorem witness_RegistersAndLinks : (63 : Nat) < 64 ∧ (511 : Nat) < 512 ∧ (3 : Nat) < 4 ∧ (∀ e ∈ State.reset.ports, e.2.up = false) ∧ (∃ e ∈ sLinks.ports, e.2.up = true)
    ∧ (23 : Nat) < 24 ∧ sLinks.domainWord.getLsbD 63 = true ∧ (sLinks.port 0).up = true ∧ 2 ∉ sLinks.lost
    ∧ (∃ e ∈ sLinks.ports, e.2.up = true ∧ e.2.peer = 2)
    ∧ (∀ e ∈ sLinks.ports, e.2.up = true → e.2.peer = 2 → e.2.lastAck + 200000 ≤ sLinks.tick) ∧ (sLinks.port 0).expect = 0 ∧ bitsAt (5 * 64) 50 2 = 0 := by decide +kernel

/-- That an image passes is a matter of the signature algorithms here too, as at boot. -/
theorem witness_Security : ((State.reset.security.loaded ++ [image0 3])[0]?).isSome = true ∧ (image0 3).svn.toNat ≤ 3
    ∧ (List.replicate 48 (0 : Byte)).length = 48 ∧ bitsAt (3 * 2 ^ 50 : Nat) 50 2 = 3
    ∧ ({ image0 3 with kind := 4 } : Image).passes State.reset.security.fuse = false ∧ (7 : BitVec 16) ∉ State.reset.security.services := by decide +kernel

/-- An address above the firmware's region, wherever that lies. -/
theorem witness_Security_filter (r : Nat × Nat) : let pa := 2 ^ 52 * (r.1 + r.2 + 1)
    ¬ (bitsAt pa 50 2 = 3 ∨ r.1 ≤ pa ∧ pa < r.1 + r.2) := by
  have h : bitsAt (2 ^ 52 * (r.1 + r.2 + 1)) 50 2 = 0 := by unfold bitsAt; omega
  intro pa hpa
  simp only [pa] at hpa
  omega

/-- A step that issues: the pipe's turn has come, and its issue cycle latches one instruction. -/
theorem witness_StepRuns : sReady.nextEvent = none ∧ sReady.power = .running ∧ sReady.gated = false
    ∧ sReady.busyPipes.find? (fun p => decide (sReady.turn ≤ p)) = some 0
    ∧ (match exec (.issueCycle 0 0) { sReady with turn := 1, ir := [], cur := none } with | .next t => decide (t.ir.length = 1) | _ => false) = true
    ∧ sReady.gangHold 0 0 0xFF = none ∧ sReady.deliverPending 0 0 0xFF = none
    ∧ (match Tab.find (icKey 0 0) (sReady.core 0).icache with
      | some l => parityOk l 0 && !lwReserved l && !pairBit l 0 && !(sReady.core 0).icBad.contains (icKey 0 0)
          && (match decodeSlot (lineSlot l 0) with | .ok i => decide (i = .nop { hh with guard := 0 } aa) && (sReady.instrHold 0 0 0xFF i).isNone | .error _ => false)
      | none => false) = true
    ∧ (∀ j ∈ gangSlices 0xFF, ((sReady.warp 0 0).slice j).mark = false) := by decide +kernel

/-- A step that performs an event. -/
theorem witness_StepEvents : (match ({ sReady with agenda := [.scrubRead 0 .clean] } : State).nextEvent with | some (e, r) => isEvent e && !latches e && r.isEmpty | none => false) = true
    ∧ (match exec (.scrubRead 0 .clean) sReady with | .next _ => true | _ => false) = true := by decide +kernel

end

end Sys2Proof.Tests
end

