-- ==== Sys2Proof/Proofs/SlotAddresses.lean ====
section
/-! Slot arithmetic (R66): on the addresses 64 × line + 12 × slot the model's `slotNum` and `slotAddr` are inverse to each other,
and fall-through and branch offsets are additions of slot numbers. -/

namespace Sys2Proof.Machine

theorem slotAligned_iff (a : Nat) :
    slotAligned a = true ↔ a % 64 = 0 ∨ a % 64 = 12 ∨ a % 64 = 24 ∨ a % 64 = 36 ∨ a % 64 = 48 := by
  simp only [slotAligned, Bool.and_eq_true, decide_eq_true_eq]
  omega

theorem slotNum_line_slot (line : Nat) {i : Nat} (hi : i ≤ 4) : slotNum (64 * line + 12 * i) = 5 * line + i := by
  unfold slotNum
  omega

theorem slotAddr_line_slot (line : Nat) {i : Nat} (hi : i ≤ 4) : slotAddr (5 * line + i) = 64 * line + 12 * i := by
  unfold slotAddr
  omega

/-- A slot of a line below 2^57 lies below 2^57 too, as 2^57 is a multiple of 64. -/
theorem toNat_ofNat_line_slot {line i : Nat} (hi : i ≤ 4) (hline : 64 * line < 2 ^ 57) :
    (BitVec.ofNat 57 (64 * line + 12 * i)).toNat = 64 * line + 12 * i := by
  rw [BitVec.toNat_ofNat, Nat.mod_eq_of_lt (by omega)]

theorem slotNum_ofNat_line_slot {line i : Nat} (hi : i ≤ 4) (hline : 64 * line < 2 ^ 57) :
    slotNum (BitVec.ofNat 57 (64 * line + 12 * i)).toNat = 5 * line + i := by
  rw [toNat_ofNat_line_slot hi hline, slotNum_line_slot line hi]

theorem nextSlot_line_slot {line i : Nat} (hi : i ≤ 4) (hline : 64 * line < 2 ^ 57) :
    nextSlot (BitVec.ofNat 57 (64 * line + 12 * i)) = BitVec.ofNat 57 (slotAddr (5 * line + i + 1)) := by
  rw [nextSlot, slotNum_ofNat_line_slot hi hline]

theorem nextSlot_within_line {line i : Nat} (hi : i < 4) (hline : 64 * line < 2 ^ 57) :
    (nextSlot (BitVec.ofNat 57 (64 * line + 12 * i))).toNat = 64 * line + 12 * (i + 1) := by
  rw [nextSlot_line_slot hi.le hline, Nat.add_assoc, slotAddr_line_slot line hi, toNat_ofNat_line_slot hi hline]

/-- Slot 4 is followed by slot 0 of the next line, whose number is 5 × (line + 1) + 0. -/
theorem nextSlot_end_of_line {line : Nat} (hline : 64 * (line + 1) < 2 ^ 57) :
    (nextSlot (BitVec.ofNat 57 (64 * line + 12 * 4))).toNat = 64 * (line + 1) := by
  have hnum : 5 * line + 4 + 1 = 5 * (line + 1) + 0 := by omega
  rw [nextSlot_line_slot le_rfl (by omega), hnum, slotAddr_line_slot (line + 1) (Nat.zero_le 4),
    toNat_ofNat_line_slot (Nat.zero_le 4) hline]
  rfl

/-- A branch whose slot number n + d is not negative leads to the slot of that number. -/
theorem branchDest_of_nonneg {a : VA} {d : BitVec 24} (h : 0 ≤ (slotNum a.toNat : Int) + d.toInt) :
    branchDest a d = slotAddr ((slotNum a.toNat : Int) + d.toInt).toNat := by
  simp only [branchDest, if_neg h.not_gt]

/-- Settles O28: slot numbers and addresses are inverse on the five slots of a line, and from them fall-through (within a line and
across its end) and branch offsets follow. -/
theorem slotsAreNumberedInOrder : Obligations.SlotsAreNumberedInOrder := by
  refine ⟨slotAligned_iff, fun line i hi => ⟨slotNum_line_slot line hi, slotAddr_line_slot line hi⟩, ?_, ?_⟩
  · intro line i hi hline
    split
    case isTrue hlt => exact nextSlot_within_line hlt (by omega)
    case isFalse hge =>
      obtain rfl : i = 4 := by omega
      exact nextSlot_end_of_line (by omega)
  · intro line i d hi hline hnum
    rw [← slotNum_ofNat_line_slot hi hline] at hnum ⊢
    rw [branchDest_of_nonneg hnum, slotAddr, Nat.mul_comm (_ % 5) 12]

end Sys2Proof.Machine
end

