-- ==== Sys2Proof/Proofs/SignOperations.lean ====
section
/-! FABS and FNEG on encodings (R144): which encodings decode to a NaN, and the two sign operations as arithmetic on an
encoding, in any format whose fraction has a bit. -/

namespace Sys2Proof.Machine

/-- An encoding is a NaN where its exponent is all ones and its fraction is not zero (R45), and it is signalling where the fraction
lies in its lower half. -/
theorem Fmt.decode_eq_nan {F : Fmt} {x : Nat} (hex : bitsAt x F.mb F.eb = 2 ^ F.eb - 1) (hfr : bitsAt x 0 F.mb ≠ 0) :
    F.decode x = .nan (decide (bitsAt x 0 F.mb < 2 ^ (F.mb - 1))) := by
  simp only [Fmt.decode, if_pos hex, if_neg hfr]

theorem Fmt.isNan_decode_iff (F : Fmt) (x : Nat) :
    (F.decode x).isNan = true ↔ bitsAt x F.mb F.eb = 2 ^ F.eb - 1 ∧ bitsAt x 0 F.mb ≠ 0 := by
  simp only [Fmt.decode]
  split_ifs with hex hfr hzero
  · simp [FVal.isNan, hfr]
  · simp [FVal.isNan, hex, hfr]
  · simp [FVal.isNan, hex]
  · simp [FVal.isNan, hex]

theorem Fmt.signOp_of_nan {F : Fmt} {x : Nat} {signalling : Bool} (h : F.decode x = .nan signalling) (f : Bool → Bool) :
    F.signOp f x = F.nanOut signalling := by
  simp only [Fmt.signOp, h]

theorem Fmt.signOp_of_not_nan {F : Fmt} {x : Nat} (h : ¬ (F.decode x).isNan = true) (f : Bool → Bool) :
    F.signOp f x = { bits := F.sign (f (decide (bitsAt x (F.eb + F.mb) 1 = 1))) + x % F.signBit, flags := 0 } := by
  cases hx : F.decode x with
  | nan signalling => exact absurd (by rw [hx]; rfl) h
  | inf neg => simp only [Fmt.signOp, hx]
  | fin neg m e => simp only [Fmt.signOp, hx]

/-- The lower half of the fractions are those whose top bit is clear, the quiet bit of a NaN (R46). -/
theorem bitsAt_lt_half_iff {m : Nat} (hm : 0 < m) (x : Nat) : bitsAt x 0 m < 2 ^ (m - 1) ↔ bitsAt x (m - 1) 1 = 0 := by
  obtain ⟨k, rfl⟩ : ∃ k, m = k + 1 := ⟨m - 1, by omega⟩
  simp only [bitsAt, pow_zero, Nat.div_one, pow_one, Nat.add_sub_cancel, Nat.mod_pow_succ]
  have hlow : x % 2 ^ k < 2 ^ k := Nat.mod_lt _ (Nat.two_pow_pos k)
  obtain htop | htop := Nat.mod_two_eq_zero_or_one (x / 2 ^ k) <;> rw [htop] <;> omega

/-- Adding 2^n modulo 2^(n + 1) inverts bit n and leaves the bits below it. -/
theorem add_two_pow_mod_two_pow_succ (x n : Nat) :
    (x + 2 ^ n) % 2 ^ (n + 1) = (if x / 2 ^ n % 2 = 0 then 2 ^ n else 0) + x % 2 ^ n := by
  have hcarry : (x + 2 ^ n) / 2 ^ n = x / 2 ^ n + 1 := Nat.add_div_right x (Nat.two_pow_pos n)
  rw [Nat.mod_pow_succ, Nat.add_mod_right, hcarry]
  obtain hbit | hbit := Nat.mod_two_eq_zero_or_one (x / 2 ^ n)
  · rw [if_pos hbit, Nat.succ_mod_two_eq_one_iff.mpr hbit, Nat.mul_one, Nat.add_comm]
  · rw [if_neg (by omega), Nat.succ_mod_two_eq_zero_iff.mpr hbit, Nat.mul_zero, Nat.add_comm]

/-- A NaN gives the canonical NaN under every operation on the sign, with NV where its quiet bit is clear. -/
theorem Fmt.signOp_nan_encoding {F : Fmt} (hmb : 0 < F.mb) {x : Nat} (hex : bitsAt x F.mb F.eb = 2 ^ F.eb - 1)
    (hfr : bitsAt x 0 F.mb ≠ 0) (f : Bool → Bool) :
    F.signOp f x = { bits := F.nanBits, flags := if bitsAt x (F.mb - 1) 1 = 0 then flNV else 0 } := by
  rw [Fmt.signOp_of_nan (Fmt.decode_eq_nan hex hfr)]
  simp only [Fmt.nanOut, decide_eq_true_eq, bitsAt_lt_half_iff hmb]

theorem Fmt.fabs_of_not_nan {F : Fmt} {x : Nat} (h : ¬ (F.decode x).isNan = true) :
    F.signOp (fun _ => false) x = { bits := x % 2 ^ (F.eb + F.mb), flags := 0 } := by
  simp [Fmt.signOp_of_not_nan h, Fmt.sign, Fmt.signBit]

theorem Fmt.fneg_of_not_nan {F : Fmt} {x : Nat} (h : ¬ (F.decode x).isNan = true) :
    F.signOp (fun n => !n) x = { bits := (x + 2 ^ (F.eb + F.mb)) % 2 ^ (F.eb + F.mb + 1), flags := 0 } := by
  rw [Fmt.signOp_of_not_nan h, add_two_pow_mod_two_pow_succ]
  simp [Fmt.sign, Fmt.signBit, bitsAt]

theorem Fmt.width_eq (F : Fmt) : F.width = F.eb + F.mb + 1 := by
  unfold Fmt.width
  omega

/-- Settles O19: a NaN by the canonical NaN's case of `signOp`, any other encoding by the arithmetic of its sign bit. Of the three
formats the proof uses only that their fractions have a bit. -/
theorem fabsAndFnegActOnTheSign : Obligations.FabsAndFnegActOnTheSign := by
  intro F hF x _ nan snan
  have hmb : 0 < F.mb := by
    simp only [List.mem_cons, List.not_mem_nil, or_false] at hF
    obtain rfl | rfl | rfl := hF <;> decide
  constructor
  · intro hnan f
    rw [Fmt.signOp_nan_encoding hmb hnan.1 hnan.2]
    simp only [snan, hnan, true_and]
  · intro hnot
    have hdec : ¬ (F.decode x).isNan = true := fun h => hnot ((F.isNan_decode_iff x).mp h)
    rw [Fmt.width_eq, Nat.add_sub_cancel]
    exact ⟨Fmt.fabs_of_not_nan hdec, Fmt.fneg_of_not_nan hdec⟩

end Sys2Proof.Machine
end
